-- ==== Sys2Proof/Word.lean ====
section
/-!
DEFINITION. The word types of the K2 (00_scope.md R4, R5; 01_machine.md R31).
-/

namespace Sys2Proof

/-- A scalar register, an address, a control register: 64 bits (01_machine.md R31). -/
abbrev Word := BitVec 64

/-- One byte of memory (00_scope.md R5). -/
abbrev Byte := BitVec 8

/-- One instruction word (02_encoding.md R38). -/
abbrev IWord := BitVec 32

end Sys2Proof
end

