-- ==== Sys2Proof/Machine/Bits.lean ====
section
/-!
DEFINITION. Bit fields, extensions and byte order (00_scope.md R4, R5, R11).
-/

namespace Sys2Proof.Machine

/-- Bits [lo + n - 1 : lo] of x, as a number (R4). -/
def fld (x lo n : Nat) : Nat := x / 2 ^ lo % 2 ^ n

/-- Bit n of x (R4). -/
def bitOf (x n : Nat) : Bool := x / 2 ^ n % 2 == 1

/-- `SExt(x, w)` of R11: the low w bits read as a signed integer. -/
def sext (x w : Nat) : Int :=
  if x % 2 ^ w < 2 ^ (w - 1) then (x % 2 ^ w : Nat) else ((x % 2 ^ w : Nat) : Int) - (2 ^ w : Nat)

/-- `Trunc(x, w)` of R11, for an exact integer: the low w bits as a number. -/
def truncN (x : Int) (w : Nat) : Nat := (x % (2 ^ w : Nat)).toNat

/-- `Sat(x, lo, hi)` of R11. -/
def sat (x lo hi : Int) : Int := if x < lo then lo else if hi < x then hi else x

/-- `Trunc(x, 64)` as a register value. -/
def wrap64 (x : Int) : Word := BitVec.ofInt 64 x

/-- A number as a register value, modulo 2^64. -/
def w64 (x : Nat) : Word := BitVec.ofNat 64 x

/-- 1 or 0 as a register value. -/
def wBool (b : Bool) : Word := if b then 1#64 else 0#64

/-- 1 or 0 as a number. -/
def bNat (b : Bool) : Nat := if b then 1 else 0

/-- The number whose bytes these are, lowest first (R5). -/
def leNat : List Byte → Nat
  | [] => 0
  | b :: t => b.toNat + 256 * leNat t

/-- The n bytes of x, lowest first (R5). -/
def leBytes (x : Nat) : Nat → List Byte
  | 0 => []
  | n + 1 => BitVec.ofNat 8 x :: leBytes (x / 256) n

/-- The number of one bits among the low n bits of x. -/
def popCount (x : Nat) : Nat → Nat
  | 0 => 0
  | n + 1 => x % 2 + popCount (x / 2) n

/-- The number of significant bits of x, counting at most n. -/
def bitLen (x : Nat) : Nat → Nat
  | 0 => 0
  | n + 1 => if x = 0 then 0 else 1 + bitLen (x / 2) n

/-- The number of zero bits below the lowest one bit of x, counting at most n. -/
def lowZeros (x : Nat) : Nat → Nat
  | 0 => 0
  | n + 1 => if x % 2 = 1 then 0 else 1 + lowZeros (x / 2) n

/-- The low n bits of x in reverse order. -/
def revBits (x : Nat) : Nat → Nat
  | 0 => 0
  | n + 1 => x % 2 * 2 ^ n + revBits (x / 2) n

/-- The quotient rounded up. -/
def ceilDiv (a b : Nat) : Nat := (a + b - 1) / b

/-- Replace bits [lo + n - 1 : lo] of x by v. -/
def setFld (x lo n v : Nat) : Nat := x - fld x lo n * 2 ^ lo + v % 2 ^ n * 2 ^ lo

/-- The numbers from lo, n of them, ascending. -/
def upto (lo : Nat) : Nat → List Nat
  | 0 => []
  | n + 1 => lo :: upto (lo + 1) n

/-- Put a number into an ascending list without repeating it. -/
def insertNat (x : Nat) : List Nat → List Nat
  | [] => [x]
  | y :: t => if x < y then x :: y :: t else if x = y then y :: t else y :: insertNat x t

/-- The distinct numbers of a list, ascending. -/
def sortedDistinct (l : List Nat) : List Nat := l.foldr insertNat []

end Sys2Proof.Machine
end

