-- ==== Sys2Proof/Config.lean ====
section
/-!
DEFINITION. What one implementation fixes, and the values the spec leaves free. A constant declared `opaque` has
no body: nothing in Lean can evaluate it or prove a value of it (00_scope.md R14 gives the rest of the machine).
-/

namespace Sys2Proof.Config

/-- The number of the modelled core: core 0 of CD0 (17_system.md R452, 18_platform.md R477). -/
def coreId : Nat := 0

/-- The compute die of the modelled core (01_machine.md R18). -/
def dieId : Nat := 0

/-- Compute dies of the package (01_machine.md R17). -/
def dies : Nat := 8

/-- Cores of one compute die (01_machine.md R17). -/
def coresPerDie : Nat := 144

/-- The LPDDR6 tier is populated: the form is K2-M (00_scope.md R1). -/
def hasLpddr : Bool := true

/-- The verdict on a signature whose verification meets a bound of FIPS 204's Appendix C: key, message, signature (18_platform.md
R477, log 9). -/
opaque verifyBeyond : List Byte → List Byte → List Byte → Bool

/-- The public key of a seed whose key generation meets a bound of FIPS 204's Appendix C (18_platform.md R478, log 9). -/
opaque keyBeyond : List Byte → BitVec 15616

/-- The signature, by seed, randomness and message, where signing meets a bound of FIPS 204's Appendix C (18_platform.md
R479, log 9). -/
opaque signBeyond : List Byte → List Byte → List Byte → BitVec 26472

/-- The 32 fresh random bytes of the n-th hedged signature (18_platform.md R479, log 9). -/
opaque signRandom : Nat → BitVec 256

/-- The 256-bit SHAKE256 digest held by fuse slot 0 or 1 (18_platform.md R477, log 9). -/
opaque fuseDigest : Nat → BitVec 256

/-- Fuse slot 0 or 1 is revoked (18_platform.md R477, log 9). -/
opaque fuseRevoked : Nat → Bool

/-- The 256-bit fused device secret (18_platform.md R478, log 9). -/
opaque deviceSecret : BitVec 256

/-- The address that a firmware image's header names (18_platform.md R477, log 9). -/
opaque imageEntry : List Byte → Word

/-- The security version a firmware image carries (18_platform.md R479, log 9). -/
opaque imageVersion : List Byte → Word

/-- The boot count Aedpevis holds at the n-th boot (18_platform.md R479, log 9). -/
opaque bootCount : Nat → Word

/-- The MAC address of a port that the boot flash holds (18_platform.md R462, log 9). -/
opaque flashMac : Nat → BitVec 48

/-- The correctly rounded value of a transcendental function whose computation did not settle within the model's
precision: function number, operand and rounding mode give the FP32 code (09_word.md R236, log 12). -/
opaque undecided : Nat → Nat → Nat → BitVec 32

end Sys2Proof.Config
end

