-- ==== Sys2Proof/Machine/SMap.lean ====
section
/-!
DEFINITION. Sparse storage: the canonical form in which the model holds memory and every large register file.
A map lists (key, value) pairs with strictly rising keys and no value zero; a key that is not listed reads zero.
-/

namespace Sys2Proof.Machine

/-- Sparse storage of w-bit values by number. -/
abbrev SMap (w : Nat) := List (Nat × BitVec w)

/-- The value at a key; zero when the key is not listed. -/
def mapGet {w : Nat} : SMap w → Nat → BitVec w
  | [], _ => 0#w
  | (k, v) :: t, a => if k = a then v else mapGet t a

/-- The map without a key. -/
def mapErase {w : Nat} (m : SMap w) (a : Nat) : SMap w := m.filter (fun c => c.1 != a)

/-- Insert a pair before the first greater key. -/
def mapInsert {w : Nat} : SMap w → Nat → BitVec w → SMap w
  | [], a, v => [(a, v)]
  | (k, x) :: t, a, v => if a < k then (a, v) :: (k, x) :: t else (k, x) :: mapInsert t a v

/-- Write one value; writing zero removes the entry. -/
def mapSet {w : Nat} (m : SMap w) (a : Nat) (v : BitVec w) : SMap w :=
  if v = 0#w then mapErase m a else mapInsert (mapErase m a) a v

/-- The entries with lo ≤ key < hi. -/
def mapPart {w : Nat} (m : SMap w) (lo hi : Nat) : SMap w := m.filter (fun c => decide (lo ≤ c.1 ∧ c.1 < hi))

/-- The nonzero values f gives the keys lo, lo + 1, …, n of them. -/
def mapBuild {w : Nat} (f : Nat → BitVec w) (lo : Nat) : Nat → SMap w
  | 0 => []
  | n + 1 => if f lo = 0#w then mapBuild f (lo + 1) n else (lo, f lo) :: mapBuild f (lo + 1) n

/-- Replace the values of the keys lo to lo + n - 1 by those of f. -/
def mapFill {w : Nat} (m : SMap w) (lo n : Nat) (f : Nat → BitVec w) : SMap w :=
  m.filter (fun c => decide (c.1 < lo)) ++ mapBuild f lo n ++ m.filter (fun c => decide (lo + n ≤ c.1))

/-- Remove the keys lo to lo + n - 1. -/
def mapClear {w : Nat} (m : SMap w) (lo n : Nat) : SMap w :=
  m.filter (fun c => decide (c.1 < lo ∨ lo + n ≤ c.1))

/-- The canonical form above a bound: every key at least lo, strictly rising, no value zero. -/
def mapOk {w : Nat} (m : SMap w) (lo : Nat) : Bool :=
  match m with
  | [] => true
  | (k, v) :: t => decide (lo ≤ k) && v != 0#w && mapOk t (k + 1)

end Sys2Proof.Machine
end

