-- ==== Sys2Proof/Syntax.lean ====
section
/-!
DEFINITION. The instructions and events of the K2: one constructor of `Instr` per row of the opcode table.
A constructor of an encoded row carries the row's fields as the word holds them, lowest field first
(02_encoding.md R40, R44). A constructor of a row without an encoding is a step that an agent of the package
takes (95_what_each_step_holds.md); its arguments are what that agent brings along. The instructions that a repeat frame may
hold (02_encoding.md R55) come first.
-/

namespace Sys2Proof

/-- One constructor per row of the opcode table; the docstring names the rule that defines the row. -/
inductive Instr where
  /-- R67. Writes the 64-bit wrapped sum of sA and sB to sD. -/
  | add (d : BitVec 5) (a : BitVec 5) (b : BitVec 5)
  /-- R67. Writes the 64-bit wrapped difference sA minus sB to sD. -/
  | sub (d : BitVec 5) (a : BitVec 5) (b : BitVec 5)
  /-- R67. Writes the bitwise AND of sA and sB to sD. -/
  | and (d : BitVec 5) (a : BitVec 5) (b : BitVec 5)
  /-- R67. Writes the bitwise OR of sA and sB to sD. -/
  | or (d : BitVec 5) (a : BitVec 5) (b : BitVec 5)
  /-- R67. Writes the bitwise XOR of sA and sB to sD. -/
  | xor (d : BitVec 5) (a : BitVec 5) (b : BitVec 5)
  /-- R67. Writes sA AND NOT sB to sD. -/
  | andn (d : BitVec 5) (a : BitVec 5) (b : BitVec 5)
  /-- R67. Shifts sA left by the amount in sB bits [7:0]. -/
  | shl (d : BitVec 5) (a : BitVec 5) (b : BitVec 5)
  /-- R67. Shifts sA right logically by the amount in sB bits [7:0]. -/
  | shrl (d : BitVec 5) (a : BitVec 5) (b : BitVec 5)
  /-- R67. Shifts sA right arithmetically by the amount in sB bits [7:0]. -/
  | shra (d : BitVec 5) (a : BitVec 5) (b : BitVec 5)
  /-- R67. Writes 1 if sA is signed-less than sB, else 0. -/
  | cmplt (d : BitVec 5) (a : BitVec 5) (b : BitVec 5)
  /-- R67. Writes 1 if sA is unsigned-less than sB, else 0. -/
  | cmpltu (d : BitVec 5) (a : BitVec 5) (b : BitVec 5)
  /-- R67. Writes the signed smaller of sA and sB. -/
  | min (d : BitVec 5) (a : BitVec 5) (b : BitVec 5)
  /-- R67. Writes the signed larger of sA and sB. -/
  | max (d : BitVec 5) (a : BitVec 5) (b : BitVec 5)
  /-- R67. Writes the unsigned smaller of sA and sB. -/
  | minu (d : BitVec 5) (a : BitVec 5) (b : BitVec 5)
  /-- R67. Writes the unsigned larger of sA and sB. -/
  | maxu (d : BitVec 5) (a : BitVec 5) (b : BitVec 5)
  /-- R67. Writes 1 if sA equals sB, else 0. -/
  | cmpeq (d : BitVec 5) (a : BitVec 5) (b : BitVec 5)
  /-- R68. Adds a sign-extended 13-bit immediate to sA. -/
  | addi (d : BitVec 5) (a : BitVec 5) (i : BitVec 13)
  /-- R68. Writes 1 if sA is signed-less than the immediate. -/
  | cmplti (d : BitVec 5) (a : BitVec 5) (i : BitVec 13)
  /-- R68. Writes 1 if sA is unsigned-less than the sign-extended immediate. -/
  | cmpltiu (d : BitVec 5) (a : BitVec 5) (i : BitVec 13)
  /-- R68. ANDs sA with the sign-extended immediate. -/
  | andi (d : BitVec 5) (a : BitVec 5) (i : BitVec 13)
  /-- R68. ORs sA with the sign-extended immediate. -/
  | ori (d : BitVec 5) (a : BitVec 5) (i : BitVec 13)
  /-- R68. XORs sA with the sign-extended immediate. -/
  | xori (d : BitVec 5) (a : BitVec 5) (i : BitVec 13)
  /-- R68. Writes 1 if sA equals the sign-extended immediate. -/
  | cmpeqi (d : BitVec 5) (a : BitVec 5) (i : BitVec 13)
  /-- R69. Shifts sA left by an immediate amount 0 to 63. -/
  | shli (d : BitVec 5) (a : BitVec 5) (n : BitVec 6)
  /-- R69. Shifts sA right logically by an immediate amount. -/
  | shrli (d : BitVec 5) (a : BitVec 5) (n : BitVec 6)
  /-- R69. Shifts sA right arithmetically by an immediate amount. -/
  | shrai (d : BitVec 5) (a : BitVec 5) (n : BitVec 6)
  /-- R74. Writes the low 64 bits of the product of sA and sB. -/
  | mul (d : BitVec 5) (a : BitVec 5) (b : BitVec 5)
  /-- R74. Writes the high 64 bits of the signed-by-signed product. -/
  | mulhSs (d : BitVec 5) (a : BitVec 5) (b : BitVec 5)
  /-- R74. Writes the high 64 bits of the unsigned-by-unsigned product. -/
  | mulhUu (d : BitVec 5) (a : BitVec 5) (b : BitVec 5)
  /-- R74. Writes the high 64 bits of the signed-by-unsigned product. -/
  | mulhSu (d : BitVec 5) (a : BitVec 5) (b : BitVec 5)
  /-- R74. Writes the floor quotient of signed division, 0 for a zero divisor. -/
  | divs (d : BitVec 5) (a : BitVec 5) (b : BitVec 5)
  /-- R74. Writes the quotient of unsigned division, 0 for a zero divisor. -/
  | divu (d : BitVec 5) (a : BitVec 5) (b : BitVec 5)
  /-- R74. Writes the floor remainder of signed division, the dividend for a zero divisor. -/
  | mods (d : BitVec 5) (a : BitVec 5) (b : BitVec 5)
  /-- R74. Writes the remainder of unsigned division, the dividend for a zero divisor. -/
  | modu (d : BitVec 5) (a : BitVec 5) (b : BitVec 5)
  /-- R75. Counts leading zero bits of sA. -/
  | clz (d : BitVec 5) (a : BitVec 5)
  /-- R75. Counts trailing zero bits of sA. -/
  | ctz (d : BitVec 5) (a : BitVec 5)
  /-- R75. Counts set bits of sA. -/
  | cpop (d : BitVec 5) (a : BitVec 5)
  /-- R75. Reverses the bit order of sA. -/
  | brev (d : BitVec 5) (a : BitVec 5)
  /-- R76. Extracts a sign-extended bit field of sA described by sB. -/
  | bfx (d : BitVec 5) (a : BitVec 5) (b : BitVec 5)
  /-- R76. Extracts a zero-extended bit field of sA described by sB. -/
  | bfxu (d : BitVec 5) (a : BitVec 5) (b : BitVec 5)
  /-- R76. Inserts the low bits of sA into a bit field of sD described by sB. -/
  | bfi (d : BitVec 5) (a : BitVec 5) (b : BitVec 5)
  /-- R70. Loads a sign-extended 21-bit immediate times 8,192 into sD. -/
  | lhi (d : BitVec 5) (i : BitVec 21)
  /-- R71. Writes pc plus a sign-extended 21-bit immediate times 8,192 into sD. -/
  | pcrel (d : BitVec 5) (i : BitVec 21)
  /-- R72. Sets sD to a 16-bit immediate at the chosen halfword, other bits zero. -/
  | ihz (d : BitVec 5) (h : BitVec 2) (i : BitVec 16)
  /-- R72. Replaces one halfword of sD with a 16-bit immediate, keeping the others. -/
  | ihk (d : BitVec 5) (h : BitVec 2) (i : BitVec 16)
  /-- R72. Places a signed 16-bit immediate at a halfword, sign-filling above and clearing below. -/
  | ihs (d : BitVec 5) (h : BitVec 2) (i : BitVec 16)
  /-- R153. Loads a sign-extended byte. -/
  | lb (d : BitVec 5) (a : BitVec 5) (o : BitVec 13)
  /-- R153. Loads a sign-extended halfword. -/
  | lh (d : BitVec 5) (a : BitVec 5) (o : BitVec 13)
  /-- R153. Loads a sign-extended 32-bit word. -/
  | lw (d : BitVec 5) (a : BitVec 5) (o : BitVec 13)
  /-- R153. Loads a 64-bit doubleword. -/
  | ld (d : BitVec 5) (a : BitVec 5) (o : BitVec 13)
  /-- R153. Loads a zero-extended byte. -/
  | lbu (d : BitVec 5) (a : BitVec 5) (o : BitVec 13)
  /-- R153. Loads a zero-extended halfword. -/
  | lhu (d : BitVec 5) (a : BitVec 5) (o : BitVec 13)
  /-- R153. Loads a zero-extended 32-bit word. -/
  | lwu (d : BitVec 5) (a : BitVec 5) (o : BitVec 13)
  /-- R153. Stores the low byte of the data register. -/
  | sb (d : BitVec 5) (a : BitVec 5) (o : BitVec 13)
  /-- R153. Stores the low halfword of the data register. -/
  | sh (d : BitVec 5) (a : BitVec 5) (o : BitVec 13)
  /-- R153. Stores the low 32 bits of the data register. -/
  | sw (d : BitVec 5) (a : BitVec 5) (o : BitVec 13)
  /-- R153. Stores all 64 bits of the data register. -/
  | sd (d : BitVec 5) (a : BitVec 5) (o : BitVec 13)
  /-- R157. Atomically swaps sB into memory at sA at the encoded scope, returning the old value. -/
  | atswp (d : BitVec 5) (a : BitVec 5) (b : BitVec 5) (s : BitVec 2) (z : BitVec 1)
  /-- R157. Atomically adds sB to memory at sA, returning the old value. -/
  | atadd (d : BitVec 5) (a : BitVec 5) (b : BitVec 5) (s : BitVec 2) (z : BitVec 1)
  /-- R157. Atomically ANDs sB into memory at sA. -/
  | atand (d : BitVec 5) (a : BitVec 5) (b : BitVec 5) (s : BitVec 2) (z : BitVec 1)
  /-- R157. Atomically ORs sB into memory at sA. -/
  | ator (d : BitVec 5) (a : BitVec 5) (b : BitVec 5) (s : BitVec 2) (z : BitVec 1)
  /-- R157. Atomically XORs sB into memory at sA. -/
  | atxor (d : BitVec 5) (a : BitVec 5) (b : BitVec 5) (s : BitVec 2) (z : BitVec 1)
  /-- R157. Atomically writes the signed minimum of memory and sB. -/
  | atmin (d : BitVec 5) (a : BitVec 5) (b : BitVec 5) (s : BitVec 2) (z : BitVec 1)
  /-- R157. Atomically writes the signed maximum of memory and sB. -/
  | atmax (d : BitVec 5) (a : BitVec 5) (b : BitVec 5) (s : BitVec 2) (z : BitVec 1)
  /-- R157. Atomically writes the unsigned minimum of memory and sB. -/
  | atminu (d : BitVec 5) (a : BitVec 5) (b : BitVec 5) (s : BitVec 2) (z : BitVec 1)
  /-- R157. Atomically writes the unsigned maximum of memory and sB. -/
  | atmaxu (d : BitVec 5) (a : BitVec 5) (b : BitVec 5) (s : BitVec 2) (z : BitVec 1)
  /-- R157. Atomically writes sB if memory equals sD, returning the old value. -/
  | atcas (d : BitVec 5) (a : BitVec 5) (b : BitVec 5) (s : BitVec 2) (z : BitVec 1)
  /-- R195. Element-wise sum of two vectors. -/
  | vadd (d : BitVec 6) (a : BitVec 6) (b : BitVec 6) (m : BitVec 3)
  /-- R196. Element-wise add with carry in and out through a carry mask. -/
  | vadc (d : BitVec 6) (a : BitVec 6) (b : BitVec 6) (c : BitVec 3)
  /-- R195. Element-wise difference of two vectors. -/
  | vsub (d : BitVec 6) (a : BitVec 6) (b : BitVec 6) (m : BitVec 3)
  /-- R196. Element-wise subtract with borrow in and out through a mask. -/
  | vsbc (d : BitVec 6) (a : BitVec 6) (b : BitVec 6) (c : BitVec 3)
  /-- R195. Element-wise product. -/
  | vmul (d : BitVec 6) (a : BitVec 6) (b : BitVec 6) (m : BitVec 3)
  /-- R195. Element-wise multiply-accumulate into the destination. -/
  | vmac (d : BitVec 6) (a : BitVec 6) (b : BitVec 6) (m : BitVec 3)
  /-- R195. Element-wise AND. -/
  | vand (d : BitVec 6) (a : BitVec 6) (b : BitVec 6) (m : BitVec 3)
  /-- R195. Element-wise OR. -/
  | vor (d : BitVec 6) (a : BitVec 6) (b : BitVec 6) (m : BitVec 3)
  /-- R195. Element-wise XOR. -/
  | vxor (d : BitVec 6) (a : BitVec 6) (b : BitVec 6) (m : BitVec 3)
  /-- R197. Element-wise left shift by vector amounts. -/
  | vsll (d : BitVec 6) (a : BitVec 6) (b : BitVec 6) (m : BitVec 3)
  /-- R197. Element-wise logical right shift by vector amounts. -/
  | vsrl (d : BitVec 6) (a : BitVec 6) (b : BitVec 6) (m : BitVec 3)
  /-- R197. Element-wise arithmetic right shift by vector amounts. -/
  | vsra (d : BitVec 6) (a : BitVec 6) (b : BitVec 6) (m : BitVec 3)
  /-- R198. Saturates each element to the destination range. -/
  | vsat (d : BitVec 6) (a : BitVec 6) (m : BitVec 3)
  /-- R198. Rounding arithmetic right shift with saturation by vector amounts. -/
  | vrsra (d : BitVec 6) (a : BitVec 6) (b : BitVec 6) (m : BitVec 3)
  /-- R195. Changes element width by extension or truncation. -/
  | vwid (d : BitVec 6) (a : BitVec 6) (m : BitVec 3)
  /-- R195. Selects elements of vA or vB by a selector mask. -/
  | vsel (d : BitVec 6) (a : BitVec 6) (b : BitVec 6) (m : BitVec 3)
  /-- R195. Copies raw element planes. -/
  | vmv (d : BitVec 6) (a : BitVec 6) (m : BitVec 3)
  /-- R195. Element-wise signed minimum. -/
  | vmin (d : BitVec 6) (a : BitVec 6) (b : BitVec 6) (m : BitVec 3)
  /-- R195. Element-wise signed maximum. -/
  | vmax (d : BitVec 6) (a : BitVec 6) (b : BitVec 6) (m : BitVec 3)
  /-- R195. Element-wise unsigned minimum. -/
  | vminu (d : BitVec 6) (a : BitVec 6) (b : BitVec 6) (m : BitVec 3)
  /-- R195. Element-wise unsigned maximum. -/
  | vmaxu (d : BitVec 6) (a : BitVec 6) (b : BitVec 6) (m : BitVec 3)
  /-- R195. Broadcasts a scalar to every performed element. -/
  | vbcst (d : BitVec 6) (b : BitVec 5) (m : BitVec 3)
  /-- R195. Writes each element's index. -/
  | vidx (d : BitVec 6) (m : BitVec 3)
  /-- R199. Adds a scalar to each element. -/
  | vaddScalar (d : BitVec 6) (a : BitVec 6) (b : BitVec 5) (m : BitVec 3)
  /-- R199. Adds a scalar with carry through the carry mask. -/
  | vadcScalar (d : BitVec 6) (a : BitVec 6) (b : BitVec 5) (c : BitVec 3)
  /-- R199. Subtracts a scalar from each element. -/
  | vsubScalar (d : BitVec 6) (a : BitVec 6) (b : BitVec 5) (m : BitVec 3)
  /-- R199. Subtracts a scalar with borrow through the mask. -/
  | vsbcScalar (d : BitVec 6) (a : BitVec 6) (b : BitVec 5) (c : BitVec 3)
  /-- R199. Multiplies each element by a scalar. -/
  | vmulScalar (d : BitVec 6) (a : BitVec 6) (b : BitVec 5) (m : BitVec 3)
  /-- R199. Multiply-accumulates each element by a scalar. -/
  | vmacScalar (d : BitVec 6) (a : BitVec 6) (b : BitVec 5) (m : BitVec 3)
  /-- R199. ANDs each element with a scalar. -/
  | vandScalar (d : BitVec 6) (a : BitVec 6) (b : BitVec 5) (m : BitVec 3)
  /-- R199. ORs each element with a scalar. -/
  | vorScalar (d : BitVec 6) (a : BitVec 6) (b : BitVec 5) (m : BitVec 3)
  /-- R199. XORs each element with a scalar. -/
  | vxorScalar (d : BitVec 6) (a : BitVec 6) (b : BitVec 5) (m : BitVec 3)
  /-- R199. Shifts elements left by a scalar amount. -/
  | vsllScalar (d : BitVec 6) (a : BitVec 6) (b : BitVec 5) (m : BitVec 3)
  /-- R199. Shifts elements right logically by a scalar amount. -/
  | vsrlScalar (d : BitVec 6) (a : BitVec 6) (b : BitVec 5) (m : BitVec 3)
  /-- R199. Shifts elements right arithmetically by a scalar amount. -/
  | vsraScalar (d : BitVec 6) (a : BitVec 6) (b : BitVec 5) (m : BitVec 3)
  /-- R198. Saturates elements to a bound given by a scalar. -/
  | vsatScalar (d : BitVec 6) (a : BitVec 6) (b : BitVec 5) (m : BitVec 3)
  /-- R199. Rounding arithmetic right shift with saturation by a scalar amount. -/
  | vrsraScalar (d : BitVec 6) (a : BitVec 6) (b : BitVec 5) (m : BitVec 3)
  /-- R199. Signed minimum of each element and a scalar. -/
  | vminScalar (d : BitVec 6) (a : BitVec 6) (b : BitVec 5) (m : BitVec 3)
  /-- R199. Signed maximum of each element and a scalar. -/
  | vmaxScalar (d : BitVec 6) (a : BitVec 6) (b : BitVec 5) (m : BitVec 3)
  /-- R199. Unsigned minimum of each element and a scalar. -/
  | vminuScalar (d : BitVec 6) (a : BitVec 6) (b : BitVec 5) (m : BitVec 3)
  /-- R199. Unsigned maximum of each element and a scalar. -/
  | vmaxuScalar (d : BitVec 6) (a : BitVec 6) (b : BitVec 5) (m : BitVec 3)
  /-- R199. Shifts elements left by an immediate amount. -/
  | vsllImmediate (d : BitVec 6) (a : BitVec 6) (n : BitVec 6) (m : BitVec 3)
  /-- R199. Shifts elements right logically by an immediate amount. -/
  | vsrlImmediate (d : BitVec 6) (a : BitVec 6) (n : BitVec 6) (m : BitVec 3)
  /-- R199. Shifts elements right arithmetically by an immediate amount. -/
  | vsraImmediate (d : BitVec 6) (a : BitVec 6) (n : BitVec 6) (m : BitVec 3)
  /-- R199. Rounding arithmetic right shift with saturation by an immediate amount. -/
  | vrsraImmediate (d : BitVec 6) (a : BitVec 6) (n : BitVec 6) (m : BitVec 3)
  /-- R211. Writes a mask of elements equal to vB. -/
  | vseq (d : BitVec 3) (a : BitVec 6) (b : BitVec 6) (m : BitVec 3)
  /-- R211. Writes a mask of elements unequal to vB. -/
  | vsne (d : BitVec 3) (a : BitVec 6) (b : BitVec 6) (m : BitVec 3)
  /-- R211. Writes a mask of elements signed-less than vB. -/
  | vslt (d : BitVec 3) (a : BitVec 6) (b : BitVec 6) (m : BitVec 3)
  /-- R211. Writes a mask of elements signed-less or equal to vB. -/
  | vsle (d : BitVec 3) (a : BitVec 6) (b : BitVec 6) (m : BitVec 3)
  /-- R211. Writes a mask of elements unsigned-less than vB. -/
  | vsltu (d : BitVec 3) (a : BitVec 6) (b : BitVec 6) (m : BitVec 3)
  /-- R211. Writes a mask of elements unsigned-less or equal to vB. -/
  | vsleu (d : BitVec 3) (a : BitVec 6) (b : BitVec 6) (m : BitVec 3)
  /-- R211. Writes a mask of elements signed-greater than vB. -/
  | vsgt (d : BitVec 3) (a : BitVec 6) (b : BitVec 6) (m : BitVec 3)
  /-- R211. Writes a mask of elements unsigned-greater than vB. -/
  | vsgtu (d : BitVec 3) (a : BitVec 6) (b : BitVec 6) (m : BitVec 3)
  /-- R211. Writes a mask of elements equal to a scalar. -/
  | vseqScalar (d : BitVec 3) (a : BitVec 6) (b : BitVec 5) (m : BitVec 3)
  /-- R211. Writes a mask of elements unequal to a scalar. -/
  | vsneScalar (d : BitVec 3) (a : BitVec 6) (b : BitVec 5) (m : BitVec 3)
  /-- R211. Writes a mask of elements signed-less than a scalar. -/
  | vsltScalar (d : BitVec 3) (a : BitVec 6) (b : BitVec 5) (m : BitVec 3)
  /-- R211. Writes a mask of elements signed-less or equal to a scalar. -/
  | vsleScalar (d : BitVec 3) (a : BitVec 6) (b : BitVec 5) (m : BitVec 3)
  /-- R211. Writes a mask of elements unsigned-less than a scalar. -/
  | vsltuScalar (d : BitVec 3) (a : BitVec 6) (b : BitVec 5) (m : BitVec 3)
  /-- R211. Writes a mask of elements unsigned-less or equal to a scalar. -/
  | vsleuScalar (d : BitVec 3) (a : BitVec 6) (b : BitVec 5) (m : BitVec 3)
  /-- R211. Writes a mask of elements signed-greater than a scalar. -/
  | vsgtScalar (d : BitVec 3) (a : BitVec 6) (b : BitVec 5) (m : BitVec 3)
  /-- R211. Writes a mask of elements unsigned-greater than a scalar. -/
  | vsgtuScalar (d : BitVec 3) (a : BitVec 6) (b : BitVec 5) (m : BitVec 3)
  /-- R213. Mask AND. -/
  | mand (d : BitVec 3) (a : BitVec 3) (b : BitVec 3)
  /-- R213. Mask OR. -/
  | mor (d : BitVec 3) (a : BitVec 3) (b : BitVec 3)
  /-- R213. Mask XOR. -/
  | mxor (d : BitVec 3) (a : BitVec 3) (b : BitVec 3)
  /-- R213. Mask AND NOT. -/
  | mandn (d : BitVec 3) (a : BitVec 3) (b : BitVec 3)
  /-- R213. Mask complement. -/
  | mnot (d : BitVec 3) (a : BitVec 3)
  /-- R214. Slides mask bits by a signed scalar amount. -/
  | mslide (d : BitVec 3) (a : BitVec 3) (s : BitVec 5)
  /-- R215. Returns the index of the first set mask bit below vl, or -1. -/
  | vfirst (a : BitVec 3) (d : BitVec 5)
  /-- R215. Returns the index of the last set mask bit below vl, or -1. -/
  | vlast (a : BitVec 3) (d : BitVec 5)
  /-- R215. Counts set mask bits below vl. -/
  | mcnt (a : BitVec 3) (d : BitVec 5)
  /-- R213. Copies a mask. -/
  | mmv (d : BitVec 3) (a : BitVec 3)
  /-- R217. Signed sum of performed elements into a scalar. -/
  | vredsum (d : BitVec 5) (a : BitVec 6) (m : BitVec 3)
  /-- R217. Unsigned sum of performed elements into a scalar. -/
  | vredsumu (d : BitVec 5) (a : BitVec 6) (m : BitVec 3)
  /-- R217. Signed minimum of performed elements. -/
  | vredmin (d : BitVec 5) (a : BitVec 6) (m : BitVec 3)
  /-- R217. Signed maximum of performed elements. -/
  | vredmax (d : BitVec 5) (a : BitVec 6) (m : BitVec 3)
  /-- R217. Unsigned minimum of performed elements. -/
  | vredminu (d : BitVec 5) (a : BitVec 6) (m : BitVec 3)
  /-- R217. Unsigned maximum of performed elements. -/
  | vredmaxu (d : BitVec 5) (a : BitVec 6) (m : BitVec 3)
  /-- R217. AND of performed element patterns. -/
  | vredand (d : BitVec 5) (a : BitVec 6) (m : BitVec 3)
  /-- R217. OR of performed element patterns. -/
  | vredor (d : BitVec 5) (a : BitVec 6) (m : BitVec 3)
  /-- R217. XOR of performed element patterns. -/
  | vredxor (d : BitVec 5) (a : BitVec 6) (m : BitVec 3)
  /-- R221. Gathers elements of vA by an index vector. -/
  | vperm (d : BitVec 6) (a : BitVec 6) (b : BitVec 6) (m : BitVec 3)
  /-- R222. Slides a vector up by a scalar amount. -/
  | vslup (d : BitVec 6) (a : BitVec 6) (b : BitVec 5) (m : BitVec 3)
  /-- R222. Slides a vector down by a scalar amount. -/
  | vsldn (d : BitVec 6) (a : BitVec 6) (b : BitVec 5) (m : BitVec 3)
  /-- R223. Packs selected elements to the front of the vector. -/
  | vcomp (d : BitVec 6) (a : BitVec 6) (m : BitVec 3)
  /-- R223. Places consecutive source elements into selected positions. -/
  | vexpd (d : BitVec 6) (a : BitVec 6) (m : BitVec 3)
  /-- R162. Unit-stride vector load with run-ahead translation. -/
  | vld (d : BitVec 6) (a : BitVec 5) (m : BitVec 3) (c : BitVec 3)
  /-- R162. Strided vector load. -/
  | vlds (d : BitVec 6) (a : BitVec 5) (b : BitVec 5) (m : BitVec 3) (c : BitVec 3)
  /-- R162. Indexed vector load. -/
  | vldx (d : BitVec 6) (a : BitVec 5) (b : BitVec 6) (m : BitVec 3) (c : BitVec 3)
  /-- R170. Fault-only-first load that trims vl at a later fault. -/
  | vldff (d : BitVec 6) (a : BitVec 5) (m : BitVec 3) (c : BitVec 3)
  /-- R171. Indexed gather performed by the HBM4E base-die gather units at package scope. -/
  | hgath (d : BitVec 6) (a : BitVec 5) (b : BitVec 6) (m : BitVec 3) (c : BitVec 3)
  /-- R162. Unit-stride vector store. -/
  | vst (d : BitVec 6) (a : BitVec 5) (m : BitVec 3) (c : BitVec 3)
  /-- R162. Strided vector store. -/
  | vsts (d : BitVec 6) (a : BitVec 5) (b : BitVec 5) (m : BitVec 3) (c : BitVec 3)
  /-- R162. Indexed vector store. -/
  | vstx (d : BitVec 6) (a : BitVec 5) (b : BitVec 6) (m : BitVec 3) (c : BitVec 3)
  /-- R173. Merges equal indices and adds elements into memory atomically at pkg. -/
  | vscadd (d : BitVec 6) (a : BitVec 5) (b : BitVec 6) (m : BitVec 3) (c : BitVec 3)
  /-- R232. FP32 element-wise addition. -/
  | wadd (d : BitVec 5) (a : BitVec 5) (b : BitVec 5)
  /-- R232. FP32 element-wise subtraction. -/
  | wsub (d : BitVec 5) (a : BitVec 5) (b : BitVec 5)
  /-- R232. FP32 element-wise multiplication. -/
  | wmul (d : BitVec 5) (a : BitVec 5) (b : BitVec 5)
  /-- R232. FP32 fused multiply-add. -/
  | wfma (d : BitVec 5) (a : BitVec 5) (b : BitVec 5) (c : BitVec 5)
  /-- R232. FP32 fused multiply-subtract. -/
  | wfms (d : BitVec 5) (a : BitVec 5) (b : BitVec 5) (c : BitVec 5)
  /-- R232. FP32 fused negated multiply-add. -/
  | wfnma (d : BitVec 5) (a : BitVec 5) (b : BitVec 5) (c : BitVec 5)
  /-- R232. FP32 element-wise division. -/
  | wdiv (d : BitVec 5) (a : BitVec 5) (b : BitVec 5)
  /-- R232. FP32 element-wise square root. -/
  | wsqrt (d : BitVec 5) (a : BitVec 5)
  /-- R234. FP32 minimumNumber. -/
  | wmin (d : BitVec 5) (a : BitVec 5) (b : BitVec 5)
  /-- R234. FP32 maximumNumber. -/
  | wmax (d : BitVec 5) (a : BitVec 5) (b : BitVec 5)
  /-- R232. Clears the sign bit of each element. -/
  | wabs (d : BitVec 5) (a : BitVec 5)
  /-- R232. Inverts the sign bit of each element. -/
  | wneg (d : BitVec 5) (a : BitVec 5)
  /-- R234. FP32 equality compare giving 1 or 0. -/
  | weq (d : BitVec 5) (a : BitVec 5) (b : BitVec 5)
  /-- R234. FP32 less-than compare. -/
  | wlt (d : BitVec 5) (a : BitVec 5) (b : BitVec 5)
  /-- R234. FP32 less-or-equal compare. -/
  | wle (d : BitVec 5) (a : BitVec 5) (b : BitVec 5)
  /-- R234. Selects wA or wB by the pattern of wC. -/
  | wsel (d : BitVec 5) (a : BitVec 5) (b : BitVec 5) (c : BitVec 5)
  /-- R232. Copies a word register. -/
  | wmv (d : BitVec 5) (a : BitVec 5)
  /-- R236. Correctly rounded e to the power a. -/
  | wexp (d : BitVec 5) (a : BitVec 5)
  /-- R236. Correctly rounded 2 to the power a. -/
  | wexp2 (d : BitVec 5) (a : BitVec 5)
  /-- R236. Correctly rounded natural logarithm. -/
  | wlog (d : BitVec 5) (a : BitVec 5)
  /-- R236. Correctly rounded base-2 logarithm. -/
  | wlog2 (d : BitVec 5) (a : BitVec 5)
  /-- R236. Correctly rounded reciprocal. -/
  | wrcp (d : BitVec 5) (a : BitVec 5)
  /-- R236. Correctly rounded reciprocal square root. -/
  | wrsq (d : BitVec 5) (a : BitVec 5)
  /-- R236. Correctly rounded hyperbolic tangent. -/
  | wtanh (d : BitVec 5) (a : BitVec 5)
  /-- R236. Correctly rounded logistic sigmoid. -/
  | wsig (d : BitVec 5) (a : BitVec 5)
  /-- R236. Correctly rounded sine. -/
  | wsin (d : BitVec 5) (a : BitVec 5)
  /-- R236. Correctly rounded cosine. -/
  | wcos (d : BitVec 5) (a : BitVec 5)
  /-- R240. Sums each row in the order selected by vcfg.la. -/
  | wredsum (d : BitVec 5) (a : BitVec 5) (s : BitVec 5) (c : BitVec 5)
  /-- R240. Maximum of each row. -/
  | wredmax (d : BitVec 5) (a : BitVec 5) (s : BitVec 5) (c : BitVec 5)
  /-- R240. Minimum of each row. -/
  | wredmin (d : BitVec 5) (a : BitVec 5) (s : BitVec 5) (c : BitVec 5)
  /-- R242. INT32 running sums along each row. -/
  | iscan (d : BitVec 5) (a : BitVec 5) (s : BitVec 5) (c : BitVec 5)
  /-- R242. FP32 running sums along each row in ascending order. -/
  | fscan (d : BitVec 5) (a : BitVec 5) (s : BitVec 5) (c : BitVec 5)
  /-- R243. Selects the K best values and positions of each row. -/
  | wtopk (d : BitVec 5) (a : BitVec 5) (s : BitVec 5) (c : BitVec 5)
  /-- R244. Computes the softmax of each row and a row status. -/
  | wsmx (d : BitVec 5) (a : BitVec 5) (s : BitVec 5) (c : BitVec 5)
  /-- R245. Applies a per-group FP32 or E8M0 scale to each element. -/
  | wscl (d : BitVec 5) (a : BitVec 5) (s : BitVec 5) (c : BitVec 5)
  /-- R378. Merges two sorted sparse rows, adding equal indices. -/
  | smerge (d : BitVec 5) (a : BitVec 5) (s : BitVec 5) (c : BitVec 5)
  /-- R138. Converts word elements between floating-point formats. -/
  | wcvt (d : BitVec 5) (a : BitVec 5) (b : BitVec 5) (c : BitVec 5)
  /-- R138. Converts floating-point word elements to integers. -/
  | wcvti (d : BitVec 5) (a : BitVec 5) (b : BitVec 5) (c : BitVec 5)
  /-- R138. Converts integer word elements to floating point. -/
  | wcvtf (d : BitVec 5) (a : BitVec 5) (b : BitVec 5) (c : BitVec 5)
  /-- R139. Packs FP32 values into MX blocks with shared scales. -/
  | wpkmx (d : BitVec 5) (a : BitVec 5) (b : BitVec 5) (c : BitVec 5)
  /-- R140. Expands MX blocks into FP32. -/
  | wupmx (d : BitVec 5) (a : BitVec 5) (b : BitVec 5) (c : BitVec 5)
  /-- R248. Moves vector elements from plane layout into a word register. -/
  | wmvv (w : BitVec 5) (v : BitVec 6) (a : BitVec 5)
  /-- R248. Moves word elements into a vector register in plane layout. -/
  | vmvw (w : BitVec 5) (v : BitVec 6) (a : BitVec 5)
  /-- R249. Copies four rows of an accumulator tile into a word register. -/
  | wmva (w : BitVec 5) (t : BitVec 2) (a : BitVec 5)
  /-- R249. Copies a word register into four rows of an accumulator tile. -/
  | amvw (w : BitVec 5) (t : BitVec 2) (a : BitVec 5)
  /-- R275. Forms dot products of one latch row with a vector into a word register. -/
  | vdot (l : BitVec 1) (b : BitVec 6) (a : BitVec 5) (d : BitVec 5)
  /-- R257. Fills an operand-latch bank with indexed rows from the scratchpad. -/
  | mgath (l : BitVec 1) (b : BitVec 5) (a : BitVec 5) (d : BitVec 5)
  /-- R258. Fills a latch bank with rows converted from FP8 or MX formats. -/
  | mgathc (l : BitVec 1) (b : BitVec 5) (a : BitVec 5) (d : BitVec 5)
  /-- R264. Counts plane pairs per row and promotes each k-block into an accumulator tile. -/
  | mmac (t : BitVec 2) (l : BitVec 1) (b : BitVec 6) (a : BitVec 5)
  /-- R269. Zeroes a tile and sets it to INT32 format. -/
  | mzeroI32 (t : BitVec 2)
  /-- R269. Zeroes a tile and sets it to FP32 format. -/
  | mzeroF32 (t : BitVec 2)
  /-- R270. Converts an INT32 tile to FP32. -/
  | mpro (t : BitVec 2)
  /-- R271. Copies row scales into a latch bank. -/
  | msclRs (l : BitVec 1) (d : BitVec 5)
  /-- R271. Copies row exponents into a latch bank. -/
  | msclRe (l : BitVec 1) (d : BitVec 5)
  /-- R271. Copies column scales into a tile. -/
  | msclCs (t : BitVec 2) (d : BitVec 5)
  /-- R271. Copies column exponents into a tile. -/
  | msclCe (t : BitVec 2) (d : BitVec 5)
  /-- R271. Binds an outlier list to a tile. -/
  | msclOl (t : BitVec 2) (d : BitVec 5)
  /-- R272. Loads a tile from memory as INT32. -/
  | mldI32 (t : BitVec 2) (b : BitVec 5) (a : BitVec 5)
  /-- R272. Loads a tile from memory as FP32. -/
  | mldF32 (t : BitVec 2) (b : BitVec 5) (a : BitVec 5)
  /-- R272. Stores a tile's bit patterns to memory. -/
  | mst (t : BitVec 2) (b : BitVec 5) (a : BitVec 5)
  /-- R273. Returns the state of a latch bank. -/
  | mstatBank (l : BitVec 1) (d : BitVec 5)
  /-- R273. Returns the status of an accumulator tile. -/
  | mstatTile (t : BitVec 2) (d : BitVec 5)
  /-- R47. Kind-0 hint with no effect beyond advancing the program counter. -/
  | hint (v : BitVec 22)
  /-- R47. Hint that may bring a line into the L1. -/
  | pfch (a : BitVec 5) (o : BitVec 17)
  /-- R47. Hint that may bring a line into the die's L2. -/
  | pfl2 (a : BitVec 5) (o : BitVec 17)
  /-- R47. Hint of kinds 3 to 15 with no effect on the K2. -/
  | hintKind (k : BitVec 4) (v : BitVec 22)
  /-- R53. Advances the program counter by 4. -/
  | nop
  /-- R82. Reads a CSR into sD without writing it. -/
  | crd (d : BitVec 5) (c : BitVec 12)
  /-- R82. Writes sA to a CSR and returns its old value. -/
  | cwr (d : BitVec 5) (a : BitVec 5) (c : BitVec 12)
  /-- R82. Sets the CSR bits named in sA and returns the old value. -/
  | cset (d : BitVec 5) (a : BitVec 5) (c : BitVec 12)
  /-- R82. Clears the CSR bits named in sA and returns the old value. -/
  | cclr (d : BitVec 5) (a : BitVec 5) (c : BitVec 12)
  /-- R82. Writes a 5-bit immediate to a CSR and returns its old value. -/
  | cwri (d : BitVec 5) (i : BitVec 5) (c : BitVec 12)
  /-- R82. Sets the CSR bits named by a 5-bit immediate. -/
  | cseti (d : BitVec 5) (i : BitVec 5) (c : BitVec 12)
  /-- R82. Clears the CSR bits named by a 5-bit immediate. -/
  | cclri (d : BitVec 5) (i : BitVec 5) (c : BitVec 12)
  /-- R87. Branches when sA equals sB. -/
  | beq (a : BitVec 5) (b : BitVec 5) (o : BitVec 13)
  /-- R87. Branches when sA differs from sB. -/
  | bne (a : BitVec 5) (b : BitVec 5) (o : BitVec 13)
  /-- R87. Branches when sA is signed-less than sB. -/
  | blt (a : BitVec 5) (b : BitVec 5) (o : BitVec 13)
  /-- R87. Branches when sA is signed-greater or equal to sB. -/
  | bge (a : BitVec 5) (b : BitVec 5) (o : BitVec 13)
  /-- R87. Branches when sA is unsigned-less than sB. -/
  | bltu (a : BitVec 5) (b : BitVec 5) (o : BitVec 13)
  /-- R87. Branches when sA is unsigned-greater or equal to sB. -/
  | bgeu (a : BitVec 5) (b : BitVec 5) (o : BitVec 13)
  /-- R88. Jumps PC-relative and writes the return address to sD. -/
  | jal (d : BitVec 5) (o : BitVec 21)
  /-- R89. Jumps to sA plus an immediate and writes the return address to sD. -/
  | jalr (d : BitVec 5) (a : BitVec 5) (i : BitVec 13)
  /-- R96. Pushes a counted hardware loop with an immediate count of 1 to 64. -/
  | loop (x : BitVec 6) (i : BitVec 17)
  /-- R96. Pushes a counted hardware loop whose count is in a scalar register. -/
  | loopr (x : BitVec 5) (i : BitVec 17)
  /-- R102. Starts a loop that runs until every element's trip count in vA is exhausted, tracked in m7. -/
  | loopv (v : BitVec 6) (i : BitVec 17)
  /-- R100. Pops the top loop entry and continues after its last body instruction. -/
  | lbrk
  /-- R101. Reads the iteration index of a loop level into sD. -/
  | lidx (d : BitVec 5) (i : BitVec 17)
  /-- R109. Captures the strip-thread body up to sjoin and starts 256 strip threads. -/
  | sfork
  /-- R112. Branches a strip thread forward when its mask test holds. -/
  | sbra (m : BitVec 3) (c : BitVec 2) (o : BitVec 18)
  /-- R112. Branches a strip thread backward when its mask test holds. -/
  | sloop (m : BitVec 3) (c : BitVec 2) (o : BitVec 18)
  /-- R113. Stops a strip thread at the join point. -/
  | sjoin
  /-- R113. When every thread has reached sjoin, strip-thread mode ends and single-stream execution resumes. -/
  | stripThreadModeEnd
  /-- R293. Starts publication at a scope of every earlier ordinary store. -/
  | pub (s : BitVec 2)
  /-- R293. Waits for earlier synchronising reads, then acquires at a scope. -/
  | acq (s : BitVec 2)
  /-- R293. Publishes and then acquires at a scope. -/
  | phase (s : BitVec 2)
  /-- R293. Waits for all earlier accesses and engine commands, then acquires. -/
  | fence (s : BitVec 2)
  /-- R296. Publishes and queues a barrier arrival without blocking. -/
  | vfence (a : BitVec 5) (s : BitVec 2)
  /-- R297. Publishes, waits until a barrier round is reached, then acquires. -/
  | bar (a : BitVec 5) (b : BitVec 5) (s : BitVec 2)
  /-- R300. Waits until a timeline counter reaches a target, then acquires at pkg. -/
  | tlwait (n : BitVec 4) (b : BitVec 5)
  /-- R300. Tests a timeline counter against a target and acquires only on success. -/
  | tlpoll (d : BitVec 5) (n : BitVec 4) (b : BitVec 5)
  /-- R300. Reads a timeline counter at commit without acquiring. -/
  | tlrd (d : BitVec 5) (n : BitVec 4)
  /-- R293. A begun publication completes once earlier stores are visible at its scope. -/
  | publication
  /-- R296. A queued barrier arrival increments the barrier word once the pending bytes have drained. -/
  | arrival
  /-- R297. A waiting bar finds the round reached and acquires. -/
  | barPass
  /-- R300. A waiting tlwait finds the counter at its target and acquires. -/
  | tlwaitPass
  /-- R354. Creates a child record, increments its join block and enqueues it. -/
  | spawn (a : BitVec 5) (b : BitVec 5)
  /-- R355. Continues if no children remain, otherwise saves the context and parks in the join block. -/
  | join (a : BitVec 5) (b : BitVec 5)
  /-- R356. Retires the activation, publishes and decrements the parent's join block. -/
  | done
  /-- R347. Reads a launch header, numbers it and places it in its target queues. -/
  | launch (d : BitVec 5) (a : BitVec 5)
  /-- R342. Extracts one field of the work identifier. -/
  | widf (d : BitVec 5) (k : BitVec 5) (b : BitVec 5)
  /-- R357. An iteration boundary that may give way to more urgent work by saving and requeuing. -/
  | yield (a : BitVec 5)
  /-- R330. Issues a copy command, plain, transposing or to or from plane layout. -/
  | xcopy (d : BitVec 5) (a : BitVec 5) (b : BitVec 5) (t : BitVec 4)
  /-- R335. Issues a conversion command with optional scaling or MX packing. -/
  | xconv (d : BitVec 5) (a : BitVec 5) (b : BitVec 5) (t : BitVec 4)
  /-- R334. Issues a command that compresses dense data into a line-elided buffer. -/
  | xzip (d : BitVec 5) (a : BitVec 5) (b : BitVec 5) (t : BitVec 4)
  /-- R334. Issues a command that expands a compressed buffer. -/
  | xexp (d : BitVec 5) (a : BitVec 5) (b : BitVec 5) (t : BitVec 4)
  /-- R336. Issues a command converting between dense and compressed-row form. -/
  | xfmt (d : BitVec 5) (a : BitVec 5) (b : BitVec 5) (t : BitVec 4)
  /-- R337. Issues a deduplicated tile-stream expansion command. -/
  | xtile (d : BitVec 5) (a : BitVec 5) (b : BitVec 5) (t : BitVec 4)
  /-- R338. Issues a remote write of local bytes to a peer. -/
  | xput (d : BitVec 5) (a : BitVec 5) (b : BitVec 5) (t : BitVec 4)
  /-- R338. Issues a remote read of a peer's bytes into local memory. -/
  | xget (d : BitVec 5) (a : BitVec 5) (b : BitVec 5) (t : BitVec 4)
  /-- R320. An engine context translates, reads and writes one unit of a command. -/
  | engineUnit (t : BitVec 4)
  /-- R324. An engine command ends with a status and counts as complete. -/
  | commandComplete (t : BitVec 4)
  /-- R321. The activation takes the engine fault of a faulted context at its next program-level boundary. -/
  | engineFault
  /-- R327. A pending engine or work-list signal is delivered to the user handler with the shadow bank. -/
  | userLevelInterrupt
  /-- R388. Fills a tensor slot from a 64-byte descriptor. -/
  | tdecl (a : BitVec 5) (n : BitVec 2)
  /-- R390. Pushes a sweep loop entry and seeks the first chunk with work. -/
  | sweep (e : BitVec 6) (c : BitVec 5) (n : BitVec 2)
  /-- R394. Writes back the held chunk and seeks the next one. -/
  | snext (n : BitVec 2)
  /-- R396. Sets a new wait kind and operand in the held chunk's context headers. -/
  | swait (s : BitVec 5) (m : BitVec 3) (n : BitVec 2)
  /-- R397. Sets the awake bit and summary bit of one element. -/
  | wake (s : BitVec 5) (n : BitVec 2)
  /-- R397. Sets the awake and summary bits of every masked element index in a vector. -/
  | vwake (v : BitVec 6) (m : BitVec 3) (n : BitVec 2)
  /-- R389. Sets the sweep range of a slot. -/
  | sctlRange (s : BitVec 5) (n : BitVec 2)
  /-- R389. Returns sweep count, bad count and status of a slot. -/
  | sctlStat (s : BitVec 5) (n : BitVec 2)
  /-- R395. Writes back the held chunk and ends the sweep early. -/
  | sctlAbort (s : BitVec 5) (n : BitVec 2)
  /-- R389. Empties a tensor slot. -/
  | sctlRel (s : BitVec 5) (n : BitVec 2)
  /-- R418. Gives a fresh sequence the longest shared prefix of blocks from the prefix tree. -/
  | pfxmatch (d : BitVec 5) (a : BitVec 5) (b : BitVec 5)
  /-- R419. Enters a sequence's full committed blocks into the prefix tree. -/
  | pfxins (d : BitVec 5) (a : BitVec 5) (b : BitVec 5)
  /-- R420. Releases a sequence's blocks or removes a childless tree node. -/
  | pfxrel (d : BitVec 5) (a : BitVec 5) (b : BitVec 5)
  /-- R421. Adds one entry to the block table by allocating or sharing a block id. -/
  | kvalloc (d : BitVec 5) (a : BitVec 5) (b : BitVec 5)
  /-- R424. Takes two numbers for a copy-on-write step and the write of one token's key and value. -/
  | kvappend (d : BitVec 5) (a : BitVec 5) (b : BitVec 5)
  /-- R425. Advances the committed length and clears tentative marks. -/
  | kvcommit (d : BitVec 5) (a : BitVec 5) (b : BitVec 5)
  /-- R422. Releases the tentative entries of the block table. -/
  | kvreject (d : BitVec 5) (a : BitVec 5)
  /-- R427. Computes the address of a key or value of a position after a pkg acquisition. -/
  | kvxlat (d : BitVec 5) (a : BitVec 5) (b : BitVec 5)
  /-- R429. Adds word-register weights into the score table with synchronising read-modify-writes. -/
  | kvscore (d : BitVec 5) (a : BitVec 5) (b : BitVec 5)
  /-- R431. Copies the kept positions into new blocks and rewrites the table and scores. -/
  | kvcompact (d : BitVec 5) (a : BitVec 5) (b : BitVec 5)
  /-- R415. The Barchan engine performs the next accepted operation in number order. -/
  | barchanOperation
  /-- R414. A waiting Barchan instruction receives its result when tc10 shows its number and acquires. -/
  | barchanResult
  /-- R434. While HBM4E frames are short, Barchan runs a numbered clock step on the unit at the hand. -/
  | clockStep
  /-- R374. Pushes one 32-bit entry on a work-list. -/
  | wlpush (d : BitVec 5) (a : BitVec 5) (b : BitVec 5)
  /-- R375. Pops up to a batch of the oldest entries into a vector and sets vl. -/
  | wlpop (v : BitVec 6) (a : BitVec 5) (b : BitVec 5)
  /-- R374. Pushes an index at most once using the deduplication bitmap. -/
  | wlins (d : BitVec 5) (a : BitVec 5) (b : BitVec 5)
  /-- R361. Pushes every masked index plus a base on a work-list, all or none. -/
  | vcapp (a : BitVec 5) (b : BitVec 5) (m : BitVec 3)
  /-- R368. Hardware moves work-list entries between the L2 window and slot memory. -/
  | windowTransfer (list : BitVec 64)
  /-- R447. Raises the trap-instruction cause with sub k. -/
  | trap (k : BitVec 5)
  /-- R448. Returns from a kernel or firmware trap and resumes suspended state. -/
  | tret
  /-- R449. Waits for a timer, request, signal, wake write or timeout. -/
  | wfi
  /-- R450. Makes later fetches see earlier stores and acquired stores, and discards predictions. -/
  | ifence
  /-- R451. Requests removal of translations and takes a number on tc15. -/
  | tlbinv (d : BitVec 5) (a : BitVec 5) (b : BitVec 5)
  /-- R455. Writes the running activation's context image. -/
  | ctxsave (a : BitVec 5)
  /-- R456. Checks and loads a context image as the core's activation. -/
  | ctxload (a : BitVec 5)
  /-- R447. Raises the breakpoint cause with sub 0. -/
  | brk
  /-- R447. Stops the core until a restart write or reset. -/
  | halt
  /-- R328. Returns from the user-level interrupt handler to the main bank. -/
  | uret
  /-- R45. An illegal word reaching commit raises the illegal-instruction trap precisely. -/
  | illegalEncoding (w : BitVec 32)
  /-- R448. With step set, a breakpoint with sub 1 is taken after the first instruction at program level commits. -/
  | stepBreakpoint
  /-- R445. The timer, pending while cycle is at or beyond tcmp, is taken as cause 14. -/
  | timerInterrupt
  /-- R106. A pending pre-emption request is taken at the first iteration boundary that commits. -/
  | preemptionTrap
  /-- R107. After 2^20 cycles without a boundary the pre-emption is forced after the next commit. -/
  | forcedPreemption
  /-- R362. The scheduler requests pre-emption of the lowest-priority core when more urgent work waits. -/
  | schedulerPreemptionRequest
  /-- R449. A waiting wfi completes when a pending cause, signal or wake write appears. -/
  | wfiWake
  /-- R449. A wfi completes after 2^20 cycles. -/
  | wfiTimeout
  /-- R188. Changes the register count, tail policy or length-agnostic mode, serialising if it changes. -/
  | vcfg (d : BitVec 5) (a : BitVec 5)
  /-- R190. Refreshes the grant in force and sets vl from the requested length. -/
  | setvl (d : BitVec 5) (a : BitVec 5)
  /-- R192. Sets the element widths ewa, ewb and ewd and returns the old ones. -/
  | setw (d : BitVec 5) (a : BitVec 5)
  /-- R428. Sets vl to the committed run of a KV block after a pkg acquisition. -/
  | setvlrun (d : BitVec 5) (a : BitVec 5) (b : BitVec 5)
  /-- R56. Captures a short body and replays it count times with staggered register fields. -/
  | rpt (l : BitVec 4) (n : BitVec 8) (g : BitVec 3) (s : BitVec 2) (r : BitVec 5)
  /-- R351. An idle sequencer takes the next record or item by priority and round robin. -/
  | takeRecord
  /-- R346. When every item is done the launch advances its work timeline and stores its completion word. -/
  | launchCompletion
  /-- R304. After draining and aborting accesses through the old mapping, tc15 shows the tlbinv number. -/
  | tlbinvCompletion
  /-- R475. A corrected ECC error increments its event-log counter. -/
  | correctedError (place : BitVec 6)
  /-- R475. An uncorrectable error poisons its 64-byte line and is logged. -/
  | uncorrectableError (sub : BitVec 8) (addr : BitVec 47)
  /-- R475. Reading poisoned data or a parity error raises the integrity error. -/
  | integrityError (sub : BitVec 8)
  /-- R461. A host WRITE is performed as an ordinary write published at pkg before acknowledgement. -/
  | write (p : BitVec 1) (gram : List (BitVec 8))
  /-- R461. A host WRITE-SYNC publishes earlier writes then performs a synchronising write. -/
  | writeSync (p : BitVec 1) (gram : List (BitVec 8))
  /-- R461. A host READ returns a published value. -/
  | read (p : BitVec 1) (gram : List (BitVec 8))
  /-- R461. A host READ-SYNC performs a synchronising read and acquires for later operations. -/
  | readSync (p : BitVec 1) (gram : List (BitVec 8))
  /-- R464. A received Khamsin DATA packet is delivered in sequence order. -/
  | dataPacket (p : BitVec 1) (gram : List (BitVec 8))
  /-- R464. A received acknowledgement retires unacknowledged packets of a connection. -/
  | ack (p : BitVec 1) (gram : List (BitVec 8))
  /-- R464. A received NAK reports a refused operation. -/
  | nak (p : BitVec 1) (gram : List (BitVec 8))
  /-- R465. A received PUT packet writes remote-access data. -/
  | putPacket (p : BitVec 1) (gram : List (BitVec 8))
  /-- R465. A received GET packet requests remote-access data. -/
  | getPacket (p : BitVec 1) (gram : List (BitVec 8))
  /-- R464. An unacknowledged packet is retransmitted when its doubling timeout expires. -/
  | retransmission (conn : BitVec 32)
  /-- R466. A port losing its link moves fo connections to the other port and retransmits. -/
  | linkLoss (p : BitVec 1)
  /-- R468. A ring link failing retry reroutes traffic the other way and raises integrity sub 7. -/
  | ringLinkFailure (link : BitVec 4)
  /-- R481. A host store to the doorbell places a launch as launch does, with a status. -/
  | doorbell (p : BitVec 1) (addr : BitVec 64)
  /-- R463. An 8-byte load of a free semaphore acquires it in the same synchronising access. -/
  | semaphoreAcquire (req : BitVec 16) (n : BitVec 8)
  /-- R463. An 8-byte store with owner field zero releases a semaphore held by the requester. -/
  | semaphoreRelease (req : BitVec 16) (n : BitVec 8)
  /-- R463. A firmware or host store with bit 63 set frees a semaphore whoever holds it. -/
  | semaphoreForcedRelease (n : BitVec 8)
  /-- R452. A store to preq raises a pre-emption request on the core. -/
  | preq (core : BitVec 11)
  /-- R452. A store to the wake register ends wfi. -/
  | wakeRegister (core : BitVec 11)
  /-- R445. A store to tcmp sets the timer deadline and clears a pending timer. -/
  | tcmp (core : BitVec 11) (v : BitVec 64)
  /-- R447. A store to restart ends halt on the core. -/
  | restart (core : BitVec 11)
  /-- R452. A store to a control-block or platform register without its own behaviour updates its fields. -/
  | controlRegisterWrite (host : Bool) (addr v : BitVec 64)
  /-- R479. A cmd of 1 in a mailbox requests a signed attestation report. -/
  | mailboxReportRequest (box : BitVec 2)
  /-- R479. Aedpevis finishes the report and its hedged ML-DSA signature and sets done. -/
  | reportComplete (box : BitVec 2)
  /-- R477. A firmware write of 64 bytes to mailbox 2 extends the measurement with SHAKE256. -/
  | measurementExtend (data : List (BitVec 8))
  /-- R477. At power-on the Aedpevis ROM verifies the firmware and starts it or leaves cores halted. -/
  | powerOn (image key sig : List (BitVec 8))
  /-- R470. Every 10 microseconds the power manager decides each die's grant, equal within collective groups. -/
  | grantEpoch (power : BitVec 12) (temps : BitVec 8 × List (BitVec 8) × List (BitVec 8)) (own : List (BitVec 9))
  /-- R472. A junction at 115 degrees or a stack at 110 degrees removes module power and logs a trip. -/
  | thermalTrip
  /-- R473. Every 1 ms each HBM4E stack chooses its refresh band from its temperature. -/
  | refreshEvaluation (temps : List (BitVec 8))
  /-- R466. An Ethernet port regains its link and RS-FEC alignment, sets pstat link up, and connections waiting on it resume retransmission. -/
  | linkUp (p : BitVec 1)
  deriving DecidableEq, Repr

end Sys2Proof
end

