-- ==== Sys2Proof/Machine/State.lean ====
section
/-!
DEFINITION. The state of the machine (01_machine.md R31, R32; INVENTORY.md, State): the program-visible state of
core 0 of CD0, the state of the agents that serve it, the package's memory and the hub's registers. Plain data.

Addresses. A location is a number: a physical address below 2^46 (06_memory.md R145), or 2^46 + x for byte x of the
core's scratchpad (06_memory.md R146). `mem` is what the core reads. A byte stored but not yet published at `pkg` is listed
with its earlier value in `unpub` or `pubq`: the rest of the package still reads that value. One not yet published at any
scope is also listed in `own`, with the value the core's next activation reads. `left` lists the locations in `unpub` that
an earlier activation stored (11_sync.md R172, R287, R290).
-/

namespace Sys2Proof.Machine

/-- A bank of the names s24 to s29 belongs to a level (17_system.md R437). -/
inductive Level where
  | program | kernel | firmware
  deriving DecidableEq, Repr

/-- What the sequencer does (17_system.md R447, R452 cstate; 13_work.md R351). -/
inductive Mode where
  | running | idle | halted
  deriving DecidableEq, Repr

/-- The kind of a loop-stack entry (04_control.md R94). -/
inductive LoopKind where
  | counted | vector | sweep
  deriving DecidableEq, Repr

/-- A loop-stack entry (04_control.md R94). `arg` is word 2, `index` is word 3. `failed` says that the latest `sweep` or
`snext` of a sweep committed because a Take or a Load at the cursor failed, which its `snext` raises (15_sweep.md R402). -/
structure LoopEntry where
  kind : LoopKind
  start : Word
  last : Word
  arg : Word
  index : Word
  failed : Bool
  deriving DecidableEq, Repr

/-- The repeat frame (02_encoding.md R57) and its buffer (R55, R58). `live` is the active bit, `captured` says that
the buffer holds the body, `level` is the level at which the frame runs (R59), and `held` counts the traps into a handler
at that same level that have not returned: the frame drives no replay for a handler (R59). -/
structure Frame where
  live : Bool
  j : BitVec 16
  n : BitVec 16
  p : BitVec 4
  captured : Bool
  level : Level
  held : Nat
  head : IWord
  body : List IWord
  deriving DecidableEq, Repr

/-- Strip-thread state (04_control.md R115) and the lane instruction buffer (R109). Thread t's position is `pos` at t.
`held` is as for a frame. `scalars`, `vcfg` and the widths are the scalar registers, NR and the width registers as they stood
at `sfork`, which the threads read (R110). -/
structure Strip where
  live : Bool
  len : BitVec 8
  pos : SMap 8
  captured : Bool
  level : Level
  held : Nat
  scalars : SMap 64
  vcfg : BitVec 4
  ewa : BitVec 7
  ewb : BitVec 7
  ewd : BitVec 7
  body : List IWord
  deriving DecidableEq, Repr

/-- An accumulator tile and its metadata (10_matrix.md R262); the format bit stands in `acst`. Element (m, c) has key
256m + c, cexp[c][t] has key 4c + t. A column scale is stored XOR 0x3F800000, so that an unlisted one is 1.0. -/
structure Tile where
  elem : SMap 32
  cscale : SMap 32
  cexp : SMap 8
  entries : List (BitVec 32)
  overflow : BitVec 22
  deriving DecidableEq, Repr

/-- An operand-latch bank (10_matrix.md R256). Element of physical row r, column k has key 128r + k; rexp[m][t] has
key 4m + t. A row scale is stored XOR 0x3F800000, so that an unlisted one is 1.0. -/
structure Bank where
  valid : Bool
  rows : Nat
  klen : Nat
  p : Nat
  w : Nat
  sgn : Bool
  cls : BitVec 2
  data : SMap 16
  rscale : SMap 32
  rexp : SMap 16
  deriving DecidableEq, Repr

/-- A declared tensor slot (15_sweep.md R383). `shape` is the descriptor's word at offset 24 (R384). -/
structure Slot where
  valid : Bool
  base : Word
  ctx : Word
  skip : Word
  shape : Word
  lo : BitVec 32
  hi : BitVec 32
  sweeps : BitVec 32
  bad : BitVec 20
  deriving DecidableEq, Repr

/-- A continuation record (13_work.md R348); `tag` is the word at offset 24. -/
structure Record where
  code : Word
  frame : Word
  wid : Word
  tag : Word
  deriving DecidableEq, Repr

/-- The activation that belongs to the core: its record, its home queue 64 × die + q with that queue's address space,
its activation block, and the present bits of its image (13_work.md R348 to R352, 17_system.md R453, R454).
`item` names the launch whose item it is; `isMacro` says that it is a tile task (R359), `macroStep` which line of its
sequence comes next and `macroG` the columns of the group at hand (10_matrix.md R278). -/
structure Activation where
  record : Record
  home : Nat
  asid : BitVec 16
  root : Nat
  block : Option Nat
  item : Option Nat
  isMacro : Bool
  macroStep : Nat
  macroG : Nat
  tilesPresent : BitVec 4
  masksPresent : BitVec 7
  deriving DecidableEq, Repr

/-- An entry of a hardware queue: a record, or a launch by its acceptance number (13_work.md R350). `unit` names the
launch whose core-scope unit on this core the record belongs to (R351). -/
inductive QEntry where
  | record (r : Record) (unit : Option Nat)
  | launch (id : Nat)
  deriving DecidableEq, Repr

/-- An accepted launch (13_work.md R343 to R347): its header words, the queues it entered, the next unit to hand out,
the number of items whose done is performed, its work timeline (block address, timeline, number), the die to which its
die-scope group number g was assigned, the level and the address space of its completion word, and what of its completion
is done. -/
structure Launch where
  id : Nat
  words : List Word
  queues : List Nat
  next : Nat
  finished : Nat
  timeline : Option (Nat × Nat × Nat)
  level : Level
  asid : BitVec 16
  root : Nat
  groups : List (Nat × Nat)
  shown : Bool
  written : Bool
  deriving DecidableEq, Repr

/-- What the scheduler knows of a saved context (13_work.md R346, R351, R359): the address space and the address of its
image, the launch whose item it is, the launch whose core-scope unit on this core it belongs to, that it is a tile task, with
the columns of its group (10_matrix.md R278), and that it is parked in a join block (R355). -/
structure Saved where
  asid : BitVec 16
  image : Word
  item : Option Nat
  unit : Option Nat
  isMacro : Bool
  macroG : Nat
  parked : Bool
  deriving DecidableEq, Repr

/-- A tile task that waits for the count of its join block to reach zero (13_work.md R359): where the block stands, its
queue, where an entry is kept for it, and its record. -/
structure HeldTask where
  block : Nat
  queue : Nat
  record : Record
  deriving DecidableEq, Repr

/-- The core-scope unit the core runs: the launch, the next item, the first item after the unit, and the items whose
`done` is still to come (13_work.md R344). -/
structure CoreUnit where
  launch : Nat
  next : Nat
  stop : Nat
  left : Nat
  deriving DecidableEq, Repr

/-- An accepted engine command (12_engines.md R316 to R318, R320, R324): its activation block, context, number and
FN7; the address and the eight words of its descriptor; the record address; the level and the address space it reads
and writes through; the phase and unit that come next; the flags its conversions raised; the count of its record; what
the units of a phase pass on; the status with which it has ended; that the counter shows it, with its record still to be
written; the bytes later stores of the activation hid from it, with their earlier values; and how many of the queued
`vfence` arrivals are older than it (11_sync.md R296, R301). -/
structure Command where
  block : Nat
  ctx : Nat
  num : Nat
  fn : Nat
  desc : Word
  words : List Word
  record : Option Word
  level : Level
  root : Nat
  phase : Nat
  unit : Nat
  fflags : BitVec 5
  qflags : BitVec 4
  count : Nat
  aux : List Nat
  ended : Option Nat
  shown : Bool
  view : List Host.Cell
  behind : Nat
  deriving DecidableEq, Repr

/-- A fault of an engine context not yet taken (12_engines.md R321): context, address, and eremain's kind and write. -/
structure EngineFault where
  ctx : Nat
  addr : Word
  kind : Nat
  write : Bool
  poison : Bool
  deriving DecidableEq, Repr

/-- The operations Barchan accepts (16_kv.md R413). -/
inductive KvOp where
  | pfxmatch | pfxins | pfxrel | kvalloc | cow | append | kvcommit | kvreject | kvcompact
  deriving DecidableEq, Repr

/-- An accepted Barchan operation (16_kv.md R414, R415): its number, its operands, the level and the address space it
uses, what step n of a `kvappend` hands to step n + 1 (R424), the bytes later stores of its activation hid from it,
with their earlier values, and how many of the queued `vfence` arrivals are older than it (11_sync.md R296, R301). -/
structure BarOp where
  num : Nat
  op : KvOp
  a : Word
  b : Word
  level : Level
  root : Option Nat
  args : List Nat
  view : List Host.Cell
  behind : Nat
  deriving DecidableEq, Repr

/-- A barrier arrival that `vfence` queued: its location and scope (11_sync.md R296). -/
structure Arrival where
  loc : Nat
  scope : Nat
  deriving DecidableEq, Repr

/-- A translation the core has cached (06_memory.md R152): the address space, the page (the virtual address without its
offset) and the width of the offset, where the leaf stands, and the leaf as it was read. -/
structure Cached where
  asid : BitVec 16
  page : Nat
  bits : Nat
  place : Nat
  entry : Nat
  deriving DecidableEq, Repr

/-- What the running instruction waits for (11_sync.md R294, R310, 12_engines.md R313, R317, 16_kv.md R414, 17_system.md R449);
`save` and, at a `join`, `park` wait for the engine contexts to reach a unit boundary (13_work.md R363). -/
inductive Wait where
  | bar | timeline | queue | retire | drain | save | park | grant | result (num : Nat) (d : Nat) | wfi (since : Word)
  deriving DecidableEq, Repr

/-- What the latest commit was: an iteration boundary or not (04_control.md R105), or a `tret`, after which an engine fault
and a step breakpoint wait for one more commit (17_system.md R445, R448). Consumed by the next step. -/
inductive Commit where
  | plain | boundary | ret
  deriving DecidableEq, Repr

/-- One Khamsin packet (18_platform.md R464). -/
structure Packet where
  kind : Nat
  conn : BitVec 32
  seq : BitVec 64
  ack : BitVec 64
  addr : BitVec 64
  data : List Byte
  deriving DecidableEq, Repr

/-- A Khamsin connection (18_platform.md R464 to R466): the port that carries it and the port on which it was opened,
the latest number sent, the highest number received in order, the unacknowledged packets with their retransmission
counts, the GETs sent and not yet answered (number, address and length, oldest first), the replies received and the
operations refused by the numbers they answer, whether it has failed, whether it waits for its link, and how many
connections of its id there were before it. -/
structure Conn where
  id : BitVec 32
  port : BitVec 1
  opened : BitVec 1
  sent : BitVec 64
  got : BitVec 64
  pending : List (Packet × Nat)
  gets : List (Nat × Word × Nat)
  replies : List (Nat × List Byte)
  refused : List Nat
  failed : Bool
  waiting : Bool
  epoch : Nat
  deriving DecidableEq, Repr

/-- The same connection: one that a party opens after a failed one of its id is another. -/
def Conn.same (c d : Conn) : Bool := c.id == d.id && c.epoch == d.epoch

/-- The names of what stops the whole machine. -/
inductive Fault where
  /-- Raised by every step after a thermal trip: the module has removed its own power (18_platform.md R472). Safe: the
  machine does nothing any more. -/
  | poweredOff
  deriving DecidableEq, Repr

/-- The names of what the model refuses. -/
inductive Refusal where
  /-- Raised by an arm of `exec` that has no meaning. Safe: nothing follows from a refusal. -/
  | notModelled (mnemonic : String)
  deriving DecidableEq, Repr

/-- The vector, word, matrix and sweep state of the core and its control registers (01_machine.md R31, R32). -/
structure Lanes where
  vreg : SMap 16
  mask : SMap 1
  wreg : SMap 32
  tile0 : Tile
  tile1 : Tile
  tile2 : Tile
  tile3 : Tile
  bank0 : Bank
  bank1 : Bank
  slot0 : Slot
  slot1 : Slot
  slot2 : Slot
  slot3 : Slot
  runSet : BitVec 1024
  heldAfter : BitVec 1024
  heldCounter : BitVec 1024
  frm : BitVec 3
  fflags : BitVec 5
  qflags : BitVec 4
  vstart : BitVec 18
  vdirty : BitVec 64
  wdirty : BitVec 32
  mcfg : BitVec 8
  acst : BitVec 64
  smiss : BitVec 45
  vl : BitVec 19
  vcfg : BitVec 4
  ewa : BitVec 7
  ewb : BitVec 7
  ewd : BitVec 7
  grantG : BitVec 9
  grantE : BitVec 9
  deriving DecidableEq, Repr

/-- The work, trap, interrupt and control-block registers of the core and what is pending (17_system.md R438 to R445, R452). -/
structure Ctl where
  spl : BitVec 4
  uvec : BitVec 64
  uepc : BitVec 64
  ustat : BitVec 17
  cycle : Word
  wid : Word
  wfields : Word
  ecause : Word
  epc : Word
  eaddr : Word
  estatus : BitVec 5
  forced : Bool
  evec : Word
  kstat : Word
  estride : Word
  eremain : Word
  fvec : Word
  fepc : Word
  fcause : Word
  faddr : Word
  fstat : BitVec 3
  tcmp : Word
  acbase : Word
  acfg : BitVec 32
  ringNext : Nat
  preReq : Option Word
  engPend : List EngineFault
  errPend : List (Nat × Word)
  stepArmed : Bool
  wake : Bool
  deriving DecidableEq, Repr

/-- Memory, what of it is not yet published and at which scope, poisoned lines and the pending-byte counters with the part of each whose
publication has begun (06_memory.md R145, R172, 11_sync.md R287, R293, R294, 18_platform.md R475). -/
structure Memory where
  mem : SMap 8
  unpub : List Host.Cell
  pubq : List Host.Cell
  own : List Host.Cell
  left : List Nat
  poison : List (Nat × Nat)
  pendCore : BitVec 48
  pendDie : BitVec 48
  pendPkg : BitVec 48
  pubCore : BitVec 48
  pubDie : BitVec 48
  pubPkg : BitVec 48
  arrivals : List Arrival
  deriving DecidableEq, Repr

/-- Memory is in its canonical form: addresses strictly rising, no byte zero, which is what an unlisted address reads as
(log 3). -/
def Memory.wf (m : Memory) : Bool := mapOk m.mem 0

/-- An activation as a party of the memory order, by its address space and its block (11_sync.md R283). -/
structure Party where
  asid : BitVec 16
  block : Nat
  deriving DecidableEq, Repr

/-- What a party that has left the core stored and did not publish: its bytes that no scope has, each with the value that is
read without it and its own; its bytes published at `core` or `die` alone; and what the pending-byte counters counted of it
(11_sync.md R286, R287, R294). -/
structure Away where
  party : Party
  cells : List (Nat × Byte × Byte)
  wide : List Host.Cell
  pendCore : BitVec 48
  pendDie : BitVec 48
  pendPkg : BitVec 48
  deriving DecidableEq, Repr

/-- The activation, its engine commands, and the scheduler (12_engines.md R312, 13_work.md R343 to R352). `party` is the
activation whose stores the core makes now, which a handler goes on as after a `ctxload`, and `away` lists what the parties
that have left the core did not publish (11_sync.md R283, R286, R287). -/
structure Sched where
  act : Option Activation
  commands : List Command
  qdesc : SMap 64
  queues : List (Nat × QEntry)
  heldTasks : List HeldTask
  launches : List Launch
  launchNext : Nat
  served : SMap 6
  coreUnit : Option CoreUnit
  saved : List Saved
  retired : List Nat
  schedReq : Option (Nat × Nat)
  party : Option Party
  away : List Away
  deriving DecidableEq, Repr

/-- The cache descriptor on which a clock runs, with the level and the address space of the operation that started it, and
the steps since it started or last demoted (16_kv.md R434). -/
structure Clock where
  cache : Word
  level : Level
  root : Option Nat
  idle : Nat
  deriving DecidableEq, Repr

/-- The Barchan engine and the system timeline (16_kv.md R414, R415, R434; 11_sync.md R298, R304). `clocks` are the
caches whose clock may run, the one that steps next first; `tlbPending` lists the operands of the `tlbinv`s not yet complete, oldest
first (17_system.md R451). -/
structure Kv where
  tc10 : Word
  tc15 : Word
  tlbIssued : Word
  tlbPending : List (Word × Word)
  barIssued : Nat
  barOps : List BarOp
  barResults : List (Nat × Word)
  clocks : List Clock
  deriving DecidableEq, Repr

/-- The registers and agents of the hub die (18_platform.md R459 to R481). `hotDie` is the die with the hottest junction at
the latest grant epoch (R472), and `bellReq` lists the doorbell stores the hub has not acted on, oldest first (R481). -/
structure Hub where
  semas : SMap 64
  plim : BitVec 12
  pnow : BitVec 12
  gcap : BitVec 9
  temp : BitVec 27
  epoch : Word
  grants : SMap 9
  groups : SMap 9
  hotDie : BitVec 3
  refresh : SMap 3
  logCount : SMap 64
  logEntry : SMap 64
  logHead : BitVec 8
  doorbell : SMap 3
  bellReq : List (Nat × Nat)
  ports : SMap 64
  peers : SMap 64
  conns : List Conn
  outbox : List (Nat × Packet)
  boxes : SMap 64
  measure : List Byte
  bootImage : List Byte
  boots : Nat
  ringDown : BitVec 9
  otherCores : SMap 64
  otherStarted : List Nat
  powered : Bool
  deriving DecidableEq, Repr

/-- The state of the machine. INVENTORY.md names the rule of every field. `commit` is what the latest commit was; `agenda`
lists the events still to come and `freeCount` counts the free values used: the model's own fields (log 4). `source` is
the address of the instruction executed last, which a misaligned fetch reports (02_encoding.md R38). -/
structure State where
  regs : SMap 64
  shadow : SMap 64
  kbank : SMap 64
  fbank : SMap 64
  pc : Word
  source : Word
  level : Level
  mode : Mode
  loops : List LoopEntry
  frame : Frame
  strip : Strip
  instret : Word
  wait : Option Wait
  commit : Option Commit
  freeCount : Nat
  agenda : List Instr
  lanes : Lanes
  tlb : List Cached
  ctl : Ctl
  memory : Memory
  sched : Sched
  kv : Kv
  hub : Hub
  deriving DecidableEq, Repr

/-- The inactive repeat frame (02_encoding.md R57). -/
def Frame.none : Frame := ⟨false, 0, 0, 0, false, .program, 0, 0, []⟩

/-- Inactive strip state (04_control.md R115). -/
def Strip.none : Strip := ⟨false, 0, [], false, .program, 0, [], 0, 0, 0, 0, []⟩

/-- A tile's reset state (10_matrix.md R262). -/
def Tile.empty : Tile := ⟨[], [], [], [], 0⟩

/-- An invalid bank (10_matrix.md R256). -/
def Bank.invalid : Bank := ⟨false, 0, 1, 1, 1, false, 0, [], [], []⟩

/-- An empty slot (15_sweep.md R383). -/
def Slot.empty : Slot := ⟨false, 0, 0, 0, 0, 0, 0, 0, 0⟩

/-- Lanes at reset. -/
def Lanes.reset : Lanes where
  vreg := []
  mask := []
  wreg := []
  tile0 := Tile.empty
  tile1 := Tile.empty
  tile2 := Tile.empty
  tile3 := Tile.empty
  bank0 := Bank.invalid
  bank1 := Bank.invalid
  slot0 := Slot.empty
  slot1 := Slot.empty
  slot2 := Slot.empty
  slot3 := Slot.empty
  runSet := 0
  heldAfter := 0
  heldCounter := 0
  frm := 0
  fflags := 0
  qflags := 0
  vstart := 0
  vdirty := 0
  wdirty := 0
  mcfg := 0
  acst := 0
  smiss := 0
  vl := 0
  vcfg := 0
  ewa := 0x48
  ewb := 0x48
  ewd := 0x48
  grantG := 256
  grantE := 256

/-- Ctl at reset. -/
def Ctl.reset : Ctl where
  spl := 4
  uvec := 0
  uepc := 0
  ustat := 0
  cycle := 0
  wid := 0
  wfields := 0
  ecause := 0
  epc := 0
  eaddr := 0
  estatus := 0
  forced := false
  evec := 0
  kstat := 0
  estride := 0
  eremain := 0
  fvec := 0
  fepc := 0
  fcause := 0
  faddr := 0
  fstat := 0
  tcmp := BitVec.allOnes 64
  acbase := 0
  acfg := 0
  ringNext := 0
  preReq := none
  engPend := []
  errPend := []
  stepArmed := false
  wake := false

/-- Memory at reset. -/
def Memory.reset : Memory where
  mem := []
  unpub := []
  pubq := []
  own := []
  left := []
  poison := []
  pendCore := 0
  pendDie := 0
  pendPkg := 0
  pubCore := 0
  pubDie := 0
  pubPkg := 0
  arrivals := []

/-- Sched at reset. -/
def Sched.reset : Sched where
  act := none
  commands := []
  qdesc := []
  queues := []
  heldTasks := []
  launches := []
  launchNext := 1
  served := []
  coreUnit := none
  saved := []
  retired := []
  schedReq := none
  party := none
  away := []

/-- Kv at reset. -/
def Kv.reset : Kv where
  tc10 := 0
  tc15 := 0
  tlbIssued := 0
  tlbPending := []
  barIssued := 0
  barOps := []
  barResults := []
  clocks := []

/-- Hub at reset. -/
def Hub.reset : Hub where
  semas := []
  plim := 1900
  pnow := 0
  gcap := 256
  temp := 0
  epoch := 0
  grants := []
  groups := []
  hotDie := 0
  refresh := []
  logCount := []
  logEntry := []
  logHead := 0
  doorbell := []
  bellReq := []
  ports := []
  peers := []
  conns := []
  outbox := []
  boxes := []
  measure := List.replicate 64 0
  bootImage := []
  boots := 0
  ringDown := 0
  otherCores := []
  otherStarted := []
  powered := true

/-- The machine right after reset: powered, every core halted, the Aedpevis ROM about to run (18_platform.md R477). -/
def State.reset : State where
  regs := []
  shadow := []
  kbank := []
  fbank := []
  pc := 0
  source := 0
  level := .firmware
  mode := .halted
  loops := []
  frame := Frame.none
  strip := Strip.none
  instret := 0
  wait := none
  commit := none
  freeCount := 0
  agenda := []
  lanes := Lanes.reset
  tlb := []
  ctl := Ctl.reset
  memory := Memory.reset
  sched := Sched.reset
  kv := Kv.reset
  hub := Hub.reset

end Sys2Proof.Machine
end

