-- ==== Sys2Proof/Machine/Ops.lean ====
section
/-!
DEFINITION. The operations every meaning shares: registers and their banks, bytes of memory, committing an
instruction, taking a trap and the event log.
-/

namespace Sys2Proof.Machine

/-- A trap about to be taken: its cause (17_system.md R438, R440) and what its rule says of the trap registers.
`epc` is none when the return address is the instruction's own. -/
structure Trap where
  code : Nat
  sub : Nat := 0
  ctx : Nat := 0
  epc : Option Word := none
  eaddr : Word := 0
  estride : Word := 0
  eremain : Word := 0
  forced : Bool := false
  deriving DecidableEq, Repr

/-- Why a meaning does not simply commit: a precise trap with no effect (R444), or a trap that keeps the stated partial
effects. -/
inductive Stop where
  | trap (t : Trap)
  | trapIn (s : State) (t : Trap)
  deriving DecidableEq, Repr

/-- What the computation of a meaning gives: a value, or a trap. -/
abbrev Run (α : Type) := Except Stop α

/-- What `exec` answers. -/
abbrev Out := Host.Outcome State Fault Refusal

/-! ### Scalar registers -/

/-- The names s24 to s29 select a bank (17_system.md R437). -/
def banked (n : Nat) : Bool := 24 ≤ n && n ≤ 29

/-- A handler of a user-level interrupt runs: `ustat.act` (12_engines.md R326). -/
def State.inHandler (s : State) : Bool := s.ctl.ustat.getLsbD 16

/-- The value of scalar register n at the current level; s0 reads zero (03_scalar.md R62, 17_system.md R437). -/
def State.reg (s : State) (n : Nat) : Word :=
  if n = 0 then 0
  else if banked n then
    match s.level with
    | .program => if s.inHandler then mapGet s.shadow n else mapGet s.regs n
    | .kernel => mapGet s.kbank n
    | .firmware => mapGet s.fbank n
  else mapGet s.regs n

/-- Write scalar register n at the current level; a write to s0 is discarded (R62, R437). -/
def State.setReg (s : State) (n : Nat) (v : Word) : State :=
  if n = 0 then s
  else if banked n then
    match s.level with
    | .program =>
      if s.inHandler then { s with shadow := mapSet s.shadow n v } else { s with regs := mapSet s.regs n v }
    | .kernel => { s with kbank := mapSet s.kbank n v }
    | .firmware => { s with fbank := mapSet s.fbank n v }
  else { s with regs := mapSet s.regs n v }

/-- The value of the scalar register a 5-bit field names (02_encoding.md R41). -/
def State.rd (s : State) (r : BitVec 5) : Word := s.reg r.toNat

/-- Write the scalar register a 5-bit field names (02_encoding.md R41). -/
def State.wr (s : State) (r : BitVec 5) (v : Word) : State := s.setReg r.toNat v

/-! ### Levels and configuration -/

/-- The number of a level (17_system.md R437). -/
def Level.code : Level → Nat
  | .program => 0
  | .kernel => 1
  | .firmware => 2

/-- The level with a number; 2 and 3 give firmware (17_system.md R437). -/
def Level.ofCode (n : Nat) : Level := if n = 0 then .program else if n = 1 then .kernel else .firmware

/-- Strip-thread mode drives the sequencer at the current level (04_control.md R113, R115). -/
def State.inStrip (s : State) : Bool := s.strip.live && s.strip.captured && s.level == s.strip.level

/-- `ewa` as the instruction at hand reads it: strip threads read it as it stood at `sfork` (04_control.md R110). -/
def State.ewa (s : State) : BitVec 7 := if s.inStrip then s.strip.ewa else s.lanes.ewa

/-- `ewb` as the instruction at hand reads it (04_control.md R110). -/
def State.ewb (s : State) : BitVec 7 := if s.inStrip then s.strip.ewb else s.lanes.ewb

/-- `ewd` as the instruction at hand reads it (04_control.md R110). -/
def State.ewd (s : State) : BitVec 7 := if s.inStrip then s.strip.ewd else s.lanes.ewd

/-- The number of vector registers NR (07_lanes.md R180); strip threads read it as it stood at `sfork` (04_control.md
R110). -/
def State.nr (s : State) : Nat := 8 * 2 ^ ((if s.inStrip then s.strip.vcfg else s.lanes.vcfg).toNat % 4)

/-- VLMAX = 32,768 × 64 / NR (07_lanes.md R180). -/
def State.vlmax (s : State) : Nat := 262144 / 2 ^ (s.lanes.vcfg.toNat % 4)

/-- The tail policy in force is tail-dead (07_lanes.md R183). -/
def State.tailDead (s : State) : Bool := s.lanes.vcfg.getLsbD 2

/-- Length-agnostic mode (07_lanes.md R187). -/
def State.la (s : State) : Bool := s.lanes.vcfg.getLsbD 3

/-! ### The event log -/

/-- A port transmits and receives: it is enabled and its link is up (18_platform.md R462). -/
def State.portOn (s : State) (p : Nat) : Bool :=
  (mapGet s.hub.ports (512 * p)).getLsbD 0 && (mapGet s.hub.ports (512 * p + 1)).getLsbD 0

/-- A packet a port sends, when it transmits; an unsolicited event, on connection 0, goes to each port in any case
(18_platform.md R462, R464, R476). -/
def sendPacket (s : State) (port : Nat) (p : Packet) : State :=
  if p.conn = 0 ∨ s.portOn port then { s with hub.outbox := s.hub.outbox ++ [(port, p)] } else s

/-- Write an event-log entry and send it from both ports (18_platform.md R476). -/
def logEvent (s : State) (kind sub who : Nat) (addr detail : Word) : State :=
  let k := s.hub.logHead.toNat
  let w1 := w64 (kind % 256 + sub % 256 * 2 ^ 8 + who % 65536 * 2 ^ 16)
  let ent := mapSet (mapSet (mapSet (mapSet s.hub.logEntry (4 * k) s.ctl.cycle) (4 * k + 1) w1) (4 * k + 2) addr)
    (4 * k + 3) detail
  let data := leBytes s.ctl.cycle.toNat 8 ++ leBytes w1.toNat 8 ++ leBytes addr.toNat 8 ++ leBytes detail.toNat 8
  let p : Packet := ⟨4, 0, 0, 0, 0, data⟩
  let s := { s with hub.logEntry := ent, hub.logHead := BitVec.ofNat 8 ((k + 1) % 255) }
  sendPacket (sendPacket s 0 p) 1 p

/-! ### Traps -/

/-- The cause word in the layout of `ecause` (17_system.md R440). -/
def Trap.cause (t : Trap) : Word := w64 (t.code % 256 + t.sub % 256 * 2 ^ 8 + t.ctx % 16 * 2 ^ 16)

/-- Add one to a saturating field of `kstat` (17_system.md R441). -/
def bumpStat (k : Word) (lo n : Nat) : Word :=
  if fld k.toNat lo n + 1 < 2 ^ n then k + w64 (2 ^ lo) else k

/-- The count of a suspended frame or strip state when a handler at level h is entered: one more when it runs at that
level (02_encoding.md R59, 04_control.md R115). -/
def holdMore (live : Bool) (level h : Level) (held : Nat) : Nat := if live && level == h then held + 1 else held

/-- Firmware entry (17_system.md R443). A trap at firmware level while fstat.nest = 1 halts the core and is reported; the
program counter stays at the trapping instruction, at which a restart goes on (R452; DESIGN CHOICE, log 37). -/
def firmwareEntry (s : State) (t : Trap) : State :=
  if s.level = .firmware ∧ s.ctl.fstat.getLsbD 2 then
    logEvent { s with mode := .halted, wait := none } 4 t.code Config.coreId 0 t.cause
  else
    let ks := if s.level = .kernel then bumpStat s.ctl.kstat 48 16 else s.ctl.kstat
    { s with
      ctl.fcause := t.cause
      ctl.fepc := t.epc.getD s.pc
      ctl.faddr := t.eaddr
      ctl.fstat := BitVec.ofNat 3 (s.level.code + 4)
      ctl.kstat := ks
      level := .firmware
      pc := s.ctl.fvec
      wait := none
      frame.captured := false
      frame.held := holdMore s.frame.live s.frame.level .firmware s.frame.held
      strip.captured := false
      strip.held := holdMore s.strip.live s.strip.level .firmware s.strip.held }

/-- The rules of the cause set `estride` and `eremain`: faults of memory, misalignment and engine faults (17_system.md R442,
06_memory.md R155, R168, log 29). -/
def Trap.setsStride (t : Trap) : Bool := (2 ≤ t.code && t.code ≤ 7) || t.code == 10

/-- Kernel entry: the group of 17_system.md R442 when the trap is no double trap. A pre-emption trap clears the request
(R445) and counts in kstat. -/
def kernelEntry (s : State) (t : Trap) : State :=
  let pre := t.code = 15
  let ks := if pre then (if t.forced then bumpStat (bumpStat s.ctl.kstat 24 24) 0 24 else bumpStat s.ctl.kstat 24 24)
    else s.ctl.kstat
  { s with
    ctl.ecause := t.cause
    ctl.epc := (t.epc.getD s.pc) &&& ~~~3#64
    ctl.eaddr := t.eaddr
    ctl.estride := if t.setsStride then t.estride else s.ctl.estride
    ctl.eremain := if t.setsStride then t.eremain else s.ctl.eremain
    ctl.estatus := BitVec.ofNat 5 (s.level.code + 4 + (s.ctl.estatus.toNat / 8) * 8)
    ctl.kstat := ks
    ctl.forced := if pre then t.forced else s.ctl.forced
    ctl.preReq := if pre then none else s.ctl.preReq
    level := .kernel
    pc := s.ctl.evec &&& ~~~3#64
    wait := none
    frame.captured := false
    frame.held := holdMore s.frame.live s.frame.level .kernel s.frame.held
    strip.captured := false
    strip.held := holdMore s.strip.live s.strip.level .kernel s.strip.held }

/-- Trap entry (17_system.md R442): firmware entry at firmware level or for a double trap, kernel entry otherwise. -/
def takeTrap (s : State) (t : Trap) : State :=
  if s.level = .firmware ∨ (s.level = .kernel ∧ s.ctl.estatus.getLsbD 2) then firmwareEntry s t else kernelEntry s t

/-- The illegal-instruction trap of an illegal word (02_encoding.md R45). -/
def illegal {α : Type} : Run α := .error (.trap { code := 1 })

/-- The access violation at an address (17_system.md R438). -/
def violation {α : Type} (a : Word) : Run α := .error (.trap { code := 5, eaddr := a })

/-- The misalignment trap at an address (17_system.md R438). -/
def misaligned {α : Type} (a : Word) : Run α := .error (.trap { code := 6, eaddr := a })

/-- The engine fault of an instruction that rejects a structure: sub 1 (17_system.md R438, R440). -/
def rejected {α : Type} (a : Word) : Run α := .error (.trap { code := 10, sub := 1, eaddr := a })

/-- The place of a cause in the order of 17_system.md R439. -/
def Trap.rank (t : Trap) : Nat :=
  match t.code with
  | 2 => 0
  | 1 => 1
  | 6 => 2
  | 3 => 3
  | 4 => 3
  | 5 => 3
  | _ => 4

/-- Of two causes of one instruction, the one that is taken: the first in the order of 17_system.md R439, and of two page faults
or access violations the one at the lower address. -/
def firstTrap (t u : Trap) : Trap :=
  if u.rank < t.rank ∨ (u.rank = 3 ∧ t.rank = 3 ∧ u.eaddr.toNat < t.eaddr.toNat) then u else t

/-- Two computations of one instruction that do not depend on each other: where both fail, the cause of 17_system.md R439. -/
def both {α β : Type} (x : Run α) (y : Run β) : Run (α × β) :=
  match x, y with
  | .ok a, .ok b => .ok (a, b)
  | .error (.trap t), .error (.trap u) => .error (.trap (firstTrap t u))
  | .error e, _ => .error e
  | .ok _, .error e => .error e

/-- Go on only when a condition holds; the instruction is illegal otherwise (02_encoding.md R46). -/
def legalIf (c : Bool) : Run Unit := if c then .ok () else illegal

/-- End a meaning: commit, or take the trap its computation raised. Every path gives a next state. -/
def finish (s : State) : Run State → Out
  | .ok t => .next t
  | .error (.trap t) => .next (takeTrap s t)
  | .error (.trapIn u t) => .next (takeTrap u t)

/-! ### What is due -/

/-- The cycles after which a pre-emption is forced and `wfi` ends (04_control.md R107, 17_system.md R449). -/
def patience : Nat := 2 ^ 20

/-- The pending pre-emption request has become forced (04_control.md R107). -/
def State.requestForced (s : State) : Bool :=
  match s.ctl.preReq with
  | some t => decide (patience ≤ (s.ctl.cycle - t).toNat)
  | none => false

/-- A cause that falls due is taken at the waiting instruction: not at a `wfi`, nor in the wait for a Barchan result, nor at a
vector store, which no interrupt stops (06_memory.md R169, 11_sync.md R310, 12_engines.md R317, 16_kv.md R414, 17_system.md R449),
nor in a context save or load that waits for a unit boundary, but for the save of `join` (13_work.md R363; 12_engines.md R313:
DESIGN CHOICE, log 22). -/
def Wait.yields : Wait → Bool
  | .wfi _ => false
  | .result _ _ => false
  | .drain => false
  | .save => false
  | _ => true

/-- Asynchronous causes are looked at: an instruction has committed, or one waits that they interrupt (17_system.md R439,
11_sync.md R310). -/
def State.atBoundary (s : State) : Bool := s.mode == .running && (s.commit.isSome || s.wait.any Wait.yields)

/-! ### Committing -/

/-- A repeat frame drives the sequencer at the current level (02_encoding.md R57, R59). -/
def State.inFrame (s : State) : Bool := s.frame.live && s.frame.captured && s.level == s.frame.level

/-- The position of strip thread t (04_control.md R115). -/
def State.stripPos (s : State) (t : Nat) : Nat := (mapGet s.strip.pos t).toNat

/-- The thread whose word the model executes next: the lowest one that has not reached `sjoin`; 256 when every thread
has (04_control.md R113: any order gives the same result). -/
def State.thread (s : State) : Nat :=
  ((upto 0 256).find? (fun t => s.stripPos t != s.strip.len.toNat)).getD 256

/-- Advance past a body word of a repeat frame (02_encoding.md R56, R60). -/
def frameAdvance (s : State) : State :=
  let k := s.frame.body.length
  if s.frame.p.toNat + 1 < k then
    { s with frame.p := s.frame.p + 1, pc := s.pc + 4, commit := some .plain }
  else if s.frame.j.toNat + 1 < s.frame.n.toNat then
    { s with
      frame.p := 0
      frame.j := s.frame.j + 1
      pc := s.pc - w64 (4 * s.frame.p.toNat)
      commit := some .boundary }
  else { s with frame := Frame.none, pc := s.pc + 4, commit := some .plain }

/-- The strip thread in hand goes to another position (04_control.md R113). -/
def stripGoto (s : State) (i : Nat) : State :=
  { s with strip.pos := mapSet s.strip.pos s.thread (BitVec.ofNat 8 i), commit := some .plain }

/-- The trip count of an element for `loopv` (04_control.md R102). -/
def tripCount (s : State) (a i : Nat) : Nat :=
  let x := (mapGet s.lanes.vreg (a * 262144 + i)).toNat
  let w := s.lanes.ewa.toNat % 64
  if s.lanes.ewa.getLsbD 6 then (sext x w).toNat else x % 2 ^ w

/-- The evaluation of `loopv`: m7 after k completed iterations. Bits at and above VLMAX keep their values (04_control.md
R102, 08_masks.md R206). -/
def loopEval (s : State) (a k : Nat) : State :=
  let m := mapFill (mapClear s.lanes.mask (7 * 262144) s.vlmax) (7 * 262144) (min s.lanes.vl.toNat s.vlmax)
    (fun i => if k < tripCount s a (i - 7 * 262144) then 1#1 else 0#1)
  { s with
    lanes.mask := m
    sched.act := s.sched.act.map (fun x => { x with masksPresent := x.masksPresent ||| 0x40 }) }

/-- Some bit of m7 below VLMAX is set (04_control.md R102). -/
def anyM7 (s : State) : Bool := s.lanes.mask.any (fun c => 7 * 262144 ≤ c.1 && c.1 < 7 * 262144 + s.vlmax)

/-- The back edge of the top loop entry (04_control.md R97, R102), an iteration boundary (R105). -/
def backEdge (s : State) (e : LoopEntry) (rest : List LoopEntry) : State :=
  match e.kind with
  | .counted =>
    if e.index.toNat + 1 < e.arg.toNat then
      { s with loops := { e with index := e.index + 1 } :: rest, pc := e.start, commit := some .boundary }
    else { s with loops := rest, pc := e.last + 4, commit := some .boundary }
  | .vector =>
    let u := loopEval s (e.arg.toNat % 64) (e.index.toNat + 1)
    if anyM7 u then
      { u with loops := { e with index := e.index + 1 } :: rest, pc := e.start, commit := some .boundary }
    else { u with loops := rest, pc := e.last + 4, commit := some .boundary }
  | .sweep => { s with pc := s.pc + 4, commit := some .plain }

/-- The instruction stands at the E of the top loop entry (04_control.md R97, R98). -/
def State.atLoopEnd (s : State) : Bool :=
  match s.loops with
  | [] => false
  | e :: _ => e.last == s.pc

/-- Where a committed instruction leads that does not redirect the program counter itself: the next word of a repeat
frame or strip thread, the back edge of the top loop entry, or the next address. A frame that was recaptured may hold the E of
the top loop entry, which R58 of 02_encoding.md does not check: its words then go on as R56 says, and take no back edge (R97;
DESIGN CHOICE, log 14). -/
def advance (s : State) : State :=
  if s.inFrame then frameAdvance s
  else if s.inStrip then stripGoto s (s.stripPos s.thread + 1)
  else
    match s.loops with
    | [] => { s with pc := s.pc + 4, commit := some .plain }
    | e :: rest =>
      if e.last = s.pc then backEdge s e rest else { s with pc := s.pc + 4, commit := some .plain }

/-- Count a committed instruction (03_scalar.md R85) and end its wait. -/
def counted (s : State) : State := { s with instret := s.instret + 1, wait := none }

/-- Commit an instruction that goes on to the next one (R22, R85, R97). -/
def retire (s : State) : State := advance (counted s)

/-- Commit an instruction that sets the program counter; `b` says whether that is an iteration boundary (R105). -/
def goto (s : State) (t : Word) (b : Bool) : State :=
  { counted s with pc := t, commit := some (if b then .boundary else .plain) }

/-- The instruction waits: nothing changes but that it is noted (11_sync.md R310, 12_engines.md R317). -/
def waitHere (s : State) (w : Wait) : State := { s with wait := some w, commit := none }

/-! ### Bytes of memory -/

/-- The first location of the scratchpad in `mem` (06_memory.md R146). -/
def padBase : Nat := 2 ^ 46

/-- The byte the core reads at a location. -/
def State.byte (s : State) (loc : Nat) : Byte := mapGet s.memory.mem loc

/-- The number in the n bytes from a location, lowest byte first (00_scope.md R5). -/
def State.num (s : State) (loc n : Nat) : Nat := leNat ((upto loc n).map s.byte)

/-- A listed cell's value. -/
def cellFind (l : List Host.Cell) (a : Nat) : Option Byte := (l.find? (fun c => c.1 == a)).map (·.2)

/-- List the earlier value of a byte, unless one is listed already. -/
def keepOld (l : List Host.Cell) (a : Nat) (old : Byte) : List Host.Cell :=
  if l.any (fun c => c.1 == a) then l else (a, old) :: l

/-- Forget a byte's earlier value. -/
def dropOld (l : List Host.Cell) (a : Nat) : List Host.Cell := l.filter (fun c => c.1 != a)

/-- What the rest of the package reads at a location: the latest published value (11_sync.md R287). -/
def State.pubByte (s : State) (loc : Nat) : Byte :=
  match cellFind s.memory.pubq loc with
  | some b => b
  | none => match cellFind s.memory.unpub loc with
    | some b => b
    | none => s.byte loc

/-- A package-scope read of the core: its own latest store, or the value published at package scope, and nothing that an
earlier activation published at a narrower scope alone (06_memory.md R149, R172). -/
def State.wideByte (s : State) (loc : Nat) : Byte :=
  if s.memory.left.contains loc then (cellFind s.memory.unpub loc).getD (s.byte loc) else s.byte loc

/-- The number in the n bytes from a location as the rest of the package reads it. -/
def State.pubNum (s : State) (loc n : Nat) : Nat := leNat ((upto loc n).map s.pubByte)

/-- What a command or a Barchan operation reads at a location, when the bytes in `view` are those that its activation stored after
it and has not published since: a store that its activation made before it, and any published one (11_sync.md R287, R301). -/
def State.seenByte (s : State) (view : List Host.Cell) (loc : Nat) : Byte := (cellFind view loc).getD (s.byte loc)

/-- The latest stores of some bytes are there for every party: the accepted commands and Barchan operations read them from now on
(11_sync.md R286, R287, R304). -/
def showBytes (s : State) (shown : Nat → Bool) : State :=
  let f (l : List Host.Cell) : List Host.Cell := l.filter (fun c => !shown c.1)
  { s with
    sched.commands := s.sched.commands.map (fun c => { c with view := f c.view })
    kv.barOps := s.kv.barOps.map (fun o => { o with view := f o.view }) }

/-- Hide an ordinary store from every accepted command and Barchan operation, which read as if before it (11_sync.md R301). The
scratchpad has no snapshot: what a core stores there every later access to it sees, an engine's too (R291). -/
def hideStore (s : State) (loc : Nat) : State :=
  let hide (view : List Host.Cell) : List Host.Cell := if loc < padBase then keepOld view loc (s.byte loc) else view
  { s with
    sched.commands := s.sched.commands.map (fun c => { c with view := hide c.view })
    kv.barOps := s.kv.barOps.map (fun o => { o with view := hide o.view }) }

/-- An ordinary store of one byte by the core (11_sync.md R285, R287); the scratchpad has no snapshot (R291). -/
def storeByte (s : State) (loc : Nat) (b : Byte) : State :=
  let s := hideStore s loc
  { s with
    memory.mem := mapSet s.memory.mem loc b
    memory.unpub := if loc < padBase then keepOld s.memory.unpub loc (s.byte loc) else s.memory.unpub
    memory.own := if loc < padBase then keepOld s.memory.own loc (s.byte loc) else s.memory.own
    memory.left := s.memory.left.filter (fun l => l != loc) }

/-- A store of one byte by an engine or by Barchan: every party may read it (11_sync.md R287, R301). -/
def agentByte (s : State) (loc : Nat) (b : Byte) : State :=
  let s := showBytes s (fun l => l == loc)
  { s with
    memory.mem := mapSet s.memory.mem loc b
    memory.unpub := dropOld s.memory.unpub loc
    memory.pubq := dropOld s.memory.pubq loc
    memory.own := dropOld s.memory.own loc }

/-- A synchronising store of one byte: visible to the package at once, as an agent's is (11_sync.md R285, R289). -/
def syncByte (s : State) (loc : Nat) (b : Byte) : State := agentByte s loc b

/-- Another party changes some bits of a byte, as `g` says: every view of the byte has them changed, and keeps the other bits
that it shows or hides (11_sync.md R287). -/
def editByte (s : State) (loc : Nat) (g : Byte → Byte) : State :=
  let f (l : List Host.Cell) : List Host.Cell := l.map (fun c => if c.1 = loc then (c.1, g c.2) else c)
  { s with
    memory.mem := mapSet s.memory.mem loc (g (s.byte loc))
    memory.unpub := f s.memory.unpub
    memory.pubq := f s.memory.pubq
    memory.own := f s.memory.own
    sched.commands := s.sched.commands.map (fun c => { c with view := f c.view })
    kv.barOps := s.kv.barOps.map (fun o => { o with view := f o.view }) }

/-- Bits that a walker sets in a byte of a page-table entry (06_memory.md R150). -/
def orByte (s : State) (loc : Nat) (bits : Byte) : State := editByte s loc (fun b => b ||| bits)

/-- An engine writes the low nibble of a byte (12_engines.md R329). -/
def nibbleByte (s : State) (loc v : Nat) : State := editByte s loc (fun b => BitVec.ofNat 8 (setFld b.toNat 0 4 v))

/-- A location in `unpub` that an earlier activation stored (06_memory.md R172). -/
def State.isLeft (s : State) (loc : Nat) : Bool := s.memory.left.contains loc

/-- A store of one byte by a host or another core, published (18_platform.md R461). A byte the activation has stored and not
published keeps its value for the core (11_sync.md R286). -/
def outsideByte (s : State) (loc : Nat) (b : Byte) : State :=
  if s.isLeft loc then agentByte s loc b
  else match cellFind s.memory.unpub loc with
  | some _ => { s with
      memory.unpub := (loc, b) :: dropOld s.memory.unpub loc
      memory.own := if (cellFind s.memory.own loc).isSome then (loc, b) :: dropOld s.memory.own loc else s.memory.own
      memory.pubq := if (cellFind s.memory.pubq loc).isSome then (loc, b) :: dropOld s.memory.pubq loc else s.memory.pubq }
  | none => match cellFind s.memory.pubq loc with
    | some _ => { s with memory.pubq := (loc, b) :: dropOld s.memory.pubq loc }
    | none => agentByte s loc b

/-- Store bytes one by one at the given locations. -/
def storeAll (f : State → Nat → Byte → State) (s : State) : List Nat → List Byte → State
  | l :: ls, b :: bs => storeAll f (f s l b) ls bs
  | _, _ => s

/-- A synchronising store of the low n bytes of v from a location on (11_sync.md R285). -/
def syncNum (s : State) (loc n v : Nat) : State := storeAll syncByte s (upto loc n) (leBytes v n)

/-- A store by an engine or by Barchan of the low n bytes of v from a location on. -/
def agentNum (s : State) (loc n v : Nat) : State := storeAll agentByte s (upto loc n) (leBytes v n)

/-! ### Publication -/

/-- A publication at a scope begins (11_sync.md R293). At every scope the core's later activations read the stores; only
publication at `pkg` shows them to the package: to the accepted commands and Barchan operations at once, and to every other party
when it is complete (R287: DESIGN CHOICE, log 11). What an earlier activation stored is not the activation's to publish. -/
def beginPublish (s : State) (scope : Nat) : State :=
  let s := { s with
    memory.own := []
    memory.pubCore := s.memory.pendCore
    memory.pubDie := if 1 ≤ scope then s.memory.pendDie else s.memory.pubDie
    memory.pubPkg := if scope = 2 then s.memory.pendPkg else s.memory.pubPkg }
  if scope = 2 then
    { showBytes s (fun l => !s.isLeft l && s.memory.unpub.any (fun c => c.1 == l)) with
      memory.pubq := s.memory.pubq ++
        s.memory.unpub.filter (fun c => !s.isLeft c.1 && !s.memory.pubq.any (fun d => d.1 == c.1))
      memory.unpub := s.memory.unpub.filter (fun c => s.isLeft c.1) }
  else s

/-- Every begun publication is complete and the bytes counted are visible (11_sync.md R293, R294). -/
def endPublish (s : State) : State :=
  { s with
    memory.pubq := []
    memory.pendCore := s.memory.pendCore - s.memory.pubCore
    memory.pendDie := s.memory.pendDie - s.memory.pubDie
    memory.pendPkg := s.memory.pendPkg - s.memory.pubPkg
    memory.pubCore := 0
    memory.pubDie := 0
    memory.pubPkg := 0 }

/-- The oldest queued barrier arrival adds one to the word at its location, for every party to read (11_sync.md R294, R296). The
commands and operations accepted after its `vfence` have one arrival fewer to wait for (R301). -/
def arrive (s : State) (a : Arrival) : State :=
  let t := syncNum s a.loc 8 (s.num a.loc 8 + 1)
  { t with
    sched.commands := t.sched.commands.map (fun c => { c with behind := c.behind - 1 })
    kv.barOps := t.kv.barOps.map (fun o => { o with behind := o.behind - 1 }) }

/-- The queued barrier arrivals are performed, in order (11_sync.md R296). -/
def performArrivals (s : State) (l : List Arrival) : State :=
  let t := l.foldl arrive s
  { t with memory.arrivals := [] }

/-- Before a synchronising access: begun publications and queued arrivals are complete (11_sync.md R289, R293, R296). -/
def syncOrder (s : State) : State := let s := endPublish s; performArrivals s s.memory.arrivals

/-- Before an ordinary access of the core to some bytes: an arrival that adds to one of them precedes the access in program order,
so that the queued arrivals are performed first (11_sync.md R286, R296). -/
def arriveBefore (s : State) (ls : List Nat) : State :=
  if s.memory.arrivals.any (fun a => ls.any (fun l => a.loc ≤ l && l < a.loc + 8)) then syncOrder s else s

/-- What an access of the core to some bytes follows: everything earlier when it is synchronising, and otherwise the arrivals that
add to one of the bytes (11_sync.md R286, R289). -/
def accessOrder (s : State) (sync : Bool) (ls : List Nat) : State := if sync then syncOrder s else arriveBefore s ls

/-- Publish at `pkg` and complete it: an implicit publication (11_sync.md R305, R306). -/
def publishAll (s : State) : State := syncOrder (beginPublish s 2)

/-- The activation leaves the core without a publication: what it has published at no scope is returned to no other party, so
each byte reads as it did before, and nothing of it stays counted. What it has published at `core` or `die` stays for the
core's later activations to read (11_sync.md R287, R290, R294). -/
def dropUnpublished (s : State) : State :=
  let t := s.memory.own.foldl (fun s c => { hideStore s c.1 with memory.mem := mapSet s.memory.mem c.1 c.2 }) s
  let kept := t.memory.unpub.filter (fun c => t.byte c.1 != c.2)
  { t with
    memory.unpub := kept
    memory.own := []
    memory.left := kept.map (·.1)
    memory.pendCore := t.memory.pubCore
    memory.pendDie := t.memory.pubDie
    memory.pendPkg := t.memory.pubPkg }

/-- The activation on the core as a party (11_sync.md R283). -/
def State.actParty (s : State) : Option Party := s.sched.act.bind (fun a => a.block.map (fun b => ⟨a.asid, b⟩))

/-- What a party has stored and not published. -/
def unpublishedOf (s : State) (p : Party) : Away :=
  { party := p
    cells := s.memory.own.map (fun c => (c.1, c.2, s.byte c.1))
    wide := (s.memory.unpub.filter (fun c => !s.isLeft c.1)).map (fun c => (c.1, s.byte c.1))
    pendCore := s.memory.pendCore - s.memory.pubCore
    pendDie := s.memory.pendDie - s.memory.pubDie
    pendPkg := s.memory.pendPkg - s.memory.pubPkg }

/-- The party leaves the core without a publication (11_sync.md R287); what it stored is kept for its return (R286). -/
def leaveParty (s : State) : State :=
  let t := dropUnpublished s
  { t with
    sched.party := none
    sched.away := t.sched.away ++ s.sched.party.toList.map (unpublishedOf s) }

/-- A byte the party stored before it left is its latest store again, unless another store has followed it in the coherence
order (11_sync.md R286). -/
def restoreByte (s : State) (c : Nat × Byte × Byte) : State := if s.byte c.1 = c.2.1 then storeByte s c.1 c.2.2 else s

/-- What a party left unpublished is its own again. -/
def restoreAway (s : State) (x : Away) : State :=
  let t := x.cells.foldl restoreByte s
  { t with
    memory.left := t.memory.left.filter (fun l => !x.wide.any (fun c => c.1 == l && t.byte l == c.2))
    memory.pendCore := t.memory.pendCore + x.pendCore
    memory.pendDie := t.memory.pendDie + x.pendDie
    memory.pendPkg := t.memory.pendPkg + x.pendPkg }

/-- The activation on the core is the party that stores from now on; what it had left unpublished is its own again
(11_sync.md R283, R286). -/
def enterParty (s : State) : State :=
  let t := { s with
    sched.party := s.actParty
    sched.away := s.sched.away.filter (fun x => some x.party != s.actParty) }
  (s.sched.away.filter (fun x => some x.party == s.actParty)).foldl restoreAway t

/-! ### Masks, present and dirty bits -/

/-- A mask register is written: it is present from now on (17_system.md R454), also when the instruction that names it as a
destination writes no bit of it (DESIGN CHOICE, log 37). -/
def maskWritten (s : State) (k : Nat) : State :=
  { s with sched.act := s.sched.act.map (fun x =>
      { x with masksPresent := x.masksPresent ||| BitVec.ofNat 7 (2 ^ (k - 1)) }) }

/-- A tile or its metadata is written: it is present from now on (17_system.md R454), also when the instruction that names it
as a destination writes no element of it, as an `mmac` row without a live column does (DESIGN CHOICE, log 37). -/
def tileWritten (s : State) (t : Nat) : State :=
  { s with sched.act := s.sched.act.map (fun x =>
      { x with tilesPresent := x.tilesPresent ||| BitVec.ofNat 4 (2 ^ t) }) }

/-- Sticky flags are set in `fflags` (05_numbers.md R127). -/
def raiseF (s : State) (f : BitVec 5) : State := { s with lanes.fflags := s.lanes.fflags ||| f }

/-- Sticky flags are set in `qflags` (05_numbers.md R128). -/
def raiseQ (s : State) (q : BitVec 4) : State := { s with lanes.qflags := s.lanes.qflags ||| q }

end Sys2Proof.Machine
end

