-- ==== Sys2Proof/Machine/Scalar.lean ====
section
/-!
DEFINITION. Scalar integer and address arithmetic (03_scalar.md R62 to R76). None of these instructions traps.
-/

namespace Sys2Proof.Machine

/-- Write a result to sD and commit (R62, R67). -/
def result (s : State) (d : BitVec 5) (v : Word) : Out := .next (retire (s.wr d v))

/-- A 13-bit immediate extended to 64 bits (02_encoding.md R42). -/
def imm13 (i : BitVec 13) : Word := i.signExtend 64

/-- A 21-bit immediate extended to 64 bits (02_encoding.md R42). -/
def imm21 (i : BitVec 21) : Word := i.signExtend 64

/-- The shift amount of a register-count shift: bits 7 to 0 (R67). -/
def shiftAmount (y : Word) : Nat := y.toNat % 256

/-- `add` (R67). -/
def execAdd (d a b : BitVec 5) (s : State) : Out := result s d (s.rd a + s.rd b)
/-- `sub` (R67). -/
def execSub (d a b : BitVec 5) (s : State) : Out := result s d (s.rd a - s.rd b)
/-- `and` (R67). -/
def execAnd (d a b : BitVec 5) (s : State) : Out := result s d (s.rd a &&& s.rd b)
/-- `or` (R67). -/
def execOr (d a b : BitVec 5) (s : State) : Out := result s d (s.rd a ||| s.rd b)
/-- `xor` (R67). -/
def execXor (d a b : BitVec 5) (s : State) : Out := result s d (s.rd a ^^^ s.rd b)
/-- `andn` (R67). -/
def execAndn (d a b : BitVec 5) (s : State) : Out := result s d (s.rd a &&& ~~~(s.rd b))
/-- `shl` (R67). -/
def execShl (d a b : BitVec 5) (s : State) : Out := result s d (s.rd a <<< shiftAmount (s.rd b))
/-- `shrl` (R67). -/
def execShrl (d a b : BitVec 5) (s : State) : Out := result s d (s.rd a >>> shiftAmount (s.rd b))
/-- `shra` (R67). -/
def execShra (d a b : BitVec 5) (s : State) : Out := result s d ((s.rd a).sshiftRight (shiftAmount (s.rd b)))
/-- `cmplt` (R67). -/
def execCmplt (d a b : BitVec 5) (s : State) : Out := result s d (wBool ((s.rd a).slt (s.rd b)))
/-- `cmpltu` (R67). -/
def execCmpltu (d a b : BitVec 5) (s : State) : Out := result s d (wBool ((s.rd a).ult (s.rd b)))
/-- `min` (R67). -/
def execMin (d a b : BitVec 5) (s : State) : Out :=
  result s d (if (s.rd a).slt (s.rd b) then s.rd a else s.rd b)
/-- `max` (R67). -/
def execMax (d a b : BitVec 5) (s : State) : Out :=
  result s d (if (s.rd a).slt (s.rd b) then s.rd b else s.rd a)
/-- `minu` (R67). -/
def execMinu (d a b : BitVec 5) (s : State) : Out :=
  result s d (if (s.rd a).ult (s.rd b) then s.rd a else s.rd b)
/-- `maxu` (R67). -/
def execMaxu (d a b : BitVec 5) (s : State) : Out :=
  result s d (if (s.rd a).ult (s.rd b) then s.rd b else s.rd a)
/-- `cmpeq` (R67). -/
def execCmpeq (d a b : BitVec 5) (s : State) : Out := result s d (wBool (s.rd a == s.rd b))

/-- `addi` (R68). -/
def execAddi (d a : BitVec 5) (i : BitVec 13) (s : State) : Out := result s d (s.rd a + imm13 i)
/-- `cmplti` (R68). -/
def execCmplti (d a : BitVec 5) (i : BitVec 13) (s : State) : Out := result s d (wBool ((s.rd a).slt (imm13 i)))
/-- `cmpltiu` (R68). -/
def execCmpltiu (d a : BitVec 5) (i : BitVec 13) (s : State) : Out := result s d (wBool ((s.rd a).ult (imm13 i)))
/-- `andi` (R68). -/
def execAndi (d a : BitVec 5) (i : BitVec 13) (s : State) : Out := result s d (s.rd a &&& imm13 i)
/-- `ori` (R68). -/
def execOri (d a : BitVec 5) (i : BitVec 13) (s : State) : Out := result s d (s.rd a ||| imm13 i)
/-- `xori` (R68). -/
def execXori (d a : BitVec 5) (i : BitVec 13) (s : State) : Out := result s d (s.rd a ^^^ imm13 i)
/-- `cmpeqi` (R68). -/
def execCmpeqi (d a : BitVec 5) (i : BitVec 13) (s : State) : Out := result s d (wBool (s.rd a == imm13 i))
/-- `shli` (R69). -/
def execShli (d a : BitVec 5) (n : BitVec 6) (s : State) : Out := result s d (s.rd a <<< n.toNat)
/-- `shrli` (R69). -/
def execShrli (d a : BitVec 5) (n : BitVec 6) (s : State) : Out := result s d (s.rd a >>> n.toNat)
/-- `shrai` (R69). -/
def execShrai (d a : BitVec 5) (n : BitVec 6) (s : State) : Out := result s d ((s.rd a).sshiftRight n.toNat)

/-- `mul` (R74). -/
def execMul (d a b : BitVec 5) (s : State) : Out := result s d (s.rd a * s.rd b)
/-- `mulh.ss` (R74): the floor of the exact product over 2^64. -/
def execMulhSs (d a b : BitVec 5) (s : State) : Out :=
  result s d (wrap64 (((s.rd a).toInt * (s.rd b).toInt).fdiv (2 ^ 64)))
/-- `mulh.uu` (R74). -/
def execMulhUu (d a b : BitVec 5) (s : State) : Out :=
  result s d (w64 ((s.rd a).toNat * (s.rd b).toNat / 2 ^ 64))
/-- `mulh.su` (R74). -/
def execMulhSu (d a b : BitVec 5) (s : State) : Out :=
  result s d (wrap64 (((s.rd a).toInt * ((s.rd b).toNat : Int)).fdiv (2 ^ 64)))

/-- The signed quotient of R74, rounded toward −∞; 0 for a divisor of 0. -/
def quotS (x y : Word) : Int := if y = 0 then 0 else x.toInt.fdiv y.toInt
/-- The signed remainder of R74, with the sign of the divisor; the dividend for a divisor of 0. -/
def remS (x y : Word) : Int := if y = 0 then x.toInt else x.toInt.fmod y.toInt
/-- The unsigned quotient of R74. -/
def quotU (x y : Word) : Nat := if y = 0 then 0 else x.toNat / y.toNat
/-- The unsigned remainder of R74. -/
def remU (x y : Word) : Nat := if y = 0 then x.toNat else x.toNat % y.toNat

/-- `divs` (R74). -/
def execDivs (d a b : BitVec 5) (s : State) : Out := result s d (wrap64 (quotS (s.rd a) (s.rd b)))
/-- `divu` (R74). -/
def execDivu (d a b : BitVec 5) (s : State) : Out := result s d (w64 (quotU (s.rd a) (s.rd b)))
/-- `mods` (R74). -/
def execMods (d a b : BitVec 5) (s : State) : Out := result s d (wrap64 (remS (s.rd a) (s.rd b)))
/-- `modu` (R74). -/
def execModu (d a b : BitVec 5) (s : State) : Out := result s d (w64 (remU (s.rd a) (s.rd b)))

/-- `clz` (R75). -/
def execClz (d a : BitVec 5) (s : State) : Out := result s d (w64 (64 - bitLen (s.rd a).toNat 64))
/-- `ctz` (R75). -/
def execCtz (d a : BitVec 5) (s : State) : Out := result s d (w64 (lowZeros (s.rd a).toNat 64))
/-- `cpop` (R75). -/
def execCpop (d a : BitVec 5) (s : State) : Out := result s d (w64 (popCount (s.rd a).toNat 64))
/-- `brev` (R75). -/
def execBrev (d a : BitVec 5) (s : State) : Out := result s d (w64 (revBits (s.rd a).toNat 64))

/-- The lowest bit of the field that a descriptor names (R76). -/
def fieldPos (y : Word) : Nat := fld y.toNat 0 6
/-- The effective length of the field that a descriptor names, clipped at bit 63 (R76). -/
def fieldLen (y : Word) : Nat := min (fld y.toNat 8 7) (64 - fieldPos y)
/-- The field of x that a descriptor names (R76). -/
def fieldOf (x y : Word) : Nat := fld x.toNat (fieldPos y) (fieldLen y)

/-- `bfx` (R76). -/
def execBfx (d a b : BitVec 5) (s : State) : Out :=
  result s d (if fieldLen (s.rd b) = 0 then 0 else wrap64 (sext (fieldOf (s.rd a) (s.rd b)) (fieldLen (s.rd b))))
/-- `bfxu` (R76). -/
def execBfxu (d a b : BitVec 5) (s : State) : Out := result s d (w64 (fieldOf (s.rd a) (s.rd b)))
/-- `bfi` (R76): sD is read as a source. -/
def execBfi (d a b : BitVec 5) (s : State) : Out :=
  result s d (w64 (setFld (s.rd d).toNat (fieldPos (s.rd b)) (fieldLen (s.rd b)) (s.rd a).toNat))

/-- `lhi` (R70). -/
def execLhi (d : BitVec 5) (i : BitVec 21) (s : State) : Out := result s d (imm21 i * 8192)
/-- `pcrel` (R71). -/
def execPcrel (d : BitVec 5) (i : BitVec 21) (s : State) : Out := result s d (s.pc + imm21 i * 8192)
/-- `ihz` (R72). -/
def execIhz (d : BitVec 5) (h : BitVec 2) (i : BitVec 16) (s : State) : Out :=
  result s d (i.setWidth 64 <<< (16 * h.toNat))
/-- `ihk` (R72): sD is read as a source. -/
def execIhk (d : BitVec 5) (h : BitVec 2) (i : BitVec 16) (s : State) : Out :=
  result s d (w64 (setFld (s.rd d).toNat (16 * h.toNat) 16 i.toNat))
/-- `ihs` (R72). -/
def execIhs (d : BitVec 5) (h : BitVec 2) (i : BitVec 16) (s : State) : Out :=
  result s d (i.signExtend 64 <<< (16 * h.toNat))

end Sys2Proof.Machine
end

