-- ==== Sys2Proof/Machine/Translate.lean ====
section
/-!
DEFINITION. Address spaces, page tables and permissions (06_memory.md R143 to R151).
-/

namespace Sys2Proof.Machine

/-- The kinds of access whose permissions differ (06_memory.md R151). -/
inductive Access where
  | fetch | load | vload | store | vstore | atomic
  deriving DecidableEq, Repr

/-- The memory type of a page (06_memory.md R148, R145). -/
inductive MemType where
  | normal | sync | control
  deriving DecidableEq, Repr

/-- Why an access fails (06_memory.md R149, R154). -/
inductive FaultKind where
  | page | access | misalign
  deriving DecidableEq, Repr

/-- A failed access: why, and the virtual address. -/
structure MemFault where
  kind : FaultKind
  addr : Word
  deriving DecidableEq, Repr

/-- A translated address: the location in `mem`, its memory type, the page-table entry whose A and D bits a performed
access sets (06_memory.md R150), and the translation that the core then caches (R152). -/
structure Hit where
  loc : Nat
  type : MemType
  leaf : Option Nat
  cached : Option Cached := none
  deriving DecidableEq, Repr

/-- Bits 63 to 55 equal bit 54 (06_memory.md R143). -/
def canonical (va : Word) : Bool := va.toNat < 2 ^ 54 || 2 ^ 64 - 2 ^ 54 ≤ va.toNat

/-- The first address of the scratchpad window (06_memory.md R146). -/
def windowBase : Nat := 2 ^ 64 - 2 ^ 21

/-- Bytes of the scratchpad that exist (06_memory.md R175). -/
def State.padSize (s : State) : Nat := 262144 * s.ctl.spl.toNat

/-- Two ring nodes are joined by links that work, going from node a upward to node b (18_platform.md R467, R468). -/
def ringWay (down : BitVec 9) (a b : Nat) : Nat → Bool
  | 0 => a == b
  | n + 1 => a == b || (!down.getLsbD a && ringWay down ((a + 1) % 9) b n)

/-- Ring node b is reachable from node a, one way or the other (18_platform.md R468). -/
def State.reachesFrom (s : State) (a b : Nat) : Bool := ringWay s.hub.ringDown a b 9 || ringWay s.hub.ringDown b a 9

/-- A ring node is reachable from the core's die (18_platform.md R468). -/
def State.reaches (s : State) (node : Nat) : Bool := s.reachesFrom Config.dieId node

/-- The die that owns a physical address; 8 is the hub (06_memory.md R145, 01_machine.md R19). -/
def ownerNode (pa : Nat) : Nat := if pa < 2 ^ 40 then pa / 2 ^ 37 else 8

/-- The physical address lies in memory (06_memory.md R145). -/
def isMemory (pa : Nat) : Bool := pa < 2 ^ 40 || (Config.hasLpddr && 2 ^ 41 ≤ pa && pa < 2 ^ 42)

/-- The physical address lies in the control block (06_memory.md R145). -/
def isControl (pa : Nat) : Bool := 0x3FFF00000000 ≤ pa && pa < 2 ^ 46

/-- The physical address is populated and can be reached (06_memory.md R145, 18_platform.md R468). -/
def State.populated (s : State) (pa : Nat) : Bool :=
  isControl pa || (isMemory pa && s.reaches (ownerNode pa))

/-- A failure at an address. -/
def failAt {α : Type} (k : FaultKind) (va : Word) : Except MemFault α := .error ⟨k, va⟩

/-- The permissions and types a leaf grants an access (06_memory.md R151). -/
def permits (e : Nat) (type : MemType) (k : Access) (lvl : Level) : Bool :=
  let r := bitOf e 1; let w := bitOf e 2; let x := bitOf e 3; let u := bitOf e 4
  let user := lvl != .program || u
  match k with
  | .fetch => x && (if lvl = .kernel then !u else u) && type == .normal
  | .load => r && user
  | .vload => r && user && type != .control
  | .store => w && user
  | .vstore => w && user && type == .normal
  | .atomic => r && w && user && type != .control

/-- The memory type of a populated physical address under a leaf's type field (06_memory.md R145). -/
def typeOf (pa field : Nat) : MemType :=
  if isControl pa then .control else if field = 1 then .sync else if field = 2 then .control else .normal

/-- A leaf the walk has found: where it stands, the leaf, and the width of the page offset (06_memory.md R147, R149). -/
structure Leaf where
  place : Nat
  entry : Nat
  bits : Nat
  deriving DecidableEq, Repr

/-- The physical address a leaf gives (06_memory.md R149). -/
def Leaf.pa (l : Leaf) (va : Word) : Nat := fld l.entry 16 30 * 2 ^ 16 + va.toNat % 2 ^ l.bits

/-- The memory type a leaf gives (06_memory.md R145, R148). -/
def Leaf.type (l : Leaf) (va : Word) : MemType := typeOf (l.pa va) (fld l.entry 9 2)

/-- A valid entry with a reserved bit set or an invalid type (06_memory.md R148, R149). -/
def badEntry (e : Nat) : Bool := fld e 11 5 != 0 || fld e 46 12 != 0 || fld e 9 2 == 3

/-- A pointer to a next level that has none, or with a bit set that a pointer has clear (06_memory.md R149). -/
def badPointer (lev e : Nat) : Bool := lev == 0 || fld e 1 4 != 0 || fld e 6 5 != 0

/-- The walk of the levels lev, lev - 1, …, 0 from the table at t to a leaf (06_memory.md R149), by a walker that reads the
bytes `rd`. `lev` counts the levels left. A table outside memory, in the control block too, raises the access violation
(DESIGN CHOICE, log 37). -/
def findLeaf (s : State) (rd : Nat → Byte) (va : Word) : Nat → Nat → Except MemFault Leaf
  | 0, _ => failAt .access va
  | lev + 1, t =>
    let o := 16 + 13 * lev
    let at_ := t + 8 * fld va.toNat o 13
    if !(isMemory at_ && s.populated at_) then failAt .access va
    else
      let e := leNat ((upto at_ 8).map rd)
      if !bitOf e 0 then failAt .page va
      else if badEntry e then failAt .access va
      else if !bitOf e 5 then
        if badPointer lev e then failAt .access va
        else findLeaf s rd va lev (fld e 16 30 * 2 ^ 16)
      else if fld e 16 30 * 2 ^ 16 % 2 ^ o ≠ 0 then failAt .access va
      else .ok ⟨at_, e, o⟩

/-- An access through a leaf: its permissions, and whether the address is populated (06_memory.md R149, R151). -/
def useLeaf (s : State) (va : Word) (k : Access) (lvl : Level) (l : Leaf) : Except MemFault Hit :=
  if !permits l.entry (l.type va) k lvl then failAt .access va
  else if !s.populated (l.pa va) then failAt .access va
  else .ok ⟨l.pa va, l.type va, some l.place, none⟩

/-- The walk from a root, and the access through the leaf it finds (06_memory.md R149). -/
def walk (s : State) (rd : Nat → Byte) (va : Word) (k : Access) (lvl : Level) (root : Nat) : Except MemFault Hit :=
  (findLeaf s rd va 3 root).bind (useLeaf s va k lvl)

/-- `Translate` of 06_memory.md R149 for an address space root, by a walker that reads the bytes `rd`; none when the core
holds no activation (R144). -/
def translateAt (s : State) (rd : Nat → Byte) (root : Option Nat) (lvl : Level) (k : Access) (va : Word) : Except MemFault Hit :=
  if !canonical va then failAt .page va
  else if windowBase ≤ va.toNat then
    let x := va.toNat - windowBase
    if x < s.padSize then .ok ⟨padBase + x, .normal, none, none⟩ else failAt .access va
  else if lvl = .firmware then
    if va.toNat ≥ 2 ^ 46 then failAt .access va
    else if isControl va.toNat then
      (match k with
      | .load => .ok ⟨va.toNat, .control, none, none⟩
      | .store => .ok ⟨va.toNat, .control, none, none⟩
      | _ => failAt .access va)
    else if s.populated va.toNat then .ok ⟨va.toNat, .normal, none, none⟩
    else failAt .access va
  else match root with
    | none => failAt .access va
    | some r => walk s rd va k lvl r

/-- An access writes, so that the walker sets D (06_memory.md R150). -/
def Access.writes : Access → Bool
  | .store => true
  | .vstore => true
  | .atomic => true
  | _ => false

/-! ### Cached translations -/

/-- The leaf a cached translation holds (06_memory.md R152). -/
def Cached.leaf (c : Cached) : Leaf := ⟨c.place, c.entry, c.bits⟩

/-- A cached translation maps an address in an address space; a G translation matches every ASID (06_memory.md R148). -/
def Cached.maps (c : Cached) (asid : BitVec 16) (va : Word) : Bool :=
  (c.asid == asid || bitOf c.entry 8) && c.page == va.toNat / 2 ^ c.bits

/-- An address that the page tables map at this level: not the window, nor a physical address (06_memory.md R144, R146,
R149). -/
def mapped (lvl : Level) (va : Word) : Bool := canonical va && va.toNat < windowBase && lvl != .firmware

/-- The address space of the activation that belongs to the core (06_memory.md R144). -/
def State.asid (s : State) : BitVec 16 :=
  match s.sched.act with
  | none => 0
  | some x => x.asid

/-- The root of the address space of the activation that belongs to the core (06_memory.md R144). -/
def State.root (s : State) : Option Nat := s.sched.act.map (·.root)

/-- The cached translation of an address, when the core uses one (06_memory.md R152). -/
def State.cachedAt (s : State) (va : Word) : Option Cached :=
  if mapped s.level va && s.root.isSome then s.tlb.find? (fun c => c.maps s.asid va) else none

/-- The leaf has the bits that a use needs: A, and D for a write (06_memory.md R150). -/
def Leaf.marked (l : Leaf) (write : Bool) : Bool := bitOf l.entry 6 && (!write || bitOf l.entry 7)

/-- What the core caches of a translation, once the access is performed (06_memory.md R152). -/
def cachedFor (s : State) (va : Word) (l : Leaf) : Cached := ⟨s.asid, va.toNat / 2 ^ l.bits, l.bits, l.place, l.entry⟩

/-- The leaf by which the core translates an address that the page tables map: a cached one, or the one a walk finds
(06_memory.md R149, R152). -/
def State.leafOf (s : State) (va : Word) : Except MemFault Leaf :=
  match s.cachedAt va with
  | some c => .ok c.leaf
  | none => match s.root with
    | none => failAt .access va
    | some r => findLeaf s s.wideByte va 3 r

/-- A use through a fresh walk of the tables, which the core then caches (06_memory.md R149, R150, R152). -/
def translateWalk (s : State) (k : Access) (va : Word) (root : Nat) : Except MemFault Hit :=
  (findLeaf s s.wideByte va 3 root).bind (fun l =>
    (useLeaf s va k s.level l).map (fun h => { h with cached := some (cachedFor s va l) }))

/-- Translation for an access of the core at its current level (06_memory.md R144, R149). A cached translation whose leaf
has the needed bits is used without a walk; one whose leaf lacks them goes through a walk (R150, R152). -/
def translate (s : State) (k : Access) (va : Word) : Except MemFault Hit :=
  if mapped s.level va then
    match s.root with
    | none => failAt .access va
    | some r => match s.cachedAt va with
      | none => translateWalk s k va r
      | some c => match useLeaf s va k s.level c.leaf with
        | .error f => .error f
        | .ok h => if c.leaf.marked k.writes then .ok { h with leaf := none } else translateWalk s k va r
  else translateAt s s.wideByte s.root s.level k va

/-- The memory type of the page of an address, whatever the leaf permits (06_memory.md R148, R154). -/
def pageType (s : State) (va : Word) : MemType :=
  if mapped s.level va then
    match s.leafOf va with
    | .ok l => l.type va
    | .error _ => .normal
  else if s.level = .firmware ∧ isControl va.toNat then .control else .normal

/-- Two cached translations are of one page in one address space. -/
def Cached.same (c d : Cached) : Bool := c.asid == d.asid && c.page == d.page && c.bits == d.bits

/-- The core caches a translation (06_memory.md R152). -/
def cacheLeaf (s : State) (c : Cached) : State := { s with tlb := c :: s.tlb.filter (fun d => !d.same c) }

/-- Every cached translation of a leaf is removed, as its `tlbinv` would (06_memory.md R152, 16_kv.md R434). -/
def dropLeaf (s : State) (place : Nat) : State := { s with tlb := s.tlb.filter (fun c => c.place != place) }

/-- A `tlbinv` with operands a and b removes a cached translation (17_system.md R451). -/
def Cached.removedBy (c : Cached) (a b : Word) : Bool :=
  match b.toNat % 4 with
  | 0 => c.maps (BitVec.ofNat 16 (fld b.toNat 16 16)) a
  | 1 => c.asid == BitVec.ofNat 16 (fld b.toNat 16 16) && !bitOf c.entry 8
  | _ => true

/-- The walker sets A, and D for a write, in the leaf a performed access used (06_memory.md R150). -/
def setUsed (s : State) (place : Nat) (write : Bool) : State :=
  let bits := if write then 0xC0#8 else 0x40#8
  if s.byte place ||| bits = s.byte place ∧ s.pubByte place ||| bits = s.pubByte place then s else orByte s place bits

/-- The reference and dirty bits of a performed access, and the translation it leaves cached (06_memory.md R150, R152). -/
def markLeaf (s : State) (h : Hit) (write : Bool) : State :=
  match h.leaf with
  | none => s
  | some p =>
    let t := setUsed s p write
    match h.cached with
    | none => t
    | some c => cacheLeaf t { c with entry := c.entry ||| (if write then 0xC0 else 0x40) }

/-- Mark the leaves of several performed accesses. -/
def markAll (s : State) (k : Access) (hs : List Hit) : State := hs.foldl (fun s h => markLeaf s h k.writes) s

/-- The pieces of n bytes at va that lie in one 64 KiB page each (06_memory.md R154): address and length. -/
def pieces (va : Word) (n : Nat) : List (Word × Nat) :=
  let room := 65536 - va.toNat % 65536
  if n ≤ room then [(va, n)] else [(va, room), (va + w64 room, n - room)]

/-- Translate every page that n bytes at va touch, n at most 64 KiB, the lowest failing address first. -/
def translateBytes (tr : Access → Word → Except MemFault Hit) (k : Access) (va : Word) (n : Nat) :
    Except MemFault (List (Hit × Nat)) :=
  (pieces va n).mapM (fun p => (tr k p.1).map (fun h => (h, p.2)))

/-- The locations of the bytes of translated pieces, in address order. -/
def hitLocs (hs : List (Hit × Nat)) : List Nat := hs.flatMap (fun h => upto h.1.loc h.2)

/-- The trap of a failed scalar access (06_memory.md R155, 17_system.md R438). -/
def memTrap (pageCode : Nat) (f : MemFault) : Stop :=
  match f.kind with
  | .page => .trap { code := pageCode, eaddr := f.addr }
  | .access => .trap { code := 5, eaddr := f.addr }
  | .misalign => .trap { code := 6, eaddr := f.addr }

/-- A failed access as a trap of the instruction: code 3 for a load, 4 for a store or an atomic. -/
def orTrap {α : Type} (pageCode : Nat) : Except MemFault α → Run α
  | .ok a => .ok a
  | .error f => .error (memTrap pageCode f)

/-- The sub code of an integrity error by the place of the poisoned line (18_platform.md R475). -/
def poisonAt (s : State) (loc : Nat) : Option Nat := (s.memory.poison.find? (fun c => c.1 == loc / 64)).map (·.2)

/-- The first poisoned byte among locations whose bytes stand at va, va + 1, … (18_platform.md R475). -/
def firstPoison (s : State) (va : Word) : List Nat → Option (Word × Nat)
  | [] => none
  | l :: t => match poisonAt s l with
    | some sub => some (va, sub)
    | none => firstPoison s (va + 1) t

/-- Reading a poisoned byte raises the integrity error, precisely (18_platform.md R475). -/
def checkPoison (s : State) (va : Word) (ls : List Nat) : Run Unit :=
  match firstPoison s va ls with
  | none => .ok ()
  | some (a, sub) => .error (.trap { code := 11, sub := sub, eaddr := a })

/-- Every byte of a line is among the locations written. -/
def coversLine (ls : List Nat) (line : Nat) : Bool := (upto (64 * line) 64).all (fun a => ls.contains a)

/-- A full 64-byte line written by one store clears its poison (18_platform.md R475). -/
def clearPoison (s : State) (ls : List Nat) : State :=
  { s with memory.poison := s.memory.poison.filter (fun c => !coversLine ls c.1) }

end Sys2Proof.Machine
end

