-- ==== Sys2Proof/Machine/Branch.lean ====
section
/-!
DEFINITION. Branches, jumps and hardware loops (04_control.md R87 to R102).
-/

namespace Sys2Proof.Machine


/-- The target of an OFF13 field (02_encoding.md R42). -/
def target13 (pc : Word) (o : BitVec 13) : Word := pc + 4 * o.signExtend 64

/-- The target of an OFF21 field (02_encoding.md R42). -/
def target21 (pc : Word) (o : BitVec 21) : Word := pc + 4 * o.signExtend 64

/-- The checks before a branch to a target commits, in the order of 17_system.md R439: the fetch page fault of the target
(R90), the place of a redirecting instruction (R98), the alignment of the target (R90). -/
def checkTarget (s : State) (t : Word) : Run Unit :=
  if !canonical t then .error (.trap { code := 2, eaddr := t })
  else if s.atLoopEnd then illegal
  else if t.toNat % 4 ≠ 0 then misaligned t
  else .ok ()

/-- A taken branch is an iteration boundary when its target is not above its own address (R105). -/
def backward (s : State) (t : Word) : Bool := t.toNat ≤ s.pc.toNat

/-- The target of a branch sits where R98 allows it: a redirecting instruction is illegal at the top entry's E. -/
def mayRedirect (s : State) : Run Unit := legalIf (!s.atLoopEnd)

/-- A conditional branch (R87, R90). -/
def branch (c : Bool) (o : BitVec 13) (s : State) : Out :=
  finish s (do
    if c then do
      checkTarget s (target13 s.pc o)
      pure (goto s (target13 s.pc o) (backward s (target13 s.pc o)))
    else do
      mayRedirect s
      pure (retire s))

/-- `beq` (R87). -/
def execBeq (a b : BitVec 5) (o : BitVec 13) (s : State) : Out := branch (s.rd a == s.rd b) o s
/-- `bne` (R87). -/
def execBne (a b : BitVec 5) (o : BitVec 13) (s : State) : Out := branch (s.rd a != s.rd b) o s
/-- `blt` (R87). -/
def execBlt (a b : BitVec 5) (o : BitVec 13) (s : State) : Out := branch ((s.rd a).slt (s.rd b)) o s
/-- `bge` (R87). -/
def execBge (a b : BitVec 5) (o : BitVec 13) (s : State) : Out := branch (!(s.rd a).slt (s.rd b)) o s
/-- `bltu` (R87). -/
def execBltu (a b : BitVec 5) (o : BitVec 13) (s : State) : Out := branch ((s.rd a).ult (s.rd b)) o s
/-- `bgeu` (R87). -/
def execBgeu (a b : BitVec 5) (o : BitVec 13) (s : State) : Out := branch (!(s.rd a).ult (s.rd b)) o s

/-- A jump with a link (R88, R89, R90). -/
def jump (d : BitVec 5) (t : Word) (s : State) : Out :=
  finish s (do
    checkTarget s t
    pure (goto (s.wr d (s.pc + 4)) t (backward s t)))

/-- `jal` (R88). -/
def execJal (d : BitVec 5) (o : BitVec 21) (s : State) : Out := jump d (target21 s.pc o) s
/-- `jalr` (R89): sA is read before sD is written. -/
def execJalr (d a : BitVec 5) (i : BitVec 13) (s : State) : Out := jump d (s.rd a + imm13 i) s

/-! ### Hardware loops -/

/-- The E of a loop instruction (R95). -/
def loopLast (s : State) (i : BitVec 17) : Word := s.pc + 4 * i.setWidth 64

/-- A loop instruction may push an entry here (R95, R98). -/
def mayPush (s : State) : Run Unit := legalIf (s.loops.length < 6 && !s.inStrip && !s.inFrame && !s.atLoopEnd)

/-- `loop` and `loopr` (R96). -/
def countedLoop (n : Word) (i : BitVec 17) (s : State) : Out :=
  finish s (do
    mayPush s
    if n = 0 then pure (goto s (loopLast s i + 4) false)
    else pure (goto { s with loops := ⟨.counted, s.pc + 4, loopLast s i, n, 0, false⟩ :: s.loops } (s.pc + 4) false))

/-- `loop` (R95, R96): the field holds the count less one. -/
def execLoop (x : BitVec 6) (i : BitVec 17) (s : State) : Out := countedLoop (x.setWidth 64 + 1) i s
/-- `loopr` (R95, R96). -/
def execLoopr (x : BitVec 5) (i : BitVec 17) (s : State) : Out := countedLoop (s.rd x) i s

/-- `loopv` (R95, R102). -/
def execLoopv (v : BitVec 6) (i : BitVec 17) (s : State) : Out :=
  finish s (do
    mayPush s
    legalIf (v.toNat < s.nr && s.loops.all (fun e => e.kind != .vector))
    let u := loopEval s v.toNat 0
    if anyM7 u then
      pure (goto { u with loops := ⟨.vector, s.pc + 4, loopLast s i, v.setWidth 64, 0, false⟩ :: s.loops } (s.pc + 4) false)
    else pure (goto u (loopLast s i + 4) false))

/-- `lbrk` (R100). -/
def execLbrk (s : State) : Out :=
  finish s (do
    mayRedirect s
    match s.loops with
    | [] => illegal
    | e :: rest =>
      if e.kind = .sweep then illegal else pure (goto { s with loops := rest } (e.last + 4) false))

/-- `lidx` (R101). -/
def execLidx (d : BitVec 5) (i : BitVec 17) (s : State) : Out :=
  finish s (do
    mayRedirect s
    match s.loops[i.toNat]? with
    | none => illegal
    | some e => pure (retire (s.wr d e.index)))

end Sys2Proof.Machine
end

