-- ==== Sys2Proof/Machine/Hash.lean ====
section
/-!
DEFINITION. SHAKE256 and SHAKE128 (18_platform.md R477, which cites FIPS 202) and CRC-32C (18_platform.md R464).
-/

namespace Sys2Proof.Machine

/-! The state of Keccak is five planes of five 64-bit lanes: plane y holds the lanes (0, y) to (4, y). -/

/-- Turn a row so that the entry k places to the right comes first. -/
def turnRow (k : Nat) (r : List Word) : List Word := r.drop k ++ r.take k

/-- XOR two rows. -/
def xorRow (r q : List Word) : List Word := List.zipWith (· ^^^ ·) r q

/-- The step theta: every lane takes the parities of two neighbouring columns. -/
def theta (ps : List (List Word)) : List (List Word) :=
  let parity := ps.foldl xorRow [0, 0, 0, 0, 0]
  let mix := xorRow (turnRow 4 parity) ((turnRow 1 parity).map (fun l => l.rotateLeft 1))
  ps.map (xorRow mix)

/-- The rotations of the step rho, as its walk from lane (x, y) meets them from the t-th place on: lane and distance. -/
def rhoWalk : Nat → Nat → Nat → Nat → List ((Nat × Nat) × Nat)
  | 0, _, _, _ => []
  | n + 1, t, x, y => ((x, y), (t + 1) * (t + 2) / 2 % 64) :: rhoWalk n (t + 1) y ((2 * x + 3 * y) % 5)

/-- The steps rho and pi: lane (x, y) of the result is the rotated lane (x + 3 y, x). -/
def rhoPi (ps : List (List Word)) : List (List Word) :=
  let turns := rhoWalk 24 0 1 0
  (upto 0 5).map (fun y => (upto 0 5).map (fun x =>
    let from_ := (x + 3 * y) % 5
    ((ps.getD x []).getD from_ 0).rotateLeft ((turns.lookup (from_, x)).getD 0)))

/-- The step chi, plane by plane. -/
def chi (ps : List (List Word)) : List (List Word) :=
  ps.map (fun r => xorRow r (List.zipWith (fun l q => ~~~l &&& q) (turnRow 1 r) (turnRow 2 r)))

/-- One step of the shift register that makes the round constants; its polynomial is x^8 + x^6 + x^5 + x^4 + 1. -/
def lfsrNext (r : Nat) : Nat := if r < 128 then 2 * r else (2 * r) ^^^ 0x171

/-- The next round constant, and the shift register after it: its bits stand at 2^j - 1 for j from 0 to 6. -/
def roundConstant (r : Nat) : Nat × Nat :=
  (upto 0 7).foldl (fun p j => (p.1 + p.2 % 2 * 2 ^ (2 ^ j - 1), lfsrNext p.2)) (0, r)

/-- The step iota: lane (0, 0) takes the round constant. -/
def iota (c : Word) : List (List Word) → List (List Word)
  | (l :: r) :: ps => ((l ^^^ c) :: r) :: ps
  | ps => ps

/-- n rounds, with the shift register at r. -/
def keccakRounds : Nat → Nat → List (List Word) → List (List Word)
  | 0, _, ps => ps
  | n + 1, r, ps =>
    let c := roundConstant r
    keccakRounds n c.2 (iota (w64 c.1) (chi (rhoPi (theta ps))))

/-- The 64-bit words of a block of bytes, in planes of five. -/
def blockPlanes (bs : List Byte) : List (List Word) :=
  (upto 0 5).map (fun y => (upto 0 5).map (fun x => w64 (leNat ((bs.drop (40 * y + 8 * x)).take 8))))

/-- Take up n blocks of `rate` bytes. -/
def absorb (rate : Nat) : Nat → List (List Word) → List Byte → List (List Word)
  | 0, ps, _ => ps
  | n + 1, ps, bs =>
    absorb rate n (keccakRounds 24 1 (List.zipWith xorRow ps (blockPlanes (bs.take rate)))) (bs.drop rate)

/-- The message with its padding, a whole number of blocks. -/
def shakePad (rate : Nat) (bs : List Byte) : List Byte :=
  let room := rate - bs.length % rate
  if room = 1 then bs ++ [0x9F] else bs ++ 0x1F :: (List.replicate (room - 2) 0 ++ [0x80])

/-- Give n + 1 blocks of `rate` bytes. -/
def squeeze (rate : Nat) : Nat → List (List Word) → List Byte
  | 0, ps => (ps.flatMap (fun r => r.flatMap (fun l => leBytes l.toNat 8))).take rate
  | n + 1, ps => squeeze rate 0 ps ++ squeeze rate n (keccakRounds 24 1 ps)

/-- The first n bytes of the SHAKE of a message whose blocks have `rate` bytes. -/
def shake (rate : Nat) (bs : List Byte) (n : Nat) : List Byte :=
  let p := shakePad rate bs
  (squeeze rate ((n - 1) / rate) (absorb rate (p.length / rate) (blockPlanes []) p)).take n

/-- The first n bytes of SHAKE256 of a message. -/
def shake256 (bs : List Byte) (n : Nat) : List Byte := shake 136 bs n

/-- One bit of CRC-32C. -/
def crcBit (c : BitVec 32) : BitVec 32 := if c.getLsbD 0 then (c >>> 1) ^^^ 0x82F63B78 else c >>> 1

/-- One byte of CRC-32C. -/
def crcByte (c : BitVec 32) (b : Byte) : BitVec 32 :=
  crcBit (crcBit (crcBit (crcBit (crcBit (crcBit (crcBit (crcBit (c ^^^ b.setWidth 32))))))))

/-- CRC-32C of a list of bytes. -/
def crc32c (bs : List Byte) : BitVec 32 := ~~~(bs.foldl crcByte (BitVec.allOnes 32))

end Sys2Proof.Machine
end

