-- ==== Sys2Proof/Machine/Control.lean ====
section
/-!
DEFINITION. The registers of the control block: the cores' pages and the queue descriptors (17_system.md R452,
13_work.md R350) and the hub's platform registers (18_platform.md R459 to R479).
-/

namespace Sys2Proof.Machine

/-- Who accesses a control register: its requester id (18_platform.md R463), and whether writes to registers marked
Firmware take effect (17_system.md R452). -/
structure Who where
  id : Nat
  trusted : Bool
  deriving DecidableEq, Repr

/-- The core as requester (18_platform.md R463). -/
def State.self (s : State) : Who := ⟨1 + Config.coreId, s.level == .firmware⟩

/-- A host connection opened on port p as requester (18_platform.md R463). -/
def hostWho (p : Nat) : Who := ⟨0xFFF0 + p, true⟩

/-- The state of the core as `cstate` shows it (17_system.md R452). -/
def coreState (s : State) : Nat :=
  let st := match s.mode with
    | .halted => 3
    | .idle => 0
    | .running => if s.wait.isSome then 2 else 1
  let prio := match s.sched.act with
    | some a => fld a.record.tag.toNat 0 3
    | none => 0
  st + prio * 2 ^ 8

/-- A written field keeps its old value when the new one is not listed (03_scalar.md R78). -/
def listed (ok : Nat → Bool) (old new : Nat) : Nat := if ok new then new else old

/-- `acfg` after a write (17_system.md R452). -/
def acfgWrite (old : BitVec 32) (v : Nat) : BitVec 32 :=
  let n := listed (fun x => x ≤ 12) (fld old.toNat 0 4) (fld v 0 4)
  let cap := listed (fun x => 4 ≤ x && x ≤ 12) (fld old.toNat 4 4) (fld v 4 4)
  BitVec.ofNat 32 (n + cap * 2 ^ 4 + fld v 16 16 * 2 ^ 16)

/-- Raise a pre-emption request on the core; a request already pending stays (13_work.md R362, 04_control.md R106, 17_system.md
R452). -/
def raisePreempt (s : State) : State := { s with ctl.preReq := some (s.ctl.preReq.getD s.ctl.cycle) }

/-- A write of the wake register ends a waiting `wfi` (17_system.md R449). -/
def wakeCore (s : State) : State :=
  match s.wait with
  | some (.wfi _) => { s with ctl.wake := true }
  | _ => s

/-- A write of the restart register ends `halt` (17_system.md R447). -/
def restartCore (s : State) : State := if s.mode = .halted then { s with mode := .running } else s

/-- Register o (offset / 8) of the core's own page (17_system.md R452). -/
def corePageRead (s : State) (o : Nat) : Option Nat :=
  match o with
  | 0 => some 0
  | 1 => some 0
  | 2 => some s.ctl.tcmp.toNat
  | 3 => some s.ctl.acbase.toNat
  | 4 => some s.ctl.acfg.toNat
  | 5 => some s.ctl.fvec.toNat
  | 6 => some s.ctl.fepc.toNat
  | 7 => some s.ctl.fcause.toNat
  | 8 => some s.ctl.faddr.toNat
  | 9 => some s.ctl.fstat.toNat
  | 10 => some (coreState s)
  | 11 => some 0
  | _ => none

/-- A write of register o of the core's own page (17_system.md R452). -/
def corePageWrite (s : State) (who : Who) (o v : Nat) : Option State :=
  let fw (t : State) : Option State := some (if who.trusted then t else s)
  match o with
  | 0 => some (raisePreempt s)
  | 1 => some (wakeCore s)
  | 2 => some { s with ctl.tcmp := w64 v }
  | 3 => some { s with ctl.acbase := w64 (fld v 12 34 * 2 ^ 12) }
  | 4 => some { s with ctl.acfg := acfgWrite s.ctl.acfg v }
  | 5 => fw { s with ctl.fvec := w64 v }
  | 6 => fw { s with ctl.fepc := w64 v }
  | 7 => fw { s with ctl.fcause := w64 (v % 2 ^ 20) }
  | 8 => fw { s with ctl.faddr := w64 v }
  | 9 =>
    let lv := listed (fun x => x ≤ 2) (fld s.ctl.fstat.toNat 0 2) (fld v 0 2)
    fw { s with ctl.fstat := BitVec.ofNat 3 (lv + fld v 2 1 * 4) }
  | 10 => some s
  | 11 => some (restartCore s)
  | _ => none

/-- Register o of another core's page. Its tcmp is stored XOR all ones, the reset value (17_system.md R452). -/
def otherPageRead (s : State) (c o : Nat) : Option Nat :=
  match o with
  | 0 => some 0
  | 1 => some 0
  | 2 => some (~~~(mapGet s.hub.otherCores (16 * c + 2))).toNat
  | 10 => some (if s.hub.otherStarted.contains c then 0 else 3)
  | 11 => some 0
  | n => if n < 10 then some (mapGet s.hub.otherCores (16 * c + n)).toNat else none

/-- A write of register o of another core's page. What the other core then does is outside the model (log 5). -/
def otherPageWrite (s : State) (who : Who) (c o v : Nat) : Option State :=
  let put (n x : Nat) : State := { s with hub.otherCores := mapSet s.hub.otherCores (16 * c + n) (w64 x) }
  let fw (t : State) : Option State := some (if who.trusted then t else s)
  match o with
  | 0 => some s
  | 1 => some s
  | 2 => some { s with hub.otherCores := mapSet s.hub.otherCores (16 * c + 2) (~~~(w64 v)) }
  | 3 => some (put 3 (fld v 12 34 * 2 ^ 12))
  | 4 => some (put 4 (acfgWrite (BitVec.ofNat 32 (mapGet s.hub.otherCores (16 * c + 4)).toNat) v).toNat)
  | 5 => fw (put 5 v)
  | 6 => fw (put 6 v)
  | 7 => fw (put 7 (v % 2 ^ 20))
  | 8 => fw (put 8 v)
  | 9 => fw (put 9 (listed (fun x => x ≤ 2) (fld (mapGet s.hub.otherCores (16 * c + 9)).toNat 0 2) (fld v 0 2) +
      fld v 2 1 * 4))
  | 10 => some s
  | 11 => some (if s.hub.otherStarted.contains c then s else { s with hub.otherStarted := c :: s.hub.otherStarted })
  | _ => none

/-- Word w of the descriptor of queue 64 × die + q (13_work.md R350). -/
def State.queueWord (s : State) (dq w : Nat) : Nat := (mapGet s.sched.qdesc (4 * dq + w)).toNat

/-- A write of word w of a queue descriptor: reserved bits ignore it, an unlisted cap keeps its value (R350, R78). -/
def queueWordWrite (s : State) (dq w v : Nat) : State :=
  let old := s.queueWord dq w
  let new := match w with
    | 0 => fld v 6 40 * 2 ^ 6
    | 1 => fld v 0 46
    | 2 => listed (fun x => 6 ≤ x && x ≤ 20) (fld old 0 5) (fld v 0 5) + fld v 5 4 * 2 ^ 5
    | _ => 0
  { s with sched.qdesc := mapSet s.sched.qdesc (4 * dq + w) (w64 new) }

/-- A load of a semaphore: it acquires a free one (18_platform.md R463). -/
def semaLoad (s : State) (n id : Nat) : Nat × State :=
  let v := (mapGet s.hub.semas n).toNat
  if fld v 0 16 = 0 then
    (v, { s with hub.semas := mapSet s.hub.semas n (w64 (id % 2 ^ 16 + (fld v 16 48 + 1) % 2 ^ 48 * 2 ^ 16)) })
  else (v, s)

/-- Free a semaphore (18_platform.md R463). -/
def semaFree (s : State) (n : Nat) : State :=
  { s with hub.semas := mapSet s.hub.semas n (w64 (fld (mapGet s.hub.semas n).toNat 16 48 * 2 ^ 16)) }

/-- A release by the requester `id`: ignored unless it owns the semaphore (18_platform.md R463). -/
def semaRelease (s : State) (n id : Nat) : State :=
  if fld (mapGet s.hub.semas n).toNat 0 16 = id then semaFree s n else s

/-- An 8-byte store frees a semaphore that is held (18_platform.md R463). -/
def semaFrees (s : State) (who : Who) (n v : Nat) : Bool :=
  let owner := fld (mapGet s.hub.semas n).toNat 0 16
  owner != 0 && ((bitOf v 63 && who.trusted) || (fld v 0 16 == 0 && owner == who.id))

/-- An 8-byte store to a semaphore (18_platform.md R463); none is the access violation. -/
def semaStore (s : State) (who : Who) (n v : Nat) : Option State :=
  if bitOf v 63 && who.trusted then some (semaFree s n)
  else if fld v 0 16 = 0 then some (semaRelease s n who.id)
  else none

/-- A power or thermal register by offset / 8 (18_platform.md R469). The offsets from 0x28 to 0x3F hold none and raise the access
violation (R459: DESIGN CHOICE, log 24). -/
def powerRead (s : State) (o : Nat) : Option Nat :=
  match o with
  | 0 => some s.hub.plim.toNat
  | 1 => some s.hub.pnow.toNat
  | 2 => some s.hub.gcap.toNat
  | 3 => some s.hub.temp.toNat
  | 4 => some s.hub.epoch.toNat
  | _ => none

/-- A write of a power or thermal register (18_platform.md R469). -/
def powerWrite (s : State) (who : Who) (o v : Nat) : Option State :=
  match o with
  | 0 =>
    let w := listed (fun x => 900 ≤ x && x ≤ 2200) s.hub.plim.toNat (fld v 0 12)
    some (if who.trusted then { s with hub.plim := BitVec.ofNat 12 w } else s)
  | 1 => some s
  | 2 =>
    let g := listed (fun x => 1 ≤ x && x ≤ 256) s.hub.gcap.toNat (fld v 0 9)
    some (if who.trusted then { s with hub.gcap := BitVec.ofNat 9 g } else s)
  | 3 => some s
  | 4 => some s
  | _ => none

/-- An 8-byte word of the event log by offset / 8 (18_platform.md R476). -/
def logRead (s : State) (o : Nat) : Nat :=
  if o < 64 then (mapGet s.hub.logCount o).toNat
  else if o < 1084 then (mapGet s.hub.logEntry (o - 64)).toNat
  else if o = 2047 then s.hub.logHead.toNat
  else 0

/-- What an 8-byte word of a port's registers holds at reset (18_platform.md R462). -/
def portReset (p o : Nat) : Word :=
  if o = 2 then 0x6A2C else if o = 3 then w64 (Config.flashMac p).toNat else 0

/-- The port register at offset 8 × o is listed, with the bits a write places (18_platform.md R462). -/
def portMask (o : Nat) : Option Nat :=
  if o = 0 then some 0
  else if o = 1 then some 3
  else if o = 2 then some 0xFFFF
  else if o = 3 then some (2 ^ 48 - 1)
  else if o = 4 ∨ o = 5 then some (2 ^ 64 - 1)
  else if o = 6 then some (2 ^ 32 - 1)
  else if o = 7 then some 0
  else if 8 ≤ o ∧ o < 24 ∧ o % 4 = 0 then some (2 ^ 46 - 2 ^ 16)
  else if 8 ≤ o ∧ o < 24 ∧ o % 4 = 1 then some (2 ^ 46 - 2 ^ 16)
  else if 8 ≤ o ∧ o < 24 ∧ o % 4 = 2 then some 3
  else if 256 ≤ o ∧ o < 512 ∧ o % 4 = 0 then some (2 ^ 64 - 1)
  else if 256 ≤ o ∧ o < 512 ∧ o % 4 = 1 then some (2 ^ 64 - 1)
  else if 256 ≤ o ∧ o < 512 ∧ o % 4 = 2 then some (2 ^ 48 - 1)
  else if 256 ≤ o ∧ o < 512 ∧ o % 4 = 3 then some 3
  else none

/-- The value of a port register (18_platform.md R462). -/
def State.port (s : State) (p o : Nat) : Word := mapGet s.hub.ports (512 * p + o) ^^^ portReset p o

/-- What a load of a port register returns: `pstat` counts the connections the port carries (18_platform.md R462). -/
def portRead (s : State) (p o : Nat) : Nat :=
  if o = 0 then
    (s.port p 0).toNat % 4 + 2 ^ 8 * min 255 (s.hub.conns.filter (fun c => c.port.toNat == p && !c.failed)).length
  else (s.port p o).toNat

/-- Set a port register. -/
def setPort (s : State) (p o : Nat) (v : Word) : State :=
  { s with hub.ports := mapSet s.hub.ports (512 * p + o) (v ^^^ portReset p o) }

/-- A write of a peer-table word (18_platform.md R465): reserved bits ignore it, an unlisted port number keeps its value. -/
def peerWrite (s : State) (k v : Nat) : State :=
  let old := (mapGet s.hub.peers k).toNat
  let new := if k % 2 = 0 then listed (fun x => x ≤ 1) (fld old 0 2) (fld v 0 2) + fld v 2 2 * 4 + fld v 32 32 * 2 ^ 32
    else fld v 0 6
  { s with hub.peers := mapSet s.hub.peers k (w64 new) }

/-- A mailbox word (18_platform.md R479), box × 1,024 + offset / 8. -/
def State.box (s : State) (b o : Nat) : Word := mapGet s.hub.boxes (1024 * b + o)

/-- Set a mailbox word. -/
def setBox (s : State) (b o : Nat) (v : Word) : State := { s with hub.boxes := mapSet s.hub.boxes (1024 * b + o) v }

/-- A report is requested: busy, and nothing else shown (18_platform.md R479). -/
def requestReport (s : State) (b : Nat) : State := setBox (setBox s b 0 1) b 1 1

/-- Extend the measurement with 64 bytes (18_platform.md R477). -/
def extendMeasure (s : State) (data : List Byte) : State :=
  { s with hub.measure := shake256 (s.hub.measure ++ data) 64 }

/-- The firmware's store of word o of the 64 bytes that extend the measurement. R477 does not say where in mailbox 2 they
stand: the model takes the words 16 to 23 (offsets 0x080 to 0x0BF), and the store of the last extends (DESIGN CHOICE, log
30). -/
def extendWord (s : State) (o v : Nat) : State :=
  let t := setBox s 2 o (w64 v)
  if o = 23 then extendMeasure t ((upto 16 8).flatMap (fun k => leBytes (t.box 2 k).toNat 8)) else t

/-- A write of a mailbox word: the command, the nonce (18_platform.md R479), or the firmware's extension of the measurement
(R477). A command while busy is ignored. -/
def boxWrite (s : State) (who : Who) (b o v : Nat) : State :=
  let busy := (s.box b 1).getLsbD 0
  let cmd := v % 256
  if o = 0 then
    if busy ∨ cmd = 0 then s
    else if cmd = 1 then requestReport s b
    else setBox (setBox s b 0 (w64 cmd)) b 1 0x12
  else if 8 ≤ o ∧ o < 12 then setBox s b o (w64 v)
  else if b = 2 ∧ 16 ≤ o ∧ o < 24 ∧ who.id = 1 + Config.coreId ∧ who.trusted then extendWord s o v
  else s

/-- Read the aligned 8-byte control word at a physical address, none for the access violation (17_system.md R452,
18_platform.md R459). A semaphore load has its effect. -/
def controlRead8 (s : State) (who : Who) (pa : Nat) : Option (Nat × State) :=
  let pure' (v : Option Nat) : Option (Nat × State) := v.map (fun x => (x, s))
  if pa < 0x3FFF00000000 then none
  else if pa < 0x3FFF00000000 + 1152 * 4096 then
    let c := (pa - 0x3FFF00000000) / 4096
    let o := pa % 4096 / 8
    if c = Config.coreId then pure' (corePageRead s o) else pure' (otherPageRead s c o)
  else if 0x3FFF01000000 ≤ pa ∧ pa < 0x3FFF01008000 then
    let o := pa % 4096 / 8
    if o < 256 then pure' (some (s.queueWord ((pa - 0x3FFF01000000) / 4096 * 64 + o / 4) (o % 4))) else none
  else if 0x3FFF80000000 ≤ pa ∧ pa < 0x3FFF80000800 then some (semaLoad s ((pa - 0x3FFF80000000) / 8) who.id)
  else if 0x3FFF80001000 ≤ pa ∧ pa < 0x3FFF80001040 then pure' (powerRead s ((pa - 0x3FFF80001000) / 8))
  else if 0x3FFF80002000 ≤ pa ∧ pa < 0x3FFF80002080 then
    pure' (some (mapGet s.hub.groups ((pa - 0x3FFF80002000) / 8)).toNat)
  else if 0x3FFF80003000 ≤ pa ∧ pa < 0x3FFF80007000 then pure' (some (logRead s ((pa - 0x3FFF80003000) / 8)))
  else if 0x3FFF80007000 ≤ pa ∧ pa < 0x3FFF80007020 then
    let o := (pa - 0x3FFF80007000) / 8
    pure' (some (if o % 2 = 0 then 0 else (mapGet s.hub.doorbell (o / 2)).toNat))
  else if 0x3FFF80008000 ≤ pa ∧ pa < 0x3FFF8000A000 then
    let p := (pa - 0x3FFF80008000) / 4096
    let o := pa % 4096 / 8
    (portMask o).bind (fun _ => pure' (some (portRead s p o)))
  else if 0x3FFF80010000 ≤ pa ∧ pa < 0x3FFF80020000 then
    pure' (some (mapGet s.hub.peers ((pa - 0x3FFF80010000) / 8)).toNat)
  else if 0x3FFF80020000 ≤ pa ∧ pa < 0x3FFF80026000 then
    pure' (some (s.box ((pa - 0x3FFF80020000) / 8192) (pa % 8192 / 8)).toNat)
  else none

/-- Write the aligned 8-byte control word at a physical address, none for the access violation. A doorbell store by a
core is ignored (18_platform.md R481). -/
def controlWrite8 (s : State) (who : Who) (pa v : Nat) : Option State :=
  if pa < 0x3FFF00000000 then none
  else if pa < 0x3FFF00000000 + 1152 * 4096 then
    let c := (pa - 0x3FFF00000000) / 4096
    let o := pa % 4096 / 8
    if c = Config.coreId then corePageWrite s who o v else otherPageWrite s who c o v
  else if 0x3FFF01000000 ≤ pa ∧ pa < 0x3FFF01008000 then
    let o := pa % 4096 / 8
    if o < 256 then some (queueWordWrite s ((pa - 0x3FFF01000000) / 4096 * 64 + o / 4) (o % 4) v) else none
  else if 0x3FFF80000000 ≤ pa ∧ pa < 0x3FFF80000800 then semaStore s who ((pa - 0x3FFF80000000) / 8) v
  else if 0x3FFF80001000 ≤ pa ∧ pa < 0x3FFF80001040 then powerWrite s who ((pa - 0x3FFF80001000) / 8) v
  else if 0x3FFF80002000 ≤ pa ∧ pa < 0x3FFF80002080 then
    some (if who.trusted then { s with hub.groups := mapSet s.hub.groups ((pa - 0x3FFF80002000) / 8) (BitVec.ofNat 9 v) }
      else s)
  else if 0x3FFF80003000 ≤ pa ∧ pa < 0x3FFF80007000 then some s
  else if 0x3FFF80007000 ≤ pa ∧ pa < 0x3FFF80007020 then some s
  else if 0x3FFF80008000 ≤ pa ∧ pa < 0x3FFF8000A000 then
    let p := (pa - 0x3FFF80008000) / 4096
    let o := pa % 4096 / 8
    (portMask o).map (fun m => if who.trusted ∧ m ≠ 0 then setPort s p o (w64 (v &&& m)) else s)
  else if 0x3FFF80010000 ≤ pa ∧ pa < 0x3FFF80020000 then some (peerWrite s ((pa - 0x3FFF80010000) / 8) v)
  else if 0x3FFF80020000 ≤ pa ∧ pa < 0x3FFF80026000 then
    some (boxWrite s who ((pa - 0x3FFF80020000) / 8192) (pa % 8192 / 8) v)
  else none

/-- The address accepts 8-byte accesses only (18_platform.md R462, R463). -/
def wordOnly (pa : Nat) : Bool :=
  (0x3FFF80000000 ≤ pa && pa < 0x3FFF80000800) || (0x3FFF80008000 ≤ pa && pa < 0x3FFF8000A000)

/-- A load of 4 or 8 naturally aligned bytes of the control block (17_system.md R452). -/
def controlRead (s : State) (who : Who) (pa n : Nat) : Option (Nat × State) :=
  if n = 8 then controlRead8 s who pa
  else if wordOnly pa then none
  else (controlRead8 s who (pa / 8 * 8)).map (fun r => (r.1 / 2 ^ (8 * (pa % 8)) % 2 ^ 32, r.2))

/-- A store of 4 or 8 naturally aligned bytes of the control block; 4 bytes keep the register's other half. -/
def controlWrite (s : State) (who : Who) (pa n v : Nat) : Option State :=
  if n = 8 then controlWrite8 s who pa v
  else if wordOnly pa then none
  else (controlRead8 s who (pa / 8 * 8)).bind (fun r =>
    controlWrite8 s who (pa / 8 * 8) (setFld r.1 (8 * (pa % 8)) 32 v))

end Sys2Proof.Machine
end

