-- ==== Sys2Proof/Machine/Legal.lean ====
section
/-!
DEFINITION. The legality conditions that an instruction's fields alone decide (02_encoding.md R41, R44, R45).
-/

namespace Sys2Proof.Machine

/-- A scope field holds 0 core, 1 die or 2 package; 3 is illegal (R44, ATOM and SYNC). -/
def scopeOk (s : BitVec 2) : Bool := s != 3

/-- The CSR number is in the index (17_system.md R458). -/
def csrListed (c : Nat) : Bool :=
  (0x010 ≤ c && c ≤ 0x012) || (0x020 ≤ c && c ≤ 0x026) || (0x030 ≤ c && c ≤ 0x032) || c == 0x050 || c == 0x051 ||
  (0x220 ≤ c && c ≤ 0x225) || c == 0x230 || c == 0x231 || (0x240 ≤ c && c ≤ 0x24F) || (0x400 ≤ c && c ≤ 0x405) ||
  c == 0x410 || c == 0x411

/-- The distance to the last body instruction is at least 1 (04_control.md R95). -/
def distanceOk (i : BitVec 17) : Bool := i != 0

/-- A loop level is 0 to 5 (04_control.md R95). -/
def levelOk (i : BitVec 17) : Bool := i.toNat ≤ 5

/-- A strip condition is any, none or all (04_control.md R112). -/
def conditionOk (c : BitVec 2) : Bool := c != 3

/-- A work-identifier field index is 0 to 5 (13_work.md R342). -/
def fieldIndexOk (k : BitVec 5) : Bool := k.toNat ≤ 5

/-- The engine context accepts the command (12_engines.md R312, R315). -/
def contextOk (lo hi : Nat) (t : BitVec 4) : Bool := lo ≤ t.toNat && t.toNat ≤ hi

/-- A mask destination is not m0 (R41). -/
def maskDestOk (d : BitVec 3) : Bool := d != 0

/-- The container code is allowed (06_memory.md R159). -/
def containerOk (lo hi : Nat) (c : BitVec 3) : Bool := lo ≤ c.toNat && c.toNat ≤ hi

/-- A source format code of `wcvt`: 0 to 8 or 15 (05_numbers.md R137). -/
def cvtSource (b : BitVec 5) : Bool := b.toNat % 16 ≤ 8 || b.toNat % 16 == 15

/-- A source format code of `wcvti`: 0 to 8 (05_numbers.md R137). -/
def cvtiSource (b : BitVec 5) : Bool := b.toNat % 16 ≤ 8

/-- A floating-point destination format code: 0 to 4 (05_numbers.md R137). -/
def cvtDest (c : BitVec 5) : Bool := c.toNat % 16 ≤ 4

/-- An integer format code: 9 to 14 (05_numbers.md R137). -/
def intFormat (c : BitVec 5) : Bool := 9 ≤ c.toNat % 16 && c.toNat % 16 ≤ 14

/-- An MX element format code: 5, 6, 7 or 15 (05_numbers.md R137). -/
def blockFormat (b : BitVec 5) : Bool :=
  b.toNat % 16 == 5 || b.toNat % 16 == 6 || b.toNat % 16 == 7 || b.toNat % 16 == 15

/-- Two destination registers differ (05_numbers.md R137, 09_word.md R246). -/
def distinct (d c : BitVec 5) : Bool := d != c

/-- The register number is even (14_sparse.md R380). -/
def evenReg (a : BitVec 5) : Bool := a.toNat % 2 == 0

/-- The word of HINT kinds 0, 1 and 2 is `hint`, `pfch` and `pfl2` (R47). -/
def hintKindOk (k : BitVec 4) : Bool := 3 ≤ k.toNat

/-- The step code of `rpt` is not 3 (R54). -/
def stepOk (s : BitVec 2) : Bool := s != 3

/-- The immediate count of `rpt` is zero when a register holds the count (R54). -/
def countOk (n : BitVec 8) (r : BitVec 5) : Bool := r == 0 || n == 0

end Sys2Proof.Machine
end

