-- ==== Sys2Proof/Machine/Csr.lean ====
section
/-!
DEFINITION. Control and status registers (03_scalar.md R77 to R86; index in 17_system.md R458).
-/

namespace Sys2Proof.Machine

/-- The value timeline counter n shows (11_sync.md R298, 12_engines.md R318, 17_system.md R453); an engine or work
timeline of a core without an activation block shows 0. Hardware keeps it in the block, where it reads what is published
(11_sync.md R287). -/
def State.tc (s : State) (n : Nat) : Word :=
  if n = 10 then s.kv.tc10
  else if n = 15 then s.kv.tc15
  else match s.sched.act.bind (·.block) with
    | none => 0
    | some b => if n < 10 then w64 (s.pubNum (b + 64 * n + 8) 8) else w64 (s.pubNum (b + 0x280 + 16 * (n - 11) + 8) 8)

/-- The value of `estatus` (17_system.md R441). -/
def estatusValue (s : State) : Nat :=
  s.ctl.estatus.toNat + bNat s.ctl.preReq.isSome * 32 + bNat s.ctl.forced * 64 +
    bNat (decide (s.ctl.tcmp.toNat ≤ s.ctl.cycle.toNat)) * 128

/-- The value of a CSR; reserved fields read zero (03_scalar.md R78). -/
def csrRead (s : State) (c : Nat) : Word :=
  if c = 0x010 then s.lanes.frm.setWidth 64
  else if c = 0x011 then s.lanes.fflags.setWidth 64
  else if c = 0x012 then s.lanes.qflags.setWidth 64
  else if c = 0x020 then s.lanes.vstart.setWidth 64
  else if c = 0x021 then s.ctl.spl.setWidth 64
  else if c = 0x022 then s.lanes.vdirty
  else if c = 0x023 then s.lanes.wdirty.setWidth 64
  else if c = 0x024 then s.lanes.mcfg.setWidth 64
  else if c = 0x025 then s.lanes.acst
  else if c = 0x026 then s.lanes.smiss.setWidth 64
  else if c = 0x030 then s.ctl.uvec
  else if c = 0x031 then s.ctl.uepc
  else if c = 0x032 then s.ctl.ustat.setWidth 64
  else if c = 0x050 then s.ctl.cycle
  else if c = 0x051 then s.instret
  else if c = 0x220 then s.lanes.vl.setWidth 64
  else if c = 0x221 then s.lanes.vcfg.setWidth 64
  else if c = 0x222 then s.lanes.ewa.setWidth 64
  else if c = 0x223 then s.lanes.ewb.setWidth 64
  else if c = 0x224 then s.lanes.ewd.setWidth 64
  else if c = 0x225 then w64 (s.lanes.grantG.toNat + s.lanes.grantE.toNat * 2 ^ 16)
  else if c = 0x230 then s.ctl.wid
  else if c = 0x231 then s.ctl.wfields
  else if 0x240 ≤ c ∧ c ≤ 0x24F then s.tc (c - 0x240)
  else if c = 0x400 then s.ctl.ecause
  else if c = 0x401 then s.ctl.epc
  else if c = 0x402 then s.ctl.eaddr
  else if c = 0x403 then w64 (estatusValue s)
  else if c = 0x404 then s.ctl.evec
  else if c = 0x405 then s.ctl.kstat
  else if c = 0x410 then s.ctl.estride
  else if c = 0x411 then s.ctl.eremain
  else 0

/-- The lowest level that may access the register (03_scalar.md R77). -/
def csrLevel (c : Nat) : Nat := fld c 10 2

/-- The lowest level that may write the register, none for a register that is read-only at every level (03_scalar.md
R77, R79; 17_system.md R458). -/
def csrWriteLevel (c : Nat) : Option Nat :=
  if bitOf c 9 then none
  else if c = 0x050 then some 2
  else if c = 0x051 then some 1
  else some (csrLevel c)

/-- A change of the scratchpad to `keep` bytes (06_memory.md R176): every earlier access is complete, and the bytes above are zero
and sound. -/
def resizePad (s : State) (keep : Nat) : State :=
  let s := syncOrder s
  let above (loc : Nat) : Bool := decide (padBase + keep ≤ loc)
  { s with
    memory.mem := mapClear s.memory.mem (padBase + keep) (2097152 - keep)
    memory.poison := s.memory.poison.filter (fun c => !above (64 * c.1)) }

/-- `spl` after a write: an unlisted size keeps the old one, and bytes the change adds read as zero (06_memory.md R175,
R176). -/
def splWrite (s : State) (v : Nat) : State :=
  let old := s.ctl.spl.toNat
  let new := fld v 0 4
  if 8 < new ∨ new = old then s
  else
    { resizePad s (262144 * min old new) with ctl.spl := BitVec.ofNat 4 new }

/-- `vdirty` after a write: a bit that goes from 1 to 0 zeroes its register (07_lanes.md R193). -/
def vdirtyWrite (s : State) (v : Word) : State :=
  let new := v &&& w64 (2 ^ s.nr - 1)
  let gone := s.lanes.vdirty &&& ~~~new
  { s with
    lanes.vdirty := new
    lanes.vreg := s.lanes.vreg.filter (fun c => !gone.getLsbD (c.1 / 262144)) }

/-- `wdirty` after a write: a bit that goes from 1 to 0 zeroes its register (09_word.md R230). -/
def wdirtyWrite (s : State) (v : Word) : State :=
  let new : BitVec 32 := v.setWidth 32
  let gone := s.lanes.wdirty &&& ~~~new
  { s with
    lanes.wdirty := new
    lanes.wreg := s.lanes.wreg.filter (fun c => !gone.getLsbD (c.1 / 1024)) }

/-- Place a value in a CSR, field by field (03_scalar.md R78); read-only fields and registers ignore it. A code or a kind that
hardware never produces is placed as written: an `ecause.code`, an `ecause.sub` that R440 gives no cause (32 to 255 among
them), an `ecause.ctx` of 10 to 15, an `eremain.kind` (17_system.md R438, R440: DESIGN CHOICE, log 33). -/
def csrWrite (s : State) (c : Nat) (v : Word) : State :=
  if c = 0x010 then (if fld v.toNat 0 3 ≤ 4 then { s with lanes.frm := v.setWidth 3 } else s)
  else if c = 0x011 then { s with lanes.fflags := v.setWidth 5 }
  else if c = 0x012 then { s with lanes.qflags := v.setWidth 4 }
  else if c = 0x020 then (if fld v.toNat 0 18 < s.vlmax then { s with lanes.vstart := v.setWidth 18 } else s)
  else if c = 0x021 then splWrite s v.toNat
  else if c = 0x022 then vdirtyWrite s v
  else if c = 0x023 then wdirtyWrite s v
  else if c = 0x024 then
    let k := listed (fun x => x ≤ 2) (fld s.lanes.mcfg.toNat 0 2) (fld v.toNat 0 2)
    { s with lanes.mcfg := BitVec.ofNat 8 (k + fld v.toNat 2 6 * 4) }
  else if c = 0x025 then
    { s with lanes.acst := (s.lanes.acst &&& 0xF) ||| (v &&& 0x0000FFFFFF1F1FF0) }
  else if c = 0x026 then { s with lanes.smiss := (v &&& 0x1FFFFFFFFF07).setWidth 45 }
  else if c = 0x030 then { s with ctl.uvec := v &&& ~~~2#64 }
  else if c = 0x031 then { s with ctl.uepc := v &&& ~~~3#64 }
  else if c = 0x032 then
    { s with ctl.ustat := (s.ctl.ustat &&& 0x10000) ||| (v.setWidth 17 &&& 0x7FF) }
  else if c = 0x050 then { s with ctl.cycle := v }
  else if c = 0x051 then { s with instret := v }
  else if c = 0x400 then { s with ctl.ecause := v &&& 0xFFFFF }
  else if c = 0x401 then { s with ctl.epc := v &&& ~~~3#64 }
  else if c = 0x402 then { s with ctl.eaddr := v }
  else if c = 0x403 then
    let p := listed (fun x => x ≤ 1) (fld s.ctl.estatus.toNat 0 2) (fld v.toNat 0 2)
    { s with ctl.estatus := BitVec.ofNat 5 (p + fld v.toNat 2 3 * 4) }
  else if c = 0x404 then { s with ctl.evec := v &&& ~~~3#64 }
  else if c = 0x405 then { s with ctl.kstat := v }
  else if c = 0x410 then { s with ctl.estride := v }
  else if c = 0x411 then { s with ctl.eremain := v }
  else s

/-- A CSR instruction that only reads is legal (03_scalar.md R80). -/
def csrReadable (s : State) (c : Nat) : Bool := csrListed c && csrLevel c ≤ s.level.code

/-- A CSR instruction that writes is legal (03_scalar.md R80). -/
def csrWritable (s : State) (c : Nat) : Bool :=
  csrReadable s c && (match csrWriteLevel c with
    | none => false
    | some l => decide (l ≤ s.level.code))

/-- Commit a CSR write and the return of the old value; a write of `instret` sets the count of instructions before the
next one (03_scalar.md R82, R85). -/
def csrCommit (s : State) (d : BitVec 5) (c : Nat) (v : Word) : State :=
  let t := retire ((csrWrite s c v).wr d (csrRead s c))
  if c = 0x051 then { t with instret := v } else t

/-- `crd` (R81, R82). -/
def execCrd (d : BitVec 5) (c : BitVec 12) (s : State) : Out :=
  finish s (do
    legalIf (csrReadable s c.toNat)
    pure (retire (s.wr d (csrRead s c.toNat))))

/-- A writing CSR instruction with the new value that `f` makes of the old one (R82). -/
def csrUpdate (d : BitVec 5) (c : BitVec 12) (f : Word → Word) (s : State) : Out :=
  finish s (do
    legalIf (csrWritable s c.toNat)
    pure (csrCommit s d c.toNat (f (csrRead s c.toNat))))

/-- `cwr` (R81, R82). -/
def execCwr (d a : BitVec 5) (c : BitVec 12) (s : State) : Out := csrUpdate d c (fun _ => s.rd a) s
/-- `cset` (R81, R82). -/
def execCset (d a : BitVec 5) (c : BitVec 12) (s : State) : Out := csrUpdate d c (fun old => old ||| s.rd a) s
/-- `cclr` (R81, R82). -/
def execCclr (d a : BitVec 5) (c : BitVec 12) (s : State) : Out := csrUpdate d c (fun old => old &&& ~~~(s.rd a)) s
/-- `cwri` (R81, R82). -/
def execCwri (d i : BitVec 5) (c : BitVec 12) (s : State) : Out := csrUpdate d c (fun _ => i.setWidth 64) s
/-- `cseti` (R81, R82). -/
def execCseti (d i : BitVec 5) (c : BitVec 12) (s : State) : Out := csrUpdate d c (fun old => old ||| i.setWidth 64) s
/-- `cclri` (R81, R82). -/
def execCclri (d i : BitVec 5) (c : BitVec 12) (s : State) : Out :=
  csrUpdate d c (fun old => old &&& ~~~(i.setWidth 64)) s

end Sys2Proof.Machine
end

