-- ==== Sys2Proof/WellFormed.lean ====
section
/-!
DEFINITION. Which instructions have an encoding that is legal whatever the machine's state (02_encoding.md R41, R44,
R45). Legality that depends on state (R46) is decided by the meanings.
-/

namespace Sys2Proof

open Sys2Proof.Machine

/-- The instruction breaks no condition that its word alone decides. An event has no word and breaks none. -/
def Instr.wf : Instr → Bool
  | .add _ _ _ => true
  | .sub _ _ _ => true
  | .and _ _ _ => true
  | .or _ _ _ => true
  | .xor _ _ _ => true
  | .andn _ _ _ => true
  | .shl _ _ _ => true
  | .shrl _ _ _ => true
  | .shra _ _ _ => true
  | .cmplt _ _ _ => true
  | .cmpltu _ _ _ => true
  | .min _ _ _ => true
  | .max _ _ _ => true
  | .minu _ _ _ => true
  | .maxu _ _ _ => true
  | .cmpeq _ _ _ => true
  | .addi _ _ _ => true
  | .cmplti _ _ _ => true
  | .cmpltiu _ _ _ => true
  | .andi _ _ _ => true
  | .ori _ _ _ => true
  | .xori _ _ _ => true
  | .cmpeqi _ _ _ => true
  | .shli _ _ _ => true
  | .shrli _ _ _ => true
  | .shrai _ _ _ => true
  | .mul _ _ _ => true
  | .mulhSs _ _ _ => true
  | .mulhUu _ _ _ => true
  | .mulhSu _ _ _ => true
  | .divs _ _ _ => true
  | .divu _ _ _ => true
  | .mods _ _ _ => true
  | .modu _ _ _ => true
  | .clz _ _ => true
  | .ctz _ _ => true
  | .cpop _ _ => true
  | .brev _ _ => true
  | .bfx _ _ _ => true
  | .bfxu _ _ _ => true
  | .bfi _ _ _ => true
  | .lhi _ _ => true
  | .pcrel _ _ => true
  | .ihz _ _ _ => true
  | .ihk _ _ _ => true
  | .ihs _ _ _ => true
  | .lb _ _ _ => true
  | .lh _ _ _ => true
  | .lw _ _ _ => true
  | .ld _ _ _ => true
  | .lbu _ _ _ => true
  | .lhu _ _ _ => true
  | .lwu _ _ _ => true
  | .sb _ _ _ => true
  | .sh _ _ _ => true
  | .sw _ _ _ => true
  | .sd _ _ _ => true
  | .atswp _ _ _ s _ => scopeOk s
  | .atadd _ _ _ s _ => scopeOk s
  | .atand _ _ _ s _ => scopeOk s
  | .ator _ _ _ s _ => scopeOk s
  | .atxor _ _ _ s _ => scopeOk s
  | .atmin _ _ _ s _ => scopeOk s
  | .atmax _ _ _ s _ => scopeOk s
  | .atminu _ _ _ s _ => scopeOk s
  | .atmaxu _ _ _ s _ => scopeOk s
  | .atcas _ _ _ s _ => scopeOk s
  | .crd _ c => csrListed c.toNat
  | .cwr _ _ c => csrListed c.toNat
  | .cset _ _ c => csrListed c.toNat
  | .cclr _ _ c => csrListed c.toNat
  | .cwri _ _ c => csrListed c.toNat
  | .cseti _ _ c => csrListed c.toNat
  | .cclri _ _ c => csrListed c.toNat
  | .beq _ _ _ => true
  | .bne _ _ _ => true
  | .blt _ _ _ => true
  | .bge _ _ _ => true
  | .bltu _ _ _ => true
  | .bgeu _ _ _ => true
  | .jal _ _ => true
  | .jalr _ _ _ => true
  | .loop _ i => distanceOk i
  | .loopr _ i => distanceOk i
  | .loopv _ i => distanceOk i
  | .lbrk => true
  | .lidx _ i => levelOk i
  | .sfork => true
  | .sbra _ c _ => conditionOk c
  | .sloop _ c _ => conditionOk c
  | .sjoin => true
  | .stripThreadModeEnd => true
  | .pub s => scopeOk s
  | .acq s => scopeOk s
  | .phase s => scopeOk s
  | .fence s => scopeOk s
  | .vfence _ s => scopeOk s
  | .bar _ _ s => scopeOk s
  | .tlwait _ _ => true
  | .tlpoll _ _ _ => true
  | .tlrd _ _ => true
  | .publication => true
  | .arrival => true
  | .barPass => true
  | .tlwaitPass => true
  | .spawn _ _ => true
  | .join _ _ => true
  | .done => true
  | .launch _ _ => true
  | .widf _ k _ => fieldIndexOk k
  | .yield _ => true
  | .xcopy _ _ _ t => contextOk 0 7 t
  | .xconv _ _ _ t => contextOk 0 7 t
  | .xzip _ _ _ t => contextOk 0 7 t
  | .xexp _ _ _ t => contextOk 0 7 t
  | .xfmt _ _ _ t => contextOk 0 7 t
  | .xtile _ _ _ t => contextOk 4 7 t
  | .xput _ _ _ t => contextOk 8 9 t
  | .xget _ _ _ t => contextOk 8 9 t
  | .engineUnit _ => true
  | .commandComplete _ => true
  | .engineFault => true
  | .userLevelInterrupt => true
  | .tdecl _ _ => true
  | .sweep _ _ _ => true
  | .snext _ => true
  | .swait _ _ _ => true
  | .wake _ _ => true
  | .vwake _ _ _ => true
  | .sctlRange _ _ => true
  | .sctlStat _ _ => true
  | .sctlAbort _ _ => true
  | .sctlRel _ _ => true
  | .pfxmatch _ _ _ => true
  | .pfxins _ _ _ => true
  | .pfxrel _ _ _ => true
  | .kvalloc _ _ _ => true
  | .kvappend _ _ _ => true
  | .kvcommit _ _ _ => true
  | .kvreject _ _ => true
  | .kvxlat _ _ _ => true
  | .kvscore _ _ _ => true
  | .kvcompact _ _ _ => true
  | .barchanOperation => true
  | .barchanResult => true
  | .clockStep => true
  | .wlpush _ _ _ => true
  | .wlpop _ _ _ => true
  | .wlins _ _ _ => true
  | .vcapp _ _ _ => true
  | .windowTransfer _ => true
  | .trap _ => true
  | .tret => true
  | .wfi => true
  | .ifence => true
  | .tlbinv _ _ _ => true
  | .ctxsave _ => true
  | .ctxload _ => true
  | .brk => true
  | .halt => true
  | .uret => true
  | .illegalEncoding _ => true
  | .stepBreakpoint => true
  | .timerInterrupt => true
  | .preemptionTrap => true
  | .forcedPreemption => true
  | .schedulerPreemptionRequest => true
  | .wfiWake => true
  | .wfiTimeout => true
  | .vcfg _ _ => true
  | .setvl _ _ => true
  | .setw _ _ => true
  | .setvlrun _ _ _ => true
  | .vadd _ _ _ _ => true
  | .vadc _ _ _ c => maskDestOk c
  | .vsub _ _ _ _ => true
  | .vsbc _ _ _ c => maskDestOk c
  | .vmul _ _ _ _ => true
  | .vmac _ _ _ _ => true
  | .vand _ _ _ _ => true
  | .vor _ _ _ _ => true
  | .vxor _ _ _ _ => true
  | .vsll _ _ _ _ => true
  | .vsrl _ _ _ _ => true
  | .vsra _ _ _ _ => true
  | .vsat _ _ _ => true
  | .vrsra _ _ _ _ => true
  | .vwid _ _ _ => true
  | .vsel _ _ _ _ => true
  | .vmv _ _ _ => true
  | .vmin _ _ _ _ => true
  | .vmax _ _ _ _ => true
  | .vminu _ _ _ _ => true
  | .vmaxu _ _ _ _ => true
  | .vbcst _ _ _ => true
  | .vidx _ _ => true
  | .vaddScalar _ _ _ _ => true
  | .vadcScalar _ _ _ c => maskDestOk c
  | .vsubScalar _ _ _ _ => true
  | .vsbcScalar _ _ _ c => maskDestOk c
  | .vmulScalar _ _ _ _ => true
  | .vmacScalar _ _ _ _ => true
  | .vandScalar _ _ _ _ => true
  | .vorScalar _ _ _ _ => true
  | .vxorScalar _ _ _ _ => true
  | .vsllScalar _ _ _ _ => true
  | .vsrlScalar _ _ _ _ => true
  | .vsraScalar _ _ _ _ => true
  | .vsatScalar _ _ _ _ => true
  | .vrsraScalar _ _ _ _ => true
  | .vminScalar _ _ _ _ => true
  | .vmaxScalar _ _ _ _ => true
  | .vminuScalar _ _ _ _ => true
  | .vmaxuScalar _ _ _ _ => true
  | .vsllImmediate _ _ _ _ => true
  | .vsrlImmediate _ _ _ _ => true
  | .vsraImmediate _ _ _ _ => true
  | .vrsraImmediate _ _ _ _ => true
  | .vseq d _ _ _ => maskDestOk d
  | .vsne d _ _ _ => maskDestOk d
  | .vslt d _ _ _ => maskDestOk d
  | .vsle d _ _ _ => maskDestOk d
  | .vsltu d _ _ _ => maskDestOk d
  | .vsleu d _ _ _ => maskDestOk d
  | .vsgt d _ _ _ => maskDestOk d
  | .vsgtu d _ _ _ => maskDestOk d
  | .vseqScalar d _ _ _ => maskDestOk d
  | .vsneScalar d _ _ _ => maskDestOk d
  | .vsltScalar d _ _ _ => maskDestOk d
  | .vsleScalar d _ _ _ => maskDestOk d
  | .vsltuScalar d _ _ _ => maskDestOk d
  | .vsleuScalar d _ _ _ => maskDestOk d
  | .vsgtScalar d _ _ _ => maskDestOk d
  | .vsgtuScalar d _ _ _ => maskDestOk d
  | .mand d _ _ => maskDestOk d
  | .mor d _ _ => maskDestOk d
  | .mxor d _ _ => maskDestOk d
  | .mandn d _ _ => maskDestOk d
  | .mnot d _ => maskDestOk d
  | .mslide d _ _ => maskDestOk d
  | .vfirst _ _ => true
  | .vlast _ _ => true
  | .mcnt _ _ => true
  | .mmv d _ => maskDestOk d
  | .vredsum _ _ _ => true
  | .vredsumu _ _ _ => true
  | .vredmin _ _ _ => true
  | .vredmax _ _ _ => true
  | .vredminu _ _ _ => true
  | .vredmaxu _ _ _ => true
  | .vredand _ _ _ => true
  | .vredor _ _ _ => true
  | .vredxor _ _ _ => true
  | .vperm _ _ _ _ => true
  | .vslup _ _ _ _ => true
  | .vsldn _ _ _ _ => true
  | .vcomp _ _ _ => true
  | .vexpd _ _ _ => true
  | .vld _ _ _ c => containerOk 0 6 c
  | .vlds _ _ _ _ c => containerOk 3 5 c
  | .vldx _ _ _ _ c => containerOk 3 5 c
  | .vldff _ _ _ c => containerOk 0 5 c
  | .hgath _ _ _ _ c => containerOk 3 5 c
  | .vst _ _ _ c => containerOk 0 6 c
  | .vsts _ _ _ _ c => containerOk 3 5 c
  | .vstx _ _ _ _ c => containerOk 3 5 c
  | .vscadd _ _ _ _ c => containerOk 3 5 c
  | .wadd _ _ _ => true
  | .wsub _ _ _ => true
  | .wmul _ _ _ => true
  | .wfma _ _ _ _ => true
  | .wfms _ _ _ _ => true
  | .wfnma _ _ _ _ => true
  | .wdiv _ _ _ => true
  | .wsqrt _ _ => true
  | .wmin _ _ _ => true
  | .wmax _ _ _ => true
  | .wabs _ _ => true
  | .wneg _ _ => true
  | .weq _ _ _ => true
  | .wlt _ _ _ => true
  | .wle _ _ _ => true
  | .wsel _ _ _ _ => true
  | .wmv _ _ => true
  | .wexp _ _ => true
  | .wexp2 _ _ => true
  | .wlog _ _ => true
  | .wlog2 _ _ => true
  | .wrcp _ _ => true
  | .wrsq _ _ => true
  | .wtanh _ _ => true
  | .wsig _ _ => true
  | .wsin _ _ => true
  | .wcos _ _ => true
  | .wredsum _ _ _ _ => true
  | .wredmax _ _ _ _ => true
  | .wredmin _ _ _ _ => true
  | .iscan _ _ _ _ => true
  | .fscan _ _ _ _ => true
  | .wtopk d _ _ c => distinct d c
  | .wsmx d _ _ c => distinct d c
  | .wscl _ _ _ _ => true
  | .smerge d a _ c => evenReg a && evenReg c && evenReg d
  | .wcvt _ _ b c => cvtSource b && cvtDest c
  | .wcvti _ _ b c => cvtiSource b && intFormat c
  | .wcvtf _ _ b c => intFormat b && cvtDest c
  | .wpkmx d _ b c => blockFormat b && distinct d c
  | .wupmx _ _ b _ => blockFormat b
  | .wmvv _ _ _ => true
  | .vmvw _ _ _ => true
  | .wmva _ _ _ => true
  | .amvw _ _ _ => true
  | .vdot _ _ _ _ => true
  | .mgath _ _ _ _ => true
  | .mgathc _ _ _ _ => true
  | .mmac _ _ _ _ => true
  | .mzeroI32 _ => true
  | .mzeroF32 _ => true
  | .mpro _ => true
  | .msclRs _ _ => true
  | .msclRe _ _ => true
  | .msclCs _ _ => true
  | .msclCe _ _ => true
  | .msclOl _ _ => true
  | .mldI32 _ _ _ => true
  | .mldF32 _ _ _ => true
  | .mst _ _ _ => true
  | .mstatBank _ _ => true
  | .mstatTile _ _ => true
  | .hint _ => true
  | .pfch _ _ => true
  | .pfl2 _ _ => true
  | .hintKind k _ => hintKindOk k
  | .nop => true
  | .rpt _ n _ s r => stepOk s && countOk n r
  | .takeRecord => true
  | .launchCompletion => true
  | .tlbinvCompletion => true
  | .correctedError _ => true
  | .uncorrectableError _ _ => true
  | .integrityError _ => true
  | .write _ _ => true
  | .writeSync _ _ => true
  | .read _ _ => true
  | .readSync _ _ => true
  | .dataPacket _ _ => true
  | .ack _ _ => true
  | .nak _ _ => true
  | .putPacket _ _ => true
  | .getPacket _ _ => true
  | .retransmission _ => true
  | .linkLoss _ => true
  | .ringLinkFailure _ => true
  | .doorbell _ _ => true
  | .semaphoreAcquire _ _ => true
  | .semaphoreRelease _ _ => true
  | .semaphoreForcedRelease _ => true
  | .preq _ => true
  | .wakeRegister _ => true
  | .tcmp _ _ => true
  | .restart _ => true
  | .controlRegisterWrite _ _ _ => true
  | .mailboxReportRequest _ => true
  | .reportComplete _ => true
  | .measurementExtend _ => true
  | .powerOn _ _ _ => true
  | .grantEpoch _ _ _ => true
  | .thermalTrip => true
  | .refreshEvaluation _ => true
  | .linkUp _ => true

/-- The constructor stands for an event of the opcode table, which has no word. -/
def Instr.isEvent : Instr → Bool
  | .stripThreadModeEnd => true
  | .publication => true
  | .arrival => true
  | .barPass => true
  | .tlwaitPass => true
  | .engineUnit _ => true
  | .commandComplete _ => true
  | .engineFault => true
  | .userLevelInterrupt => true
  | .barchanOperation => true
  | .barchanResult => true
  | .clockStep => true
  | .windowTransfer _ => true
  | .illegalEncoding _ => true
  | .stepBreakpoint => true
  | .timerInterrupt => true
  | .preemptionTrap => true
  | .forcedPreemption => true
  | .schedulerPreemptionRequest => true
  | .wfiWake => true
  | .wfiTimeout => true
  | .takeRecord => true
  | .launchCompletion => true
  | .tlbinvCompletion => true
  | .correctedError _ => true
  | .uncorrectableError _ _ => true
  | .integrityError _ => true
  | .write _ _ => true
  | .writeSync _ _ => true
  | .read _ _ => true
  | .readSync _ _ => true
  | .dataPacket _ _ => true
  | .ack _ _ => true
  | .nak _ _ => true
  | .putPacket _ _ => true
  | .getPacket _ _ => true
  | .retransmission _ => true
  | .linkLoss _ => true
  | .ringLinkFailure _ => true
  | .doorbell _ _ => true
  | .semaphoreAcquire _ _ => true
  | .semaphoreRelease _ _ => true
  | .semaphoreForcedRelease _ => true
  | .preq _ => true
  | .wakeRegister _ => true
  | .tcmp _ _ => true
  | .restart _ => true
  | .controlRegisterWrite _ _ _ => true
  | .mailboxReportRequest _ => true
  | .reportComplete _ => true
  | .measurementExtend _ => true
  | .powerOn _ _ _ => true
  | .grantEpoch _ _ _ => true
  | .thermalTrip => true
  | .refreshEvaluation _ => true
  | .linkUp _ => true
  | _ => false

end Sys2Proof
end

