-- ==== Sys2Proof/Decode.lean ====
section
/-!
DEFINITION. The decoder and the encoder, both written from the formats and the opcode map (02_encoding.md R39 to R45).
`decode` is total: a word that is no instruction answers none, and the machine then runs the event ILLEGAL_ENCODING.
Lean's compiler cannot lay out a type with more than 244 constructors that carry data, so what builds a late
constructor is marked noncomputable; the kernel evaluates it all the same.
-/

namespace Sys2Proof

open Sys2Proof.Machine

/-- Bits [lo + n - 1 : lo] of an instruction word, as a field (02_encoding.md R40). -/
def field (w lo n : Nat) : BitVec n := BitVec.ofNat n (w / 2 ^ lo)

/-- The words of major opcode 1, OPS (R43, R44). -/
def decodeOps (w : Nat) : Option Instr :=
  if fld w 21 11 = 0 then some (.add (field w 6 5) (field w 11 5) (field w 16 5))
  else if fld w 21 11 = 1 then some (.sub (field w 6 5) (field w 11 5) (field w 16 5))
  else if fld w 21 11 = 2 then some (.and (field w 6 5) (field w 11 5) (field w 16 5))
  else if fld w 21 11 = 3 then some (.or (field w 6 5) (field w 11 5) (field w 16 5))
  else if fld w 21 11 = 4 then some (.xor (field w 6 5) (field w 11 5) (field w 16 5))
  else if fld w 21 11 = 5 then some (.andn (field w 6 5) (field w 11 5) (field w 16 5))
  else if fld w 21 11 = 6 then some (.shl (field w 6 5) (field w 11 5) (field w 16 5))
  else if fld w 21 11 = 7 then some (.shrl (field w 6 5) (field w 11 5) (field w 16 5))
  else if fld w 21 11 = 8 then some (.shra (field w 6 5) (field w 11 5) (field w 16 5))
  else if fld w 21 11 = 9 then some (.cmplt (field w 6 5) (field w 11 5) (field w 16 5))
  else if fld w 21 11 = 10 then some (.cmpltu (field w 6 5) (field w 11 5) (field w 16 5))
  else if fld w 21 11 = 11 then some (.min (field w 6 5) (field w 11 5) (field w 16 5))
  else if fld w 21 11 = 12 then some (.max (field w 6 5) (field w 11 5) (field w 16 5))
  else if fld w 21 11 = 13 then some (.minu (field w 6 5) (field w 11 5) (field w 16 5))
  else if fld w 21 11 = 14 then some (.maxu (field w 6 5) (field w 11 5) (field w 16 5))
  else if fld w 21 11 = 15 then some (.cmpeq (field w 6 5) (field w 11 5) (field w 16 5))
  else none

/-- The words of major opcode 2, OPSI (R43, R44). -/
def decodeOpsi (w : Nat) : Option Instr :=
  if fld w 16 3 = 0 then some (.addi (field w 6 5) (field w 11 5) (field w 19 13))
  else if fld w 16 3 = 1 then some (.cmplti (field w 6 5) (field w 11 5) (field w 19 13))
  else if fld w 16 3 = 2 then some (.cmpltiu (field w 6 5) (field w 11 5) (field w 19 13))
  else if fld w 16 3 = 3 then some (.andi (field w 6 5) (field w 11 5) (field w 19 13))
  else if fld w 16 3 = 4 then some (.ori (field w 6 5) (field w 11 5) (field w 19 13))
  else if fld w 16 3 = 5 then some (.xori (field w 6 5) (field w 11 5) (field w 19 13))
  else if fld w 16 3 = 7 then some (.cmpeqi (field w 6 5) (field w 11 5) (field w 19 13))
  else if fld w 16 3 = 6 ∧ fld w 25 7 = 0 then some (.shli (field w 6 5) (field w 11 5) (field w 19 6))
  else if fld w 16 3 = 6 ∧ fld w 25 7 = 1 then some (.shrli (field w 6 5) (field w 11 5) (field w 19 6))
  else if fld w 16 3 = 6 ∧ fld w 25 7 = 2 then some (.shrai (field w 6 5) (field w 11 5) (field w 19 6))
  else none

/-- The words of major opcode 3, MULDIV (R43, R44). -/
def decodeMuldiv (w : Nat) : Option Instr :=
  if fld w 21 11 = 0 then some (.mul (field w 6 5) (field w 11 5) (field w 16 5))
  else if fld w 21 11 = 1 then some (.mulhSs (field w 6 5) (field w 11 5) (field w 16 5))
  else if fld w 21 11 = 2 then some (.mulhUu (field w 6 5) (field w 11 5) (field w 16 5))
  else if fld w 21 11 = 3 then some (.mulhSu (field w 6 5) (field w 11 5) (field w 16 5))
  else if fld w 21 11 = 4 then some (.divs (field w 6 5) (field w 11 5) (field w 16 5))
  else if fld w 21 11 = 5 then some (.divu (field w 6 5) (field w 11 5) (field w 16 5))
  else if fld w 21 11 = 6 then some (.mods (field w 6 5) (field w 11 5) (field w 16 5))
  else if fld w 21 11 = 7 then some (.modu (field w 6 5) (field w 11 5) (field w 16 5))
  else none

/-- The words of major opcode 4, BITS (R43, R44). -/
def decodeBits (w : Nat) : Option Instr :=
  if fld w 16 16 = 0 then some (.clz (field w 6 5) (field w 11 5))
  else if fld w 16 16 = 32 then some (.ctz (field w 6 5) (field w 11 5))
  else if fld w 16 16 = 64 then some (.cpop (field w 6 5) (field w 11 5))
  else if fld w 16 16 = 96 then some (.brev (field w 6 5) (field w 11 5))
  else if fld w 21 11 = 4 then some (.bfx (field w 6 5) (field w 11 5) (field w 16 5))
  else if fld w 21 11 = 5 then some (.bfxu (field w 6 5) (field w 11 5) (field w 16 5))
  else if fld w 21 11 = 6 then some (.bfi (field w 6 5) (field w 11 5) (field w 16 5))
  else none

/-- The words of major opcode 5, LHI (R43, R44). -/
def decodeLhi (w : Nat) : Option Instr :=
  some (.lhi (field w 6 5) (field w 11 21))

/-- The words of major opcode 6, PCREL (R43, R44). -/
def decodePcrel (w : Nat) : Option Instr :=
  some (.pcrel (field w 6 5) (field w 11 21))

/-- The words of major opcode 7, IMMH (R43, R44). -/
def decodeImmh (w : Nat) : Option Instr :=
  if fld w 13 3 = 0 then some (.ihz (field w 6 5) (field w 11 2) (field w 16 16))
  else if fld w 13 3 = 1 then some (.ihk (field w 6 5) (field w 11 2) (field w 16 16))
  else if fld w 13 3 = 2 then some (.ihs (field w 6 5) (field w 11 2) (field w 16 16))
  else none

/-- The words of major opcode 8, LOAD (R43, R44). -/
def decodeLoad (w : Nat) : Option Instr :=
  if fld w 16 3 = 0 then some (.lb (field w 6 5) (field w 11 5) (field w 19 13))
  else if fld w 16 3 = 1 then some (.lh (field w 6 5) (field w 11 5) (field w 19 13))
  else if fld w 16 3 = 2 then some (.lw (field w 6 5) (field w 11 5) (field w 19 13))
  else if fld w 16 3 = 3 then some (.ld (field w 6 5) (field w 11 5) (field w 19 13))
  else if fld w 16 3 = 4 then some (.lbu (field w 6 5) (field w 11 5) (field w 19 13))
  else if fld w 16 3 = 5 then some (.lhu (field w 6 5) (field w 11 5) (field w 19 13))
  else if fld w 16 3 = 6 then some (.lwu (field w 6 5) (field w 11 5) (field w 19 13))
  else none

/-- The words of major opcode 9, STORE (R43, R44). -/
def decodeStore (w : Nat) : Option Instr :=
  if fld w 16 3 = 0 then some (.sb (field w 6 5) (field w 11 5) (field w 19 13))
  else if fld w 16 3 = 1 then some (.sh (field w 6 5) (field w 11 5) (field w 19 13))
  else if fld w 16 3 = 2 then some (.sw (field w 6 5) (field w 11 5) (field w 19 13))
  else if fld w 16 3 = 3 then some (.sd (field w 6 5) (field w 11 5) (field w 19 13))
  else none

/-- The words of major opcode 10, ATOM (R43, R44). -/
def decodeAtom (w : Nat) : Option Instr :=
  if fld w 21 5 = 0 ∧ fld w 29 3 = 0 then some (.atswp (field w 6 5) (field w 11 5) (field w 16 5) (field w 26 2) (field w 28 1))
  else if fld w 21 5 = 1 ∧ fld w 29 3 = 0 then some (.atadd (field w 6 5) (field w 11 5) (field w 16 5) (field w 26 2) (field w 28 1))
  else if fld w 21 5 = 2 ∧ fld w 29 3 = 0 then some (.atand (field w 6 5) (field w 11 5) (field w 16 5) (field w 26 2) (field w 28 1))
  else if fld w 21 5 = 3 ∧ fld w 29 3 = 0 then some (.ator (field w 6 5) (field w 11 5) (field w 16 5) (field w 26 2) (field w 28 1))
  else if fld w 21 5 = 4 ∧ fld w 29 3 = 0 then some (.atxor (field w 6 5) (field w 11 5) (field w 16 5) (field w 26 2) (field w 28 1))
  else if fld w 21 5 = 5 ∧ fld w 29 3 = 0 then some (.atmin (field w 6 5) (field w 11 5) (field w 16 5) (field w 26 2) (field w 28 1))
  else if fld w 21 5 = 6 ∧ fld w 29 3 = 0 then some (.atmax (field w 6 5) (field w 11 5) (field w 16 5) (field w 26 2) (field w 28 1))
  else if fld w 21 5 = 7 ∧ fld w 29 3 = 0 then some (.atminu (field w 6 5) (field w 11 5) (field w 16 5) (field w 26 2) (field w 28 1))
  else if fld w 21 5 = 8 ∧ fld w 29 3 = 0 then some (.atmaxu (field w 6 5) (field w 11 5) (field w 16 5) (field w 26 2) (field w 28 1))
  else if fld w 21 5 = 9 ∧ fld w 29 3 = 0 then some (.atcas (field w 6 5) (field w 11 5) (field w 16 5) (field w 26 2) (field w 28 1))
  else none

/-- The words of major opcode 11, CSR (R43, R44). -/
noncomputable def decodeCsr (w : Nat) : Option Instr :=
  if fld w 11 9 = 0 then some (.crd (field w 6 5) (field w 20 12))
  else if fld w 16 4 = 1 then some (.cwr (field w 6 5) (field w 11 5) (field w 20 12))
  else if fld w 16 4 = 2 then some (.cset (field w 6 5) (field w 11 5) (field w 20 12))
  else if fld w 16 4 = 3 then some (.cclr (field w 6 5) (field w 11 5) (field w 20 12))
  else if fld w 16 4 = 4 then some (.cwri (field w 6 5) (field w 11 5) (field w 20 12))
  else if fld w 16 4 = 5 then some (.cseti (field w 6 5) (field w 11 5) (field w 20 12))
  else if fld w 16 4 = 6 then some (.cclri (field w 6 5) (field w 11 5) (field w 20 12))
  else none

/-- The words of major opcode 12, BRANCH (R43, R44). -/
noncomputable def decodeBranch (w : Nat) : Option Instr :=
  if fld w 16 3 = 0 then some (.beq (field w 6 5) (field w 11 5) (field w 19 13))
  else if fld w 16 3 = 1 then some (.bne (field w 6 5) (field w 11 5) (field w 19 13))
  else if fld w 16 3 = 2 then some (.blt (field w 6 5) (field w 11 5) (field w 19 13))
  else if fld w 16 3 = 3 then some (.bge (field w 6 5) (field w 11 5) (field w 19 13))
  else if fld w 16 3 = 4 then some (.bltu (field w 6 5) (field w 11 5) (field w 19 13))
  else if fld w 16 3 = 5 then some (.bgeu (field w 6 5) (field w 11 5) (field w 19 13))
  else none

/-- The words of major opcode 13, JAL (R43, R44). -/
noncomputable def decodeJal (w : Nat) : Option Instr :=
  some (.jal (field w 6 5) (field w 11 21))

/-- The words of major opcode 14, JALR (R43, R44). -/
noncomputable def decodeJalr (w : Nat) : Option Instr :=
  if fld w 16 3 = 0 then some (.jalr (field w 6 5) (field w 11 5) (field w 19 13))
  else none

/-- The words of major opcode 15, LOOP (R43, R44). -/
noncomputable def decodeLoop (w : Nat) : Option Instr :=
  if fld w 12 3 = 0 then some (.loop (field w 6 6) (field w 15 17))
  else if fld w 11 4 = 2 then some (.loopr (field w 6 5) (field w 15 17))
  else if fld w 12 3 = 2 then some (.loopv (field w 6 6) (field w 15 17))
  else if fld w 0 32 = 12303 then some .lbrk
  else if fld w 11 4 = 8 then some (.lidx (field w 6 5) (field w 15 17))
  else none

/-- The words of major opcode 16, STRIP (R43, R44). -/
noncomputable def decodeStrip (w : Nat) : Option Instr :=
  if fld w 0 32 = 16 then some .sfork
  else if fld w 11 3 = 1 then some (.sbra (field w 6 3) (field w 9 2) (field w 14 18))
  else if fld w 11 3 = 2 then some (.sloop (field w 6 3) (field w 9 2) (field w 14 18))
  else if fld w 0 32 = 6160 then some .sjoin
  else none

/-- The words of major opcode 17, SYNC (R43, R44). -/
noncomputable def decodeSync (w : Nat) : Option Instr :=
  if fld w 0 26 = 17 ∧ fld w 28 4 = 0 then some (.pub (field w 26 2))
  else if fld w 0 26 = 2097169 ∧ fld w 28 4 = 0 then some (.acq (field w 26 2))
  else if fld w 0 26 = 4194321 ∧ fld w 28 4 = 0 then some (.phase (field w 26 2))
  else if fld w 0 26 = 6291473 ∧ fld w 28 4 = 0 then some (.fence (field w 26 2))
  else if fld w 0 11 = 17 ∧ fld w 16 10 = 128 ∧ fld w 28 4 = 0 then some (.vfence (field w 11 5) (field w 26 2))
  else if fld w 0 11 = 17 ∧ fld w 21 5 = 5 ∧ fld w 28 4 = 0 then some (.bar (field w 11 5) (field w 16 5) (field w 26 2))
  else if fld w 0 11 = 17 ∧ fld w 15 1 = 0 ∧ fld w 21 11 = 6 then some (.tlwait (field w 11 4) (field w 16 5))
  else if fld w 15 1 = 0 ∧ fld w 21 11 = 7 then some (.tlpoll (field w 6 5) (field w 11 4) (field w 16 5))
  else if fld w 15 17 = 512 then some (.tlrd (field w 6 5) (field w 11 4))
  else none

/-- The words of major opcode 18, WORK (R43, R44). -/
noncomputable def decodeWork (w : Nat) : Option Instr :=
  if fld w 0 11 = 18 ∧ fld w 21 11 = 0 then some (.spawn (field w 11 5) (field w 16 5))
  else if fld w 0 11 = 18 ∧ fld w 21 11 = 1 then some (.join (field w 11 5) (field w 16 5))
  else if fld w 0 32 = 4194322 then some .done
  else if fld w 16 16 = 96 then some (.launch (field w 6 5) (field w 11 5))
  else if fld w 21 11 = 4 then some (.widf (field w 6 5) (field w 11 5) (field w 16 5))
  else if fld w 0 11 = 18 ∧ fld w 16 16 = 160 then some (.yield (field w 11 5))
  else none

/-- The words of major opcode 19, ENGINE (R43, R44). -/
noncomputable def decodeEngine (w : Nat) : Option Instr :=
  if fld w 25 7 = 0 then some (.xcopy (field w 6 5) (field w 11 5) (field w 16 5) (field w 21 4))
  else if fld w 25 7 = 1 then some (.xconv (field w 6 5) (field w 11 5) (field w 16 5) (field w 21 4))
  else if fld w 25 7 = 2 then some (.xzip (field w 6 5) (field w 11 5) (field w 16 5) (field w 21 4))
  else if fld w 25 7 = 3 then some (.xexp (field w 6 5) (field w 11 5) (field w 16 5) (field w 21 4))
  else if fld w 25 7 = 4 then some (.xfmt (field w 6 5) (field w 11 5) (field w 16 5) (field w 21 4))
  else if fld w 25 7 = 5 then some (.xtile (field w 6 5) (field w 11 5) (field w 16 5) (field w 21 4))
  else if fld w 25 7 = 6 then some (.xput (field w 6 5) (field w 11 5) (field w 16 5) (field w 21 4))
  else if fld w 25 7 = 7 then some (.xget (field w 6 5) (field w 11 5) (field w 16 5) (field w 21 4))
  else none

/-- The words of major opcode 20, SWEEP (R43, R44). -/
noncomputable def decodeSweep (w : Nat) : Option Instr :=
  if fld w 0 12 = 20 ∧ fld w 19 13 = 0 then some (.tdecl (field w 12 5) (field w 17 2))
  else if fld w 19 13 = 128 then some (.sweep (field w 6 6) (field w 12 5) (field w 17 2))
  else if fld w 0 17 = 20 ∧ fld w 19 13 = 256 then some (.snext (field w 17 2))
  else if fld w 11 1 = 0 ∧ fld w 15 2 = 0 ∧ fld w 19 13 = 384 then some (.swait (field w 6 5) (field w 12 3) (field w 17 2))
  else if fld w 11 6 = 0 ∧ fld w 19 13 = 512 then some (.wake (field w 6 5) (field w 17 2))
  else if fld w 15 2 = 0 ∧ fld w 19 13 = 640 then some (.vwake (field w 6 6) (field w 12 3) (field w 17 2))
  else if fld w 11 6 = 0 ∧ fld w 19 13 = 768 then some (.sctlRange (field w 6 5) (field w 17 2))
  else if fld w 11 6 = 2 ∧ fld w 19 13 = 768 then some (.sctlStat (field w 6 5) (field w 17 2))
  else if fld w 11 6 = 4 ∧ fld w 19 13 = 768 then some (.sctlAbort (field w 6 5) (field w 17 2))
  else if fld w 11 6 = 6 ∧ fld w 19 13 = 768 then some (.sctlRel (field w 6 5) (field w 17 2))
  else none

/-- The words of major opcode 21, KV (R43, R44). -/
noncomputable def decodeKv (w : Nat) : Option Instr :=
  if fld w 21 11 = 0 then some (.pfxmatch (field w 6 5) (field w 11 5) (field w 16 5))
  else if fld w 21 11 = 1 then some (.pfxins (field w 6 5) (field w 11 5) (field w 16 5))
  else if fld w 21 11 = 2 then some (.pfxrel (field w 6 5) (field w 11 5) (field w 16 5))
  else if fld w 21 11 = 3 then some (.kvalloc (field w 6 5) (field w 11 5) (field w 16 5))
  else if fld w 21 11 = 4 then some (.kvappend (field w 6 5) (field w 11 5) (field w 16 5))
  else if fld w 21 11 = 5 then some (.kvcommit (field w 6 5) (field w 11 5) (field w 16 5))
  else if fld w 16 16 = 192 then some (.kvreject (field w 6 5) (field w 11 5))
  else if fld w 21 11 = 7 then some (.kvxlat (field w 6 5) (field w 11 5) (field w 16 5))
  else if fld w 21 11 = 8 then some (.kvscore (field w 6 5) (field w 11 5) (field w 16 5))
  else if fld w 21 11 = 9 then some (.kvcompact (field w 6 5) (field w 11 5) (field w 16 5))
  else none

/-- The words of major opcode 22, WLIST (R43, R44). -/
noncomputable def decodeWlist (w : Nat) : Option Instr :=
  if fld w 11 1 = 0 ∧ fld w 22 10 = 0 then some (.wlpush (field w 6 5) (field w 12 5) (field w 17 5))
  else if fld w 22 10 = 8 then some (.wlpop (field w 6 6) (field w 12 5) (field w 17 5))
  else if fld w 11 1 = 0 ∧ fld w 22 10 = 16 then some (.wlins (field w 6 5) (field w 12 5) (field w 17 5))
  else if fld w 0 12 = 22 ∧ fld w 25 7 = 3 then some (.vcapp (field w 12 5) (field w 17 5) (field w 22 3))
  else none

/-- The words of major opcode 23, SYSTEM (R43, R44). -/
noncomputable def decodeSystem (w : Nat) : Option Instr :=
  if fld w 0 11 = 23 ∧ fld w 16 16 = 0 then some (.trap (field w 11 5))
  else if fld w 0 32 = 2097175 then some .tret
  else if fld w 0 32 = 4194327 then some .wfi
  else if fld w 0 32 = 6291479 then some .ifence
  else if fld w 21 11 = 4 then some (.tlbinv (field w 6 5) (field w 11 5) (field w 16 5))
  else if fld w 0 11 = 23 ∧ fld w 16 16 = 160 then some (.ctxsave (field w 11 5))
  else if fld w 0 11 = 23 ∧ fld w 16 16 = 192 then some (.ctxload (field w 11 5))
  else if fld w 0 32 = 14680087 then some .brk
  else if fld w 0 32 = 16777239 then some .halt
  else if fld w 0 32 = 18874391 then some .uret
  else none

/-- The words of major opcode 24, VCFG (R43, R44). -/
noncomputable def decodeVcfg (w : Nat) : Option Instr :=
  if fld w 16 16 = 0 then some (.vcfg (field w 6 5) (field w 11 5))
  else if fld w 16 16 = 32 then some (.setvl (field w 6 5) (field w 11 5))
  else if fld w 16 16 = 64 then some (.setw (field w 6 5) (field w 11 5))
  else if fld w 21 11 = 3 then some (.setvlrun (field w 6 5) (field w 11 5) (field w 16 5))
  else none

/-- The words of major opcode 25, VARITH (R43, R44). -/
def decodeVarith (w : Nat) : Option Instr :=
  if fld w 27 5 = 0 then some (.vadd (field w 6 6) (field w 12 6) (field w 18 6) (field w 24 3))
  else if fld w 27 5 = 1 then some (.vadc (field w 6 6) (field w 12 6) (field w 18 6) (field w 24 3))
  else if fld w 27 5 = 2 then some (.vsub (field w 6 6) (field w 12 6) (field w 18 6) (field w 24 3))
  else if fld w 27 5 = 3 then some (.vsbc (field w 6 6) (field w 12 6) (field w 18 6) (field w 24 3))
  else if fld w 27 5 = 4 then some (.vmul (field w 6 6) (field w 12 6) (field w 18 6) (field w 24 3))
  else if fld w 27 5 = 5 then some (.vmac (field w 6 6) (field w 12 6) (field w 18 6) (field w 24 3))
  else if fld w 27 5 = 6 then some (.vand (field w 6 6) (field w 12 6) (field w 18 6) (field w 24 3))
  else if fld w 27 5 = 7 then some (.vor (field w 6 6) (field w 12 6) (field w 18 6) (field w 24 3))
  else if fld w 27 5 = 8 then some (.vxor (field w 6 6) (field w 12 6) (field w 18 6) (field w 24 3))
  else if fld w 27 5 = 9 then some (.vsll (field w 6 6) (field w 12 6) (field w 18 6) (field w 24 3))
  else if fld w 27 5 = 10 then some (.vsrl (field w 6 6) (field w 12 6) (field w 18 6) (field w 24 3))
  else if fld w 27 5 = 11 then some (.vsra (field w 6 6) (field w 12 6) (field w 18 6) (field w 24 3))
  else if fld w 18 6 = 0 ∧ fld w 27 5 = 12 then some (.vsat (field w 6 6) (field w 12 6) (field w 24 3))
  else if fld w 27 5 = 13 then some (.vrsra (field w 6 6) (field w 12 6) (field w 18 6) (field w 24 3))
  else if fld w 18 6 = 0 ∧ fld w 27 5 = 14 then some (.vwid (field w 6 6) (field w 12 6) (field w 24 3))
  else if fld w 27 5 = 15 then some (.vsel (field w 6 6) (field w 12 6) (field w 18 6) (field w 24 3))
  else if fld w 18 6 = 0 ∧ fld w 27 5 = 16 then some (.vmv (field w 6 6) (field w 12 6) (field w 24 3))
  else if fld w 27 5 = 17 then some (.vmin (field w 6 6) (field w 12 6) (field w 18 6) (field w 24 3))
  else if fld w 27 5 = 18 then some (.vmax (field w 6 6) (field w 12 6) (field w 18 6) (field w 24 3))
  else if fld w 27 5 = 19 then some (.vminu (field w 6 6) (field w 12 6) (field w 18 6) (field w 24 3))
  else if fld w 27 5 = 20 then some (.vmaxu (field w 6 6) (field w 12 6) (field w 18 6) (field w 24 3))
  else if fld w 12 6 = 0 ∧ fld w 23 1 = 0 ∧ fld w 27 5 = 21 then some (.vbcst (field w 6 6) (field w 18 5) (field w 24 3))
  else if fld w 12 12 = 0 ∧ fld w 27 5 = 22 then some (.vidx (field w 6 6) (field w 24 3))
  else none

/-- The words of major opcode 26, VARITHS (R43, R44). -/
def decodeVariths (w : Nat) : Option Instr :=
  if fld w 23 1 = 0 ∧ fld w 27 5 = 0 then some (.vaddScalar (field w 6 6) (field w 12 6) (field w 18 5) (field w 24 3))
  else if fld w 23 1 = 0 ∧ fld w 27 5 = 1 then some (.vadcScalar (field w 6 6) (field w 12 6) (field w 18 5) (field w 24 3))
  else if fld w 23 1 = 0 ∧ fld w 27 5 = 2 then some (.vsubScalar (field w 6 6) (field w 12 6) (field w 18 5) (field w 24 3))
  else if fld w 23 1 = 0 ∧ fld w 27 5 = 3 then some (.vsbcScalar (field w 6 6) (field w 12 6) (field w 18 5) (field w 24 3))
  else if fld w 23 1 = 0 ∧ fld w 27 5 = 4 then some (.vmulScalar (field w 6 6) (field w 12 6) (field w 18 5) (field w 24 3))
  else if fld w 23 1 = 0 ∧ fld w 27 5 = 5 then some (.vmacScalar (field w 6 6) (field w 12 6) (field w 18 5) (field w 24 3))
  else if fld w 23 1 = 0 ∧ fld w 27 5 = 6 then some (.vandScalar (field w 6 6) (field w 12 6) (field w 18 5) (field w 24 3))
  else if fld w 23 1 = 0 ∧ fld w 27 5 = 7 then some (.vorScalar (field w 6 6) (field w 12 6) (field w 18 5) (field w 24 3))
  else if fld w 23 1 = 0 ∧ fld w 27 5 = 8 then some (.vxorScalar (field w 6 6) (field w 12 6) (field w 18 5) (field w 24 3))
  else if fld w 23 1 = 0 ∧ fld w 27 5 = 9 then some (.vsllScalar (field w 6 6) (field w 12 6) (field w 18 5) (field w 24 3))
  else if fld w 23 1 = 0 ∧ fld w 27 5 = 10 then some (.vsrlScalar (field w 6 6) (field w 12 6) (field w 18 5) (field w 24 3))
  else if fld w 23 1 = 0 ∧ fld w 27 5 = 11 then some (.vsraScalar (field w 6 6) (field w 12 6) (field w 18 5) (field w 24 3))
  else if fld w 23 1 = 0 ∧ fld w 27 5 = 12 then some (.vsatScalar (field w 6 6) (field w 12 6) (field w 18 5) (field w 24 3))
  else if fld w 23 1 = 0 ∧ fld w 27 5 = 13 then some (.vrsraScalar (field w 6 6) (field w 12 6) (field w 18 5) (field w 24 3))
  else if fld w 23 1 = 0 ∧ fld w 27 5 = 17 then some (.vminScalar (field w 6 6) (field w 12 6) (field w 18 5) (field w 24 3))
  else if fld w 23 1 = 0 ∧ fld w 27 5 = 18 then some (.vmaxScalar (field w 6 6) (field w 12 6) (field w 18 5) (field w 24 3))
  else if fld w 23 1 = 0 ∧ fld w 27 5 = 19 then some (.vminuScalar (field w 6 6) (field w 12 6) (field w 18 5) (field w 24 3))
  else if fld w 23 1 = 0 ∧ fld w 27 5 = 20 then some (.vmaxuScalar (field w 6 6) (field w 12 6) (field w 18 5) (field w 24 3))
  else none

/-- The words of major opcode 27, VSHIFTI (R43, R44). -/
def decodeVshifti (w : Nat) : Option Instr :=
  if fld w 27 5 = 9 then some (.vsllImmediate (field w 6 6) (field w 12 6) (field w 18 6) (field w 24 3))
  else if fld w 27 5 = 10 then some (.vsrlImmediate (field w 6 6) (field w 12 6) (field w 18 6) (field w 24 3))
  else if fld w 27 5 = 11 then some (.vsraImmediate (field w 6 6) (field w 12 6) (field w 18 6) (field w 24 3))
  else if fld w 27 5 = 13 then some (.vrsraImmediate (field w 6 6) (field w 12 6) (field w 18 6) (field w 24 3))
  else none

/-- The words of major opcode 28, VCMP (R43, R44). -/
def decodeVcmp (w : Nat) : Option Instr :=
  if fld w 9 3 = 0 ∧ fld w 27 5 = 0 then some (.vseq (field w 6 3) (field w 12 6) (field w 18 6) (field w 24 3))
  else if fld w 9 3 = 0 ∧ fld w 27 5 = 1 then some (.vsne (field w 6 3) (field w 12 6) (field w 18 6) (field w 24 3))
  else if fld w 9 3 = 0 ∧ fld w 27 5 = 2 then some (.vslt (field w 6 3) (field w 12 6) (field w 18 6) (field w 24 3))
  else if fld w 9 3 = 0 ∧ fld w 27 5 = 3 then some (.vsle (field w 6 3) (field w 12 6) (field w 18 6) (field w 24 3))
  else if fld w 9 3 = 0 ∧ fld w 27 5 = 4 then some (.vsltu (field w 6 3) (field w 12 6) (field w 18 6) (field w 24 3))
  else if fld w 9 3 = 0 ∧ fld w 27 5 = 5 then some (.vsleu (field w 6 3) (field w 12 6) (field w 18 6) (field w 24 3))
  else if fld w 9 3 = 0 ∧ fld w 27 5 = 6 then some (.vsgt (field w 6 3) (field w 12 6) (field w 18 6) (field w 24 3))
  else if fld w 9 3 = 0 ∧ fld w 27 5 = 7 then some (.vsgtu (field w 6 3) (field w 12 6) (field w 18 6) (field w 24 3))
  else if fld w 9 3 = 0 ∧ fld w 23 1 = 0 ∧ fld w 27 5 = 16 then some (.vseqScalar (field w 6 3) (field w 12 6) (field w 18 5) (field w 24 3))
  else if fld w 9 3 = 0 ∧ fld w 23 1 = 0 ∧ fld w 27 5 = 17 then some (.vsneScalar (field w 6 3) (field w 12 6) (field w 18 5) (field w 24 3))
  else if fld w 9 3 = 0 ∧ fld w 23 1 = 0 ∧ fld w 27 5 = 18 then some (.vsltScalar (field w 6 3) (field w 12 6) (field w 18 5) (field w 24 3))
  else if fld w 9 3 = 0 ∧ fld w 23 1 = 0 ∧ fld w 27 5 = 19 then some (.vsleScalar (field w 6 3) (field w 12 6) (field w 18 5) (field w 24 3))
  else if fld w 9 3 = 0 ∧ fld w 23 1 = 0 ∧ fld w 27 5 = 20 then some (.vsltuScalar (field w 6 3) (field w 12 6) (field w 18 5) (field w 24 3))
  else if fld w 9 3 = 0 ∧ fld w 23 1 = 0 ∧ fld w 27 5 = 21 then some (.vsleuScalar (field w 6 3) (field w 12 6) (field w 18 5) (field w 24 3))
  else if fld w 9 3 = 0 ∧ fld w 23 1 = 0 ∧ fld w 27 5 = 22 then some (.vsgtScalar (field w 6 3) (field w 12 6) (field w 18 5) (field w 24 3))
  else if fld w 9 3 = 0 ∧ fld w 23 1 = 0 ∧ fld w 27 5 = 23 then some (.vsgtuScalar (field w 6 3) (field w 12 6) (field w 18 5) (field w 24 3))
  else none

/-- The words of major opcode 29, MASK (R43, R44). -/
def decodeMask (w : Nat) : Option Instr :=
  if fld w 15 17 = 0 then some (.mand (field w 6 3) (field w 9 3) (field w 12 3))
  else if fld w 15 17 = 2048 then some (.mor (field w 6 3) (field w 9 3) (field w 12 3))
  else if fld w 15 17 = 4096 then some (.mxor (field w 6 3) (field w 9 3) (field w 12 3))
  else if fld w 15 17 = 6144 then some (.mandn (field w 6 3) (field w 9 3) (field w 12 3))
  else if fld w 12 20 = 65536 then some (.mnot (field w 6 3) (field w 9 3))
  else if fld w 12 3 = 0 ∧ fld w 20 12 = 320 then some (.mslide (field w 6 3) (field w 9 3) (field w 15 5))
  else if fld w 0 9 = 29 ∧ fld w 12 3 = 0 ∧ fld w 20 12 = 384 then some (.vfirst (field w 9 3) (field w 15 5))
  else if fld w 0 9 = 29 ∧ fld w 12 3 = 0 ∧ fld w 20 12 = 448 then some (.vlast (field w 9 3) (field w 15 5))
  else if fld w 0 9 = 29 ∧ fld w 12 3 = 0 ∧ fld w 20 12 = 512 then some (.mcnt (field w 9 3) (field w 15 5))
  else if fld w 12 20 = 147456 then some (.mmv (field w 6 3) (field w 9 3))
  else none

/-- The words of major opcode 30, VRED (R43, R44). -/
def decodeVred (w : Nat) : Option Instr :=
  if fld w 11 1 = 0 ∧ fld w 18 6 = 0 ∧ fld w 27 5 = 0 then some (.vredsum (field w 6 5) (field w 12 6) (field w 24 3))
  else if fld w 11 1 = 0 ∧ fld w 18 6 = 0 ∧ fld w 27 5 = 1 then some (.vredsumu (field w 6 5) (field w 12 6) (field w 24 3))
  else if fld w 11 1 = 0 ∧ fld w 18 6 = 0 ∧ fld w 27 5 = 2 then some (.vredmin (field w 6 5) (field w 12 6) (field w 24 3))
  else if fld w 11 1 = 0 ∧ fld w 18 6 = 0 ∧ fld w 27 5 = 3 then some (.vredmax (field w 6 5) (field w 12 6) (field w 24 3))
  else if fld w 11 1 = 0 ∧ fld w 18 6 = 0 ∧ fld w 27 5 = 4 then some (.vredminu (field w 6 5) (field w 12 6) (field w 24 3))
  else if fld w 11 1 = 0 ∧ fld w 18 6 = 0 ∧ fld w 27 5 = 5 then some (.vredmaxu (field w 6 5) (field w 12 6) (field w 24 3))
  else if fld w 11 1 = 0 ∧ fld w 18 6 = 0 ∧ fld w 27 5 = 6 then some (.vredand (field w 6 5) (field w 12 6) (field w 24 3))
  else if fld w 11 1 = 0 ∧ fld w 18 6 = 0 ∧ fld w 27 5 = 7 then some (.vredor (field w 6 5) (field w 12 6) (field w 24 3))
  else if fld w 11 1 = 0 ∧ fld w 18 6 = 0 ∧ fld w 27 5 = 8 then some (.vredxor (field w 6 5) (field w 12 6) (field w 24 3))
  else none

/-- The words of major opcode 31, VPERM (R43, R44). -/
def decodeVperm (w : Nat) : Option Instr :=
  if fld w 27 5 = 0 then some (.vperm (field w 6 6) (field w 12 6) (field w 18 6) (field w 24 3))
  else if fld w 23 1 = 0 ∧ fld w 27 5 = 1 then some (.vslup (field w 6 6) (field w 12 6) (field w 18 5) (field w 24 3))
  else if fld w 23 1 = 0 ∧ fld w 27 5 = 2 then some (.vsldn (field w 6 6) (field w 12 6) (field w 18 5) (field w 24 3))
  else if fld w 18 6 = 0 ∧ fld w 27 5 = 3 then some (.vcomp (field w 6 6) (field w 12 6) (field w 24 3))
  else if fld w 18 6 = 0 ∧ fld w 27 5 = 4 then some (.vexpd (field w 6 6) (field w 12 6) (field w 24 3))
  else none

/-- The words of major opcode 32, VLOAD (R43, R44). -/
def decodeVload (w : Nat) : Option Instr :=
  if fld w 17 6 = 0 ∧ fld w 29 3 = 0 then some (.vld (field w 6 6) (field w 12 5) (field w 23 3) (field w 26 3))
  else if fld w 22 1 = 0 ∧ fld w 29 3 = 1 then some (.vlds (field w 6 6) (field w 12 5) (field w 17 5) (field w 23 3) (field w 26 3))
  else if fld w 29 3 = 2 then some (.vldx (field w 6 6) (field w 12 5) (field w 17 6) (field w 23 3) (field w 26 3))
  else if fld w 17 6 = 0 ∧ fld w 29 3 = 3 then some (.vldff (field w 6 6) (field w 12 5) (field w 23 3) (field w 26 3))
  else if fld w 29 3 = 4 then some (.hgath (field w 6 6) (field w 12 5) (field w 17 6) (field w 23 3) (field w 26 3))
  else none

/-- The words of major opcode 33, VSTORE (R43, R44). -/
def decodeVstore (w : Nat) : Option Instr :=
  if fld w 17 6 = 0 ∧ fld w 29 3 = 0 then some (.vst (field w 6 6) (field w 12 5) (field w 23 3) (field w 26 3))
  else if fld w 22 1 = 0 ∧ fld w 29 3 = 1 then some (.vsts (field w 6 6) (field w 12 5) (field w 17 5) (field w 23 3) (field w 26 3))
  else if fld w 29 3 = 2 then some (.vstx (field w 6 6) (field w 12 5) (field w 17 6) (field w 23 3) (field w 26 3))
  else if fld w 29 3 = 3 then some (.vscadd (field w 6 6) (field w 12 5) (field w 17 6) (field w 23 3) (field w 26 3))
  else none

/-- The words of major opcode 35, WFP (R43, R44). -/
def decodeWfp (w : Nat) : Option Instr :=
  if fld w 21 11 = 0 then some (.wadd (field w 6 5) (field w 11 5) (field w 16 5))
  else if fld w 21 11 = 32 then some (.wsub (field w 6 5) (field w 11 5) (field w 16 5))
  else if fld w 21 11 = 64 then some (.wmul (field w 6 5) (field w 11 5) (field w 16 5))
  else if fld w 26 6 = 3 then some (.wfma (field w 6 5) (field w 11 5) (field w 16 5) (field w 21 5))
  else if fld w 26 6 = 4 then some (.wfms (field w 6 5) (field w 11 5) (field w 16 5) (field w 21 5))
  else if fld w 26 6 = 5 then some (.wfnma (field w 6 5) (field w 11 5) (field w 16 5) (field w 21 5))
  else if fld w 21 11 = 192 then some (.wdiv (field w 6 5) (field w 11 5) (field w 16 5))
  else if fld w 16 16 = 7168 then some (.wsqrt (field w 6 5) (field w 11 5))
  else if fld w 21 11 = 256 then some (.wmin (field w 6 5) (field w 11 5) (field w 16 5))
  else if fld w 21 11 = 288 then some (.wmax (field w 6 5) (field w 11 5) (field w 16 5))
  else if fld w 16 16 = 10240 then some (.wabs (field w 6 5) (field w 11 5))
  else if fld w 16 16 = 11264 then some (.wneg (field w 6 5) (field w 11 5))
  else if fld w 21 11 = 384 then some (.weq (field w 6 5) (field w 11 5) (field w 16 5))
  else if fld w 21 11 = 416 then some (.wlt (field w 6 5) (field w 11 5) (field w 16 5))
  else if fld w 21 11 = 448 then some (.wle (field w 6 5) (field w 11 5) (field w 16 5))
  else if fld w 26 6 = 15 then some (.wsel (field w 6 5) (field w 11 5) (field w 16 5) (field w 21 5))
  else if fld w 16 16 = 16384 then some (.wmv (field w 6 5) (field w 11 5))
  else none

/-- The words of major opcode 36, WFUNC (R43, R44). -/
def decodeWfunc (w : Nat) : Option Instr :=
  if fld w 16 16 = 0 then some (.wexp (field w 6 5) (field w 11 5))
  else if fld w 16 16 = 1024 then some (.wexp2 (field w 6 5) (field w 11 5))
  else if fld w 16 16 = 2048 then some (.wlog (field w 6 5) (field w 11 5))
  else if fld w 16 16 = 3072 then some (.wlog2 (field w 6 5) (field w 11 5))
  else if fld w 16 16 = 4096 then some (.wrcp (field w 6 5) (field w 11 5))
  else if fld w 16 16 = 5120 then some (.wrsq (field w 6 5) (field w 11 5))
  else if fld w 16 16 = 6144 then some (.wtanh (field w 6 5) (field w 11 5))
  else if fld w 16 16 = 7168 then some (.wsig (field w 6 5) (field w 11 5))
  else if fld w 16 16 = 8192 then some (.wsin (field w 6 5) (field w 11 5))
  else if fld w 16 16 = 9216 then some (.wcos (field w 6 5) (field w 11 5))
  else none

/-- The words of major opcode 37, WRED (R43, R44). -/
def decodeWred (w : Nat) : Option Instr :=
  if fld w 26 6 = 0 then some (.wredsum (field w 6 5) (field w 11 5) (field w 16 5) (field w 21 5))
  else if fld w 26 6 = 1 then some (.wredmax (field w 6 5) (field w 11 5) (field w 16 5) (field w 21 5))
  else if fld w 26 6 = 2 then some (.wredmin (field w 6 5) (field w 11 5) (field w 16 5) (field w 21 5))
  else if fld w 26 6 = 3 then some (.iscan (field w 6 5) (field w 11 5) (field w 16 5) (field w 21 5))
  else if fld w 26 6 = 4 then some (.fscan (field w 6 5) (field w 11 5) (field w 16 5) (field w 21 5))
  else if fld w 26 6 = 5 then some (.wtopk (field w 6 5) (field w 11 5) (field w 16 5) (field w 21 5))
  else if fld w 26 6 = 6 then some (.wsmx (field w 6 5) (field w 11 5) (field w 16 5) (field w 21 5))
  else if fld w 26 6 = 7 then some (.wscl (field w 6 5) (field w 11 5) (field w 16 5) (field w 21 5))
  else if fld w 26 6 = 8 then some (.smerge (field w 6 5) (field w 11 5) (field w 16 5) (field w 21 5))
  else none

/-- The words of major opcode 38, WCVT (R43, R44). -/
def decodeWcvt (w : Nat) : Option Instr :=
  if fld w 26 6 = 0 then some (.wcvt (field w 6 5) (field w 11 5) (field w 16 5) (field w 21 5))
  else if fld w 26 6 = 1 then some (.wcvti (field w 6 5) (field w 11 5) (field w 16 5) (field w 21 5))
  else if fld w 26 6 = 2 then some (.wcvtf (field w 6 5) (field w 11 5) (field w 16 5) (field w 21 5))
  else if fld w 26 6 = 3 then some (.wpkmx (field w 6 5) (field w 11 5) (field w 16 5) (field w 21 5))
  else if fld w 26 6 = 4 then some (.wupmx (field w 6 5) (field w 11 5) (field w 16 5) (field w 21 5))
  else none

/-- The words of major opcode 39, WMOVE (R43, R44). -/
def decodeWmove (w : Nat) : Option Instr :=
  if fld w 17 2 = 0 ∧ fld w 24 8 = 0 then some (.wmvv (field w 6 5) (field w 11 6) (field w 19 5))
  else if fld w 17 2 = 0 ∧ fld w 24 8 = 4 then some (.vmvw (field w 6 5) (field w 11 6) (field w 19 5))
  else if fld w 11 6 = 0 ∧ fld w 24 8 = 8 then some (.wmva (field w 6 5) (field w 17 2) (field w 19 5))
  else if fld w 11 6 = 0 ∧ fld w 24 8 = 12 then some (.amvw (field w 6 5) (field w 17 2) (field w 19 5))
  else none

/-- The words of major opcode 40, MATRIX (R43, R44). -/
def decodeMatrix (w : Nat) : Option Instr :=
  if fld w 0 8 = 40 ∧ fld w 25 7 = 0 then some (.vdot (field w 8 1) (field w 9 6) (field w 15 5) (field w 20 5))
  else if fld w 0 8 = 40 ∧ fld w 14 1 = 0 ∧ fld w 25 7 = 1 then some (.mgath (field w 8 1) (field w 9 5) (field w 15 5) (field w 20 5))
  else if fld w 0 8 = 40 ∧ fld w 14 1 = 0 ∧ fld w 25 7 = 2 then some (.mgathc (field w 8 1) (field w 9 5) (field w 15 5) (field w 20 5))
  else if fld w 20 12 = 96 then some (.mmac (field w 6 2) (field w 8 1) (field w 9 6) (field w 15 5))
  else if fld w 8 24 = 524288 then some (.mzeroI32 (field w 6 2))
  else if fld w 8 24 = 528384 then some (.mzeroF32 (field w 6 2))
  else if fld w 8 24 = 655360 then some (.mpro (field w 6 2))
  else if fld w 0 8 = 40 ∧ fld w 9 11 = 0 ∧ fld w 25 7 = 6 then some (.msclRs (field w 8 1) (field w 20 5))
  else if fld w 0 8 = 40 ∧ fld w 9 11 = 64 ∧ fld w 25 7 = 6 then some (.msclRe (field w 8 1) (field w 20 5))
  else if fld w 8 12 = 256 ∧ fld w 25 7 = 6 then some (.msclCs (field w 6 2) (field w 20 5))
  else if fld w 8 12 = 384 ∧ fld w 25 7 = 6 then some (.msclCe (field w 6 2) (field w 20 5))
  else if fld w 8 12 = 512 ∧ fld w 25 7 = 6 then some (.msclOl (field w 6 2) (field w 20 5))
  else if fld w 8 1 = 0 ∧ fld w 14 1 = 0 ∧ fld w 20 12 = 224 then some (.mldI32 (field w 6 2) (field w 9 5) (field w 15 5))
  else if fld w 8 1 = 0 ∧ fld w 14 1 = 0 ∧ fld w 20 12 = 225 then some (.mldF32 (field w 6 2) (field w 9 5) (field w 15 5))
  else if fld w 8 1 = 0 ∧ fld w 14 1 = 0 ∧ fld w 20 12 = 256 then some (.mst (field w 6 2) (field w 9 5) (field w 15 5))
  else if fld w 0 8 = 40 ∧ fld w 9 11 = 0 ∧ fld w 25 7 = 9 then some (.mstatBank (field w 8 1) (field w 20 5))
  else if fld w 8 12 = 128 ∧ fld w 25 7 = 9 then some (.mstatTile (field w 6 2) (field w 20 5))
  else none

/-- The words of major opcode 62, HINT (R43, R44). -/
def decodeHint (w : Nat) : Option Instr :=
  if fld w 0 10 = 62 then some (.hint (field w 10 22))
  else if fld w 0 10 = 126 then some (.pfch (field w 10 5) (field w 15 17))
  else if fld w 0 10 = 190 then some (.pfl2 (field w 10 5) (field w 15 17))
  else some (.hintKind (field w 6 4) (field w 10 22))

/-- The words of major opcode 63, FRAME (R43, R44). -/
noncomputable def decodeFrame (w : Nat) : Option Instr :=
  if fld w 0 32 = 63 then some .nop
  else if fld w 0 10 = 127 then some (.rpt (field w 10 4) (field w 14 8) (field w 22 3) (field w 25 2) (field w 27 5))
  else none

/-- The instruction that a word of a repeat frame's permitted opcodes encodes (R43, R44, R55). -/
def decodeBodyRaw (w : Nat) : Option Instr :=
  if fld w 0 6 = 1 then decodeOps w
  else if fld w 0 6 = 2 then decodeOpsi w
  else if fld w 0 6 = 3 then decodeMuldiv w
  else if fld w 0 6 = 4 then decodeBits w
  else if fld w 0 6 = 5 then decodeLhi w
  else if fld w 0 6 = 6 then decodePcrel w
  else if fld w 0 6 = 7 then decodeImmh w
  else if fld w 0 6 = 8 then decodeLoad w
  else if fld w 0 6 = 9 then decodeStore w
  else if fld w 0 6 = 10 then decodeAtom w
  else if fld w 0 6 = 25 then decodeVarith w
  else if fld w 0 6 = 26 then decodeVariths w
  else if fld w 0 6 = 27 then decodeVshifti w
  else if fld w 0 6 = 28 then decodeVcmp w
  else if fld w 0 6 = 29 then decodeMask w
  else if fld w 0 6 = 30 then decodeVred w
  else if fld w 0 6 = 31 then decodeVperm w
  else if fld w 0 6 = 32 then decodeVload w
  else if fld w 0 6 = 33 then decodeVstore w
  else if fld w 0 6 = 35 then decodeWfp w
  else if fld w 0 6 = 36 then decodeWfunc w
  else if fld w 0 6 = 37 then decodeWred w
  else if fld w 0 6 = 38 then decodeWcvt w
  else if fld w 0 6 = 39 then decodeWmove w
  else if fld w 0 6 = 40 then decodeMatrix w
  else if fld w 0 6 = 62 then decodeHint w
  else if fld w 0 32 = 63 then some .nop
  else none

/-- The instruction a word encodes by the opcode map alone (R43, R44), before the conditions of `Instr.wf`. -/
noncomputable def decodeRaw (w : Nat) : Option Instr :=
  if fld w 0 6 = 11 then decodeCsr w
  else if fld w 0 6 = 12 then decodeBranch w
  else if fld w 0 6 = 13 then decodeJal w
  else if fld w 0 6 = 14 then decodeJalr w
  else if fld w 0 6 = 15 then decodeLoop w
  else if fld w 0 6 = 16 then decodeStrip w
  else if fld w 0 6 = 17 then decodeSync w
  else if fld w 0 6 = 18 then decodeWork w
  else if fld w 0 6 = 19 then decodeEngine w
  else if fld w 0 6 = 20 then decodeSweep w
  else if fld w 0 6 = 21 then decodeKv w
  else if fld w 0 6 = 22 then decodeWlist w
  else if fld w 0 6 = 23 then decodeSystem w
  else if fld w 0 6 = 24 then decodeVcfg w
  else if fld w 0 6 = 63 then decodeFrame w
  else decodeBodyRaw w

/-- The instruction, where it meets the conditions of `Instr.wf` (R41, R45). -/
def wellFormed (i : Option Instr) : Option Instr :=
  match i with
  | none => none
  | some i => if i.wf then some i else none

/-- The instruction a word of a repeat frame stands for; none when the word may not stand there (R45, R55). -/
def decodeBody (w : Nat) : Option Instr := wellFormed (decodeBodyRaw w)

/-- The instruction an instruction word stands for; none when the word is an illegal encoding (R45). -/
noncomputable def decode (w : Nat) : Option Instr := wellFormed (decodeRaw w)

/-- The word of an instruction, built from the formats (R40, R44); none for an event, which has no word. -/
def encode : Instr → Option Nat
  | .add d a b => some (1 + d.toNat * 64 + a.toNat * 2048 + b.toNat * 65536)
  | .sub d a b => some (2097153 + d.toNat * 64 + a.toNat * 2048 + b.toNat * 65536)
  | .and d a b => some (4194305 + d.toNat * 64 + a.toNat * 2048 + b.toNat * 65536)
  | .or d a b => some (6291457 + d.toNat * 64 + a.toNat * 2048 + b.toNat * 65536)
  | .xor d a b => some (8388609 + d.toNat * 64 + a.toNat * 2048 + b.toNat * 65536)
  | .andn d a b => some (10485761 + d.toNat * 64 + a.toNat * 2048 + b.toNat * 65536)
  | .shl d a b => some (12582913 + d.toNat * 64 + a.toNat * 2048 + b.toNat * 65536)
  | .shrl d a b => some (14680065 + d.toNat * 64 + a.toNat * 2048 + b.toNat * 65536)
  | .shra d a b => some (16777217 + d.toNat * 64 + a.toNat * 2048 + b.toNat * 65536)
  | .cmplt d a b => some (18874369 + d.toNat * 64 + a.toNat * 2048 + b.toNat * 65536)
  | .cmpltu d a b => some (20971521 + d.toNat * 64 + a.toNat * 2048 + b.toNat * 65536)
  | .min d a b => some (23068673 + d.toNat * 64 + a.toNat * 2048 + b.toNat * 65536)
  | .max d a b => some (25165825 + d.toNat * 64 + a.toNat * 2048 + b.toNat * 65536)
  | .minu d a b => some (27262977 + d.toNat * 64 + a.toNat * 2048 + b.toNat * 65536)
  | .maxu d a b => some (29360129 + d.toNat * 64 + a.toNat * 2048 + b.toNat * 65536)
  | .cmpeq d a b => some (31457281 + d.toNat * 64 + a.toNat * 2048 + b.toNat * 65536)
  | .addi d a i => some (2 + d.toNat * 64 + a.toNat * 2048 + i.toNat * 524288)
  | .cmplti d a i => some (65538 + d.toNat * 64 + a.toNat * 2048 + i.toNat * 524288)
  | .cmpltiu d a i => some (131074 + d.toNat * 64 + a.toNat * 2048 + i.toNat * 524288)
  | .andi d a i => some (196610 + d.toNat * 64 + a.toNat * 2048 + i.toNat * 524288)
  | .ori d a i => some (262146 + d.toNat * 64 + a.toNat * 2048 + i.toNat * 524288)
  | .xori d a i => some (327682 + d.toNat * 64 + a.toNat * 2048 + i.toNat * 524288)
  | .cmpeqi d a i => some (458754 + d.toNat * 64 + a.toNat * 2048 + i.toNat * 524288)
  | .shli d a n => some (393218 + d.toNat * 64 + a.toNat * 2048 + n.toNat * 524288)
  | .shrli d a n => some (33947650 + d.toNat * 64 + a.toNat * 2048 + n.toNat * 524288)
  | .shrai d a n => some (67502082 + d.toNat * 64 + a.toNat * 2048 + n.toNat * 524288)
  | .mul d a b => some (3 + d.toNat * 64 + a.toNat * 2048 + b.toNat * 65536)
  | .mulhSs d a b => some (2097155 + d.toNat * 64 + a.toNat * 2048 + b.toNat * 65536)
  | .mulhUu d a b => some (4194307 + d.toNat * 64 + a.toNat * 2048 + b.toNat * 65536)
  | .mulhSu d a b => some (6291459 + d.toNat * 64 + a.toNat * 2048 + b.toNat * 65536)
  | .divs d a b => some (8388611 + d.toNat * 64 + a.toNat * 2048 + b.toNat * 65536)
  | .divu d a b => some (10485763 + d.toNat * 64 + a.toNat * 2048 + b.toNat * 65536)
  | .mods d a b => some (12582915 + d.toNat * 64 + a.toNat * 2048 + b.toNat * 65536)
  | .modu d a b => some (14680067 + d.toNat * 64 + a.toNat * 2048 + b.toNat * 65536)
  | .clz d a => some (4 + d.toNat * 64 + a.toNat * 2048)
  | .ctz d a => some (2097156 + d.toNat * 64 + a.toNat * 2048)
  | .cpop d a => some (4194308 + d.toNat * 64 + a.toNat * 2048)
  | .brev d a => some (6291460 + d.toNat * 64 + a.toNat * 2048)
  | .bfx d a b => some (8388612 + d.toNat * 64 + a.toNat * 2048 + b.toNat * 65536)
  | .bfxu d a b => some (10485764 + d.toNat * 64 + a.toNat * 2048 + b.toNat * 65536)
  | .bfi d a b => some (12582916 + d.toNat * 64 + a.toNat * 2048 + b.toNat * 65536)
  | .lhi d i => some (5 + d.toNat * 64 + i.toNat * 2048)
  | .pcrel d i => some (6 + d.toNat * 64 + i.toNat * 2048)
  | .ihz d h i => some (7 + d.toNat * 64 + h.toNat * 2048 + i.toNat * 65536)
  | .ihk d h i => some (8199 + d.toNat * 64 + h.toNat * 2048 + i.toNat * 65536)
  | .ihs d h i => some (16391 + d.toNat * 64 + h.toNat * 2048 + i.toNat * 65536)
  | .lb d a o => some (8 + d.toNat * 64 + a.toNat * 2048 + o.toNat * 524288)
  | .lh d a o => some (65544 + d.toNat * 64 + a.toNat * 2048 + o.toNat * 524288)
  | .lw d a o => some (131080 + d.toNat * 64 + a.toNat * 2048 + o.toNat * 524288)
  | .ld d a o => some (196616 + d.toNat * 64 + a.toNat * 2048 + o.toNat * 524288)
  | .lbu d a o => some (262152 + d.toNat * 64 + a.toNat * 2048 + o.toNat * 524288)
  | .lhu d a o => some (327688 + d.toNat * 64 + a.toNat * 2048 + o.toNat * 524288)
  | .lwu d a o => some (393224 + d.toNat * 64 + a.toNat * 2048 + o.toNat * 524288)
  | .sb d a o => some (9 + d.toNat * 64 + a.toNat * 2048 + o.toNat * 524288)
  | .sh d a o => some (65545 + d.toNat * 64 + a.toNat * 2048 + o.toNat * 524288)
  | .sw d a o => some (131081 + d.toNat * 64 + a.toNat * 2048 + o.toNat * 524288)
  | .sd d a o => some (196617 + d.toNat * 64 + a.toNat * 2048 + o.toNat * 524288)
  | .atswp d a b s z => some (10 + d.toNat * 64 + a.toNat * 2048 + b.toNat * 65536 + s.toNat * 67108864 + z.toNat * 268435456)
  | .atadd d a b s z => some (2097162 + d.toNat * 64 + a.toNat * 2048 + b.toNat * 65536 + s.toNat * 67108864 + z.toNat * 268435456)
  | .atand d a b s z => some (4194314 + d.toNat * 64 + a.toNat * 2048 + b.toNat * 65536 + s.toNat * 67108864 + z.toNat * 268435456)
  | .ator d a b s z => some (6291466 + d.toNat * 64 + a.toNat * 2048 + b.toNat * 65536 + s.toNat * 67108864 + z.toNat * 268435456)
  | .atxor d a b s z => some (8388618 + d.toNat * 64 + a.toNat * 2048 + b.toNat * 65536 + s.toNat * 67108864 + z.toNat * 268435456)
  | .atmin d a b s z => some (10485770 + d.toNat * 64 + a.toNat * 2048 + b.toNat * 65536 + s.toNat * 67108864 + z.toNat * 268435456)
  | .atmax d a b s z => some (12582922 + d.toNat * 64 + a.toNat * 2048 + b.toNat * 65536 + s.toNat * 67108864 + z.toNat * 268435456)
  | .atminu d a b s z => some (14680074 + d.toNat * 64 + a.toNat * 2048 + b.toNat * 65536 + s.toNat * 67108864 + z.toNat * 268435456)
  | .atmaxu d a b s z => some (16777226 + d.toNat * 64 + a.toNat * 2048 + b.toNat * 65536 + s.toNat * 67108864 + z.toNat * 268435456)
  | .atcas d a b s z => some (18874378 + d.toNat * 64 + a.toNat * 2048 + b.toNat * 65536 + s.toNat * 67108864 + z.toNat * 268435456)
  | .crd d c => some (11 + d.toNat * 64 + c.toNat * 1048576)
  | .cwr d a c => some (65547 + d.toNat * 64 + a.toNat * 2048 + c.toNat * 1048576)
  | .cset d a c => some (131083 + d.toNat * 64 + a.toNat * 2048 + c.toNat * 1048576)
  | .cclr d a c => some (196619 + d.toNat * 64 + a.toNat * 2048 + c.toNat * 1048576)
  | .cwri d i c => some (262155 + d.toNat * 64 + i.toNat * 2048 + c.toNat * 1048576)
  | .cseti d i c => some (327691 + d.toNat * 64 + i.toNat * 2048 + c.toNat * 1048576)
  | .cclri d i c => some (393227 + d.toNat * 64 + i.toNat * 2048 + c.toNat * 1048576)
  | .beq a b o => some (12 + a.toNat * 64 + b.toNat * 2048 + o.toNat * 524288)
  | .bne a b o => some (65548 + a.toNat * 64 + b.toNat * 2048 + o.toNat * 524288)
  | .blt a b o => some (131084 + a.toNat * 64 + b.toNat * 2048 + o.toNat * 524288)
  | .bge a b o => some (196620 + a.toNat * 64 + b.toNat * 2048 + o.toNat * 524288)
  | .bltu a b o => some (262156 + a.toNat * 64 + b.toNat * 2048 + o.toNat * 524288)
  | .bgeu a b o => some (327692 + a.toNat * 64 + b.toNat * 2048 + o.toNat * 524288)
  | .jal d o => some (13 + d.toNat * 64 + o.toNat * 2048)
  | .jalr d a i => some (14 + d.toNat * 64 + a.toNat * 2048 + i.toNat * 524288)
  | .loop x i => some (15 + x.toNat * 64 + i.toNat * 32768)
  | .loopr x i => some (4111 + x.toNat * 64 + i.toNat * 32768)
  | .loopv v i => some (8207 + v.toNat * 64 + i.toNat * 32768)
  | .lbrk => some (12303)
  | .lidx d i => some (16399 + d.toNat * 64 + i.toNat * 32768)
  | .sfork => some (16)
  | .sbra m c o => some (2064 + m.toNat * 64 + c.toNat * 512 + o.toNat * 16384)
  | .sloop m c o => some (4112 + m.toNat * 64 + c.toNat * 512 + o.toNat * 16384)
  | .sjoin => some (6160)
  | .stripThreadModeEnd => none
  | .pub s => some (17 + s.toNat * 67108864)
  | .acq s => some (2097169 + s.toNat * 67108864)
  | .phase s => some (4194321 + s.toNat * 67108864)
  | .fence s => some (6291473 + s.toNat * 67108864)
  | .vfence a s => some (8388625 + a.toNat * 2048 + s.toNat * 67108864)
  | .bar a b s => some (10485777 + a.toNat * 2048 + b.toNat * 65536 + s.toNat * 67108864)
  | .tlwait n b => some (12582929 + n.toNat * 2048 + b.toNat * 65536)
  | .tlpoll d n b => some (14680081 + d.toNat * 64 + n.toNat * 2048 + b.toNat * 65536)
  | .tlrd d n => some (16777233 + d.toNat * 64 + n.toNat * 2048)
  | .publication => none
  | .arrival => none
  | .barPass => none
  | .tlwaitPass => none
  | .spawn a b => some (18 + a.toNat * 2048 + b.toNat * 65536)
  | .join a b => some (2097170 + a.toNat * 2048 + b.toNat * 65536)
  | .done => some (4194322)
  | .launch d a => some (6291474 + d.toNat * 64 + a.toNat * 2048)
  | .widf d k b => some (8388626 + d.toNat * 64 + k.toNat * 2048 + b.toNat * 65536)
  | .yield a => some (10485778 + a.toNat * 2048)
  | .xcopy d a b t => some (19 + d.toNat * 64 + a.toNat * 2048 + b.toNat * 65536 + t.toNat * 2097152)
  | .xconv d a b t => some (33554451 + d.toNat * 64 + a.toNat * 2048 + b.toNat * 65536 + t.toNat * 2097152)
  | .xzip d a b t => some (67108883 + d.toNat * 64 + a.toNat * 2048 + b.toNat * 65536 + t.toNat * 2097152)
  | .xexp d a b t => some (100663315 + d.toNat * 64 + a.toNat * 2048 + b.toNat * 65536 + t.toNat * 2097152)
  | .xfmt d a b t => some (134217747 + d.toNat * 64 + a.toNat * 2048 + b.toNat * 65536 + t.toNat * 2097152)
  | .xtile d a b t => some (167772179 + d.toNat * 64 + a.toNat * 2048 + b.toNat * 65536 + t.toNat * 2097152)
  | .xput d a b t => some (201326611 + d.toNat * 64 + a.toNat * 2048 + b.toNat * 65536 + t.toNat * 2097152)
  | .xget d a b t => some (234881043 + d.toNat * 64 + a.toNat * 2048 + b.toNat * 65536 + t.toNat * 2097152)
  | .engineUnit _ => none
  | .commandComplete _ => none
  | .engineFault => none
  | .userLevelInterrupt => none
  | .tdecl a n => some (20 + a.toNat * 4096 + n.toNat * 131072)
  | .sweep e c n => some (67108884 + e.toNat * 64 + c.toNat * 4096 + n.toNat * 131072)
  | .snext n => some (134217748 + n.toNat * 131072)
  | .swait s m n => some (201326612 + s.toNat * 64 + m.toNat * 4096 + n.toNat * 131072)
  | .wake s n => some (268435476 + s.toNat * 64 + n.toNat * 131072)
  | .vwake v m n => some (335544340 + v.toNat * 64 + m.toNat * 4096 + n.toNat * 131072)
  | .sctlRange s n => some (402653204 + s.toNat * 64 + n.toNat * 131072)
  | .sctlStat s n => some (402657300 + s.toNat * 64 + n.toNat * 131072)
  | .sctlAbort s n => some (402661396 + s.toNat * 64 + n.toNat * 131072)
  | .sctlRel s n => some (402665492 + s.toNat * 64 + n.toNat * 131072)
  | .pfxmatch d a b => some (21 + d.toNat * 64 + a.toNat * 2048 + b.toNat * 65536)
  | .pfxins d a b => some (2097173 + d.toNat * 64 + a.toNat * 2048 + b.toNat * 65536)
  | .pfxrel d a b => some (4194325 + d.toNat * 64 + a.toNat * 2048 + b.toNat * 65536)
  | .kvalloc d a b => some (6291477 + d.toNat * 64 + a.toNat * 2048 + b.toNat * 65536)
  | .kvappend d a b => some (8388629 + d.toNat * 64 + a.toNat * 2048 + b.toNat * 65536)
  | .kvcommit d a b => some (10485781 + d.toNat * 64 + a.toNat * 2048 + b.toNat * 65536)
  | .kvreject d a => some (12582933 + d.toNat * 64 + a.toNat * 2048)
  | .kvxlat d a b => some (14680085 + d.toNat * 64 + a.toNat * 2048 + b.toNat * 65536)
  | .kvscore d a b => some (16777237 + d.toNat * 64 + a.toNat * 2048 + b.toNat * 65536)
  | .kvcompact d a b => some (18874389 + d.toNat * 64 + a.toNat * 2048 + b.toNat * 65536)
  | .barchanOperation => none
  | .barchanResult => none
  | .clockStep => none
  | .wlpush d a b => some (22 + d.toNat * 64 + a.toNat * 4096 + b.toNat * 131072)
  | .wlpop v a b => some (33554454 + v.toNat * 64 + a.toNat * 4096 + b.toNat * 131072)
  | .wlins d a b => some (67108886 + d.toNat * 64 + a.toNat * 4096 + b.toNat * 131072)
  | .vcapp a b m => some (100663318 + a.toNat * 4096 + b.toNat * 131072 + m.toNat * 4194304)
  | .windowTransfer _ => none
  | .trap k => some (23 + k.toNat * 2048)
  | .tret => some (2097175)
  | .wfi => some (4194327)
  | .ifence => some (6291479)
  | .tlbinv d a b => some (8388631 + d.toNat * 64 + a.toNat * 2048 + b.toNat * 65536)
  | .ctxsave a => some (10485783 + a.toNat * 2048)
  | .ctxload a => some (12582935 + a.toNat * 2048)
  | .brk => some (14680087)
  | .halt => some (16777239)
  | .uret => some (18874391)
  | .illegalEncoding _ => none
  | .stepBreakpoint => none
  | .timerInterrupt => none
  | .preemptionTrap => none
  | .forcedPreemption => none
  | .schedulerPreemptionRequest => none
  | .wfiWake => none
  | .wfiTimeout => none
  | .vcfg d a => some (24 + d.toNat * 64 + a.toNat * 2048)
  | .setvl d a => some (2097176 + d.toNat * 64 + a.toNat * 2048)
  | .setw d a => some (4194328 + d.toNat * 64 + a.toNat * 2048)
  | .setvlrun d a b => some (6291480 + d.toNat * 64 + a.toNat * 2048 + b.toNat * 65536)
  | .vadd d a b m => some (25 + d.toNat * 64 + a.toNat * 4096 + b.toNat * 262144 + m.toNat * 16777216)
  | .vadc d a b c => some (134217753 + d.toNat * 64 + a.toNat * 4096 + b.toNat * 262144 + c.toNat * 16777216)
  | .vsub d a b m => some (268435481 + d.toNat * 64 + a.toNat * 4096 + b.toNat * 262144 + m.toNat * 16777216)
  | .vsbc d a b c => some (402653209 + d.toNat * 64 + a.toNat * 4096 + b.toNat * 262144 + c.toNat * 16777216)
  | .vmul d a b m => some (536870937 + d.toNat * 64 + a.toNat * 4096 + b.toNat * 262144 + m.toNat * 16777216)
  | .vmac d a b m => some (671088665 + d.toNat * 64 + a.toNat * 4096 + b.toNat * 262144 + m.toNat * 16777216)
  | .vand d a b m => some (805306393 + d.toNat * 64 + a.toNat * 4096 + b.toNat * 262144 + m.toNat * 16777216)
  | .vor d a b m => some (939524121 + d.toNat * 64 + a.toNat * 4096 + b.toNat * 262144 + m.toNat * 16777216)
  | .vxor d a b m => some (1073741849 + d.toNat * 64 + a.toNat * 4096 + b.toNat * 262144 + m.toNat * 16777216)
  | .vsll d a b m => some (1207959577 + d.toNat * 64 + a.toNat * 4096 + b.toNat * 262144 + m.toNat * 16777216)
  | .vsrl d a b m => some (1342177305 + d.toNat * 64 + a.toNat * 4096 + b.toNat * 262144 + m.toNat * 16777216)
  | .vsra d a b m => some (1476395033 + d.toNat * 64 + a.toNat * 4096 + b.toNat * 262144 + m.toNat * 16777216)
  | .vsat d a m => some (1610612761 + d.toNat * 64 + a.toNat * 4096 + m.toNat * 16777216)
  | .vrsra d a b m => some (1744830489 + d.toNat * 64 + a.toNat * 4096 + b.toNat * 262144 + m.toNat * 16777216)
  | .vwid d a m => some (1879048217 + d.toNat * 64 + a.toNat * 4096 + m.toNat * 16777216)
  | .vsel d a b m => some (2013265945 + d.toNat * 64 + a.toNat * 4096 + b.toNat * 262144 + m.toNat * 16777216)
  | .vmv d a m => some (2147483673 + d.toNat * 64 + a.toNat * 4096 + m.toNat * 16777216)
  | .vmin d a b m => some (2281701401 + d.toNat * 64 + a.toNat * 4096 + b.toNat * 262144 + m.toNat * 16777216)
  | .vmax d a b m => some (2415919129 + d.toNat * 64 + a.toNat * 4096 + b.toNat * 262144 + m.toNat * 16777216)
  | .vminu d a b m => some (2550136857 + d.toNat * 64 + a.toNat * 4096 + b.toNat * 262144 + m.toNat * 16777216)
  | .vmaxu d a b m => some (2684354585 + d.toNat * 64 + a.toNat * 4096 + b.toNat * 262144 + m.toNat * 16777216)
  | .vbcst d b m => some (2818572313 + d.toNat * 64 + b.toNat * 262144 + m.toNat * 16777216)
  | .vidx d m => some (2952790041 + d.toNat * 64 + m.toNat * 16777216)
  | .vaddScalar d a b m => some (26 + d.toNat * 64 + a.toNat * 4096 + b.toNat * 262144 + m.toNat * 16777216)
  | .vadcScalar d a b c => some (134217754 + d.toNat * 64 + a.toNat * 4096 + b.toNat * 262144 + c.toNat * 16777216)
  | .vsubScalar d a b m => some (268435482 + d.toNat * 64 + a.toNat * 4096 + b.toNat * 262144 + m.toNat * 16777216)
  | .vsbcScalar d a b c => some (402653210 + d.toNat * 64 + a.toNat * 4096 + b.toNat * 262144 + c.toNat * 16777216)
  | .vmulScalar d a b m => some (536870938 + d.toNat * 64 + a.toNat * 4096 + b.toNat * 262144 + m.toNat * 16777216)
  | .vmacScalar d a b m => some (671088666 + d.toNat * 64 + a.toNat * 4096 + b.toNat * 262144 + m.toNat * 16777216)
  | .vandScalar d a b m => some (805306394 + d.toNat * 64 + a.toNat * 4096 + b.toNat * 262144 + m.toNat * 16777216)
  | .vorScalar d a b m => some (939524122 + d.toNat * 64 + a.toNat * 4096 + b.toNat * 262144 + m.toNat * 16777216)
  | .vxorScalar d a b m => some (1073741850 + d.toNat * 64 + a.toNat * 4096 + b.toNat * 262144 + m.toNat * 16777216)
  | .vsllScalar d a b m => some (1207959578 + d.toNat * 64 + a.toNat * 4096 + b.toNat * 262144 + m.toNat * 16777216)
  | .vsrlScalar d a b m => some (1342177306 + d.toNat * 64 + a.toNat * 4096 + b.toNat * 262144 + m.toNat * 16777216)
  | .vsraScalar d a b m => some (1476395034 + d.toNat * 64 + a.toNat * 4096 + b.toNat * 262144 + m.toNat * 16777216)
  | .vsatScalar d a b m => some (1610612762 + d.toNat * 64 + a.toNat * 4096 + b.toNat * 262144 + m.toNat * 16777216)
  | .vrsraScalar d a b m => some (1744830490 + d.toNat * 64 + a.toNat * 4096 + b.toNat * 262144 + m.toNat * 16777216)
  | .vminScalar d a b m => some (2281701402 + d.toNat * 64 + a.toNat * 4096 + b.toNat * 262144 + m.toNat * 16777216)
  | .vmaxScalar d a b m => some (2415919130 + d.toNat * 64 + a.toNat * 4096 + b.toNat * 262144 + m.toNat * 16777216)
  | .vminuScalar d a b m => some (2550136858 + d.toNat * 64 + a.toNat * 4096 + b.toNat * 262144 + m.toNat * 16777216)
  | .vmaxuScalar d a b m => some (2684354586 + d.toNat * 64 + a.toNat * 4096 + b.toNat * 262144 + m.toNat * 16777216)
  | .vsllImmediate d a n m => some (1207959579 + d.toNat * 64 + a.toNat * 4096 + n.toNat * 262144 + m.toNat * 16777216)
  | .vsrlImmediate d a n m => some (1342177307 + d.toNat * 64 + a.toNat * 4096 + n.toNat * 262144 + m.toNat * 16777216)
  | .vsraImmediate d a n m => some (1476395035 + d.toNat * 64 + a.toNat * 4096 + n.toNat * 262144 + m.toNat * 16777216)
  | .vrsraImmediate d a n m => some (1744830491 + d.toNat * 64 + a.toNat * 4096 + n.toNat * 262144 + m.toNat * 16777216)
  | .vseq d a b m => some (28 + d.toNat * 64 + a.toNat * 4096 + b.toNat * 262144 + m.toNat * 16777216)
  | .vsne d a b m => some (134217756 + d.toNat * 64 + a.toNat * 4096 + b.toNat * 262144 + m.toNat * 16777216)
  | .vslt d a b m => some (268435484 + d.toNat * 64 + a.toNat * 4096 + b.toNat * 262144 + m.toNat * 16777216)
  | .vsle d a b m => some (402653212 + d.toNat * 64 + a.toNat * 4096 + b.toNat * 262144 + m.toNat * 16777216)
  | .vsltu d a b m => some (536870940 + d.toNat * 64 + a.toNat * 4096 + b.toNat * 262144 + m.toNat * 16777216)
  | .vsleu d a b m => some (671088668 + d.toNat * 64 + a.toNat * 4096 + b.toNat * 262144 + m.toNat * 16777216)
  | .vsgt d a b m => some (805306396 + d.toNat * 64 + a.toNat * 4096 + b.toNat * 262144 + m.toNat * 16777216)
  | .vsgtu d a b m => some (939524124 + d.toNat * 64 + a.toNat * 4096 + b.toNat * 262144 + m.toNat * 16777216)
  | .vseqScalar d a b m => some (2147483676 + d.toNat * 64 + a.toNat * 4096 + b.toNat * 262144 + m.toNat * 16777216)
  | .vsneScalar d a b m => some (2281701404 + d.toNat * 64 + a.toNat * 4096 + b.toNat * 262144 + m.toNat * 16777216)
  | .vsltScalar d a b m => some (2415919132 + d.toNat * 64 + a.toNat * 4096 + b.toNat * 262144 + m.toNat * 16777216)
  | .vsleScalar d a b m => some (2550136860 + d.toNat * 64 + a.toNat * 4096 + b.toNat * 262144 + m.toNat * 16777216)
  | .vsltuScalar d a b m => some (2684354588 + d.toNat * 64 + a.toNat * 4096 + b.toNat * 262144 + m.toNat * 16777216)
  | .vsleuScalar d a b m => some (2818572316 + d.toNat * 64 + a.toNat * 4096 + b.toNat * 262144 + m.toNat * 16777216)
  | .vsgtScalar d a b m => some (2952790044 + d.toNat * 64 + a.toNat * 4096 + b.toNat * 262144 + m.toNat * 16777216)
  | .vsgtuScalar d a b m => some (3087007772 + d.toNat * 64 + a.toNat * 4096 + b.toNat * 262144 + m.toNat * 16777216)
  | .mand d a b => some (29 + d.toNat * 64 + a.toNat * 512 + b.toNat * 4096)
  | .mor d a b => some (67108893 + d.toNat * 64 + a.toNat * 512 + b.toNat * 4096)
  | .mxor d a b => some (134217757 + d.toNat * 64 + a.toNat * 512 + b.toNat * 4096)
  | .mandn d a b => some (201326621 + d.toNat * 64 + a.toNat * 512 + b.toNat * 4096)
  | .mnot d a => some (268435485 + d.toNat * 64 + a.toNat * 512)
  | .mslide d a s => some (335544349 + d.toNat * 64 + a.toNat * 512 + s.toNat * 32768)
  | .vfirst a d => some (402653213 + a.toNat * 512 + d.toNat * 32768)
  | .vlast a d => some (469762077 + a.toNat * 512 + d.toNat * 32768)
  | .mcnt a d => some (536870941 + a.toNat * 512 + d.toNat * 32768)
  | .mmv d a => some (603979805 + d.toNat * 64 + a.toNat * 512)
  | .vredsum d a m => some (30 + d.toNat * 64 + a.toNat * 4096 + m.toNat * 16777216)
  | .vredsumu d a m => some (134217758 + d.toNat * 64 + a.toNat * 4096 + m.toNat * 16777216)
  | .vredmin d a m => some (268435486 + d.toNat * 64 + a.toNat * 4096 + m.toNat * 16777216)
  | .vredmax d a m => some (402653214 + d.toNat * 64 + a.toNat * 4096 + m.toNat * 16777216)
  | .vredminu d a m => some (536870942 + d.toNat * 64 + a.toNat * 4096 + m.toNat * 16777216)
  | .vredmaxu d a m => some (671088670 + d.toNat * 64 + a.toNat * 4096 + m.toNat * 16777216)
  | .vredand d a m => some (805306398 + d.toNat * 64 + a.toNat * 4096 + m.toNat * 16777216)
  | .vredor d a m => some (939524126 + d.toNat * 64 + a.toNat * 4096 + m.toNat * 16777216)
  | .vredxor d a m => some (1073741854 + d.toNat * 64 + a.toNat * 4096 + m.toNat * 16777216)
  | .vperm d a b m => some (31 + d.toNat * 64 + a.toNat * 4096 + b.toNat * 262144 + m.toNat * 16777216)
  | .vslup d a b m => some (134217759 + d.toNat * 64 + a.toNat * 4096 + b.toNat * 262144 + m.toNat * 16777216)
  | .vsldn d a b m => some (268435487 + d.toNat * 64 + a.toNat * 4096 + b.toNat * 262144 + m.toNat * 16777216)
  | .vcomp d a m => some (402653215 + d.toNat * 64 + a.toNat * 4096 + m.toNat * 16777216)
  | .vexpd d a m => some (536870943 + d.toNat * 64 + a.toNat * 4096 + m.toNat * 16777216)
  | .vld d a m c => some (32 + d.toNat * 64 + a.toNat * 4096 + m.toNat * 8388608 + c.toNat * 67108864)
  | .vlds d a b m c => some (536870944 + d.toNat * 64 + a.toNat * 4096 + b.toNat * 131072 + m.toNat * 8388608 + c.toNat * 67108864)
  | .vldx d a b m c => some (1073741856 + d.toNat * 64 + a.toNat * 4096 + b.toNat * 131072 + m.toNat * 8388608 + c.toNat * 67108864)
  | .vldff d a m c => some (1610612768 + d.toNat * 64 + a.toNat * 4096 + m.toNat * 8388608 + c.toNat * 67108864)
  | .hgath d a b m c => some (2147483680 + d.toNat * 64 + a.toNat * 4096 + b.toNat * 131072 + m.toNat * 8388608 + c.toNat * 67108864)
  | .vst d a m c => some (33 + d.toNat * 64 + a.toNat * 4096 + m.toNat * 8388608 + c.toNat * 67108864)
  | .vsts d a b m c => some (536870945 + d.toNat * 64 + a.toNat * 4096 + b.toNat * 131072 + m.toNat * 8388608 + c.toNat * 67108864)
  | .vstx d a b m c => some (1073741857 + d.toNat * 64 + a.toNat * 4096 + b.toNat * 131072 + m.toNat * 8388608 + c.toNat * 67108864)
  | .vscadd d a b m c => some (1610612769 + d.toNat * 64 + a.toNat * 4096 + b.toNat * 131072 + m.toNat * 8388608 + c.toNat * 67108864)
  | .wadd d a b => some (35 + d.toNat * 64 + a.toNat * 2048 + b.toNat * 65536)
  | .wsub d a b => some (67108899 + d.toNat * 64 + a.toNat * 2048 + b.toNat * 65536)
  | .wmul d a b => some (134217763 + d.toNat * 64 + a.toNat * 2048 + b.toNat * 65536)
  | .wfma d a b c => some (201326627 + d.toNat * 64 + a.toNat * 2048 + b.toNat * 65536 + c.toNat * 2097152)
  | .wfms d a b c => some (268435491 + d.toNat * 64 + a.toNat * 2048 + b.toNat * 65536 + c.toNat * 2097152)
  | .wfnma d a b c => some (335544355 + d.toNat * 64 + a.toNat * 2048 + b.toNat * 65536 + c.toNat * 2097152)
  | .wdiv d a b => some (402653219 + d.toNat * 64 + a.toNat * 2048 + b.toNat * 65536)
  | .wsqrt d a => some (469762083 + d.toNat * 64 + a.toNat * 2048)
  | .wmin d a b => some (536870947 + d.toNat * 64 + a.toNat * 2048 + b.toNat * 65536)
  | .wmax d a b => some (603979811 + d.toNat * 64 + a.toNat * 2048 + b.toNat * 65536)
  | .wabs d a => some (671088675 + d.toNat * 64 + a.toNat * 2048)
  | .wneg d a => some (738197539 + d.toNat * 64 + a.toNat * 2048)
  | .weq d a b => some (805306403 + d.toNat * 64 + a.toNat * 2048 + b.toNat * 65536)
  | .wlt d a b => some (872415267 + d.toNat * 64 + a.toNat * 2048 + b.toNat * 65536)
  | .wle d a b => some (939524131 + d.toNat * 64 + a.toNat * 2048 + b.toNat * 65536)
  | .wsel d a b c => some (1006632995 + d.toNat * 64 + a.toNat * 2048 + b.toNat * 65536 + c.toNat * 2097152)
  | .wmv d a => some (1073741859 + d.toNat * 64 + a.toNat * 2048)
  | .wexp d a => some (36 + d.toNat * 64 + a.toNat * 2048)
  | .wexp2 d a => some (67108900 + d.toNat * 64 + a.toNat * 2048)
  | .wlog d a => some (134217764 + d.toNat * 64 + a.toNat * 2048)
  | .wlog2 d a => some (201326628 + d.toNat * 64 + a.toNat * 2048)
  | .wrcp d a => some (268435492 + d.toNat * 64 + a.toNat * 2048)
  | .wrsq d a => some (335544356 + d.toNat * 64 + a.toNat * 2048)
  | .wtanh d a => some (402653220 + d.toNat * 64 + a.toNat * 2048)
  | .wsig d a => some (469762084 + d.toNat * 64 + a.toNat * 2048)
  | .wsin d a => some (536870948 + d.toNat * 64 + a.toNat * 2048)
  | .wcos d a => some (603979812 + d.toNat * 64 + a.toNat * 2048)
  | .wredsum d a s c => some (37 + d.toNat * 64 + a.toNat * 2048 + s.toNat * 65536 + c.toNat * 2097152)
  | .wredmax d a s c => some (67108901 + d.toNat * 64 + a.toNat * 2048 + s.toNat * 65536 + c.toNat * 2097152)
  | .wredmin d a s c => some (134217765 + d.toNat * 64 + a.toNat * 2048 + s.toNat * 65536 + c.toNat * 2097152)
  | .iscan d a s c => some (201326629 + d.toNat * 64 + a.toNat * 2048 + s.toNat * 65536 + c.toNat * 2097152)
  | .fscan d a s c => some (268435493 + d.toNat * 64 + a.toNat * 2048 + s.toNat * 65536 + c.toNat * 2097152)
  | .wtopk d a s c => some (335544357 + d.toNat * 64 + a.toNat * 2048 + s.toNat * 65536 + c.toNat * 2097152)
  | .wsmx d a s c => some (402653221 + d.toNat * 64 + a.toNat * 2048 + s.toNat * 65536 + c.toNat * 2097152)
  | .wscl d a s c => some (469762085 + d.toNat * 64 + a.toNat * 2048 + s.toNat * 65536 + c.toNat * 2097152)
  | .smerge d a s c => some (536870949 + d.toNat * 64 + a.toNat * 2048 + s.toNat * 65536 + c.toNat * 2097152)
  | .wcvt d a b c => some (38 + d.toNat * 64 + a.toNat * 2048 + b.toNat * 65536 + c.toNat * 2097152)
  | .wcvti d a b c => some (67108902 + d.toNat * 64 + a.toNat * 2048 + b.toNat * 65536 + c.toNat * 2097152)
  | .wcvtf d a b c => some (134217766 + d.toNat * 64 + a.toNat * 2048 + b.toNat * 65536 + c.toNat * 2097152)
  | .wpkmx d a b c => some (201326630 + d.toNat * 64 + a.toNat * 2048 + b.toNat * 65536 + c.toNat * 2097152)
  | .wupmx d a b c => some (268435494 + d.toNat * 64 + a.toNat * 2048 + b.toNat * 65536 + c.toNat * 2097152)
  | .wmvv w v a => some (39 + w.toNat * 64 + v.toNat * 2048 + a.toNat * 524288)
  | .vmvw w v a => some (67108903 + w.toNat * 64 + v.toNat * 2048 + a.toNat * 524288)
  | .wmva w t a => some (134217767 + w.toNat * 64 + t.toNat * 131072 + a.toNat * 524288)
  | .amvw w t a => some (201326631 + w.toNat * 64 + t.toNat * 131072 + a.toNat * 524288)
  | .vdot l b a d => some (40 + l.toNat * 256 + b.toNat * 512 + a.toNat * 32768 + d.toNat * 1048576)
  | .mgath l b a d => some (33554472 + l.toNat * 256 + b.toNat * 512 + a.toNat * 32768 + d.toNat * 1048576)
  | .mgathc l b a d => some (67108904 + l.toNat * 256 + b.toNat * 512 + a.toNat * 32768 + d.toNat * 1048576)
  | .mmac t l b a => some (100663336 + t.toNat * 64 + l.toNat * 256 + b.toNat * 512 + a.toNat * 32768)
  | .mzeroI32 t => some (134217768 + t.toNat * 64)
  | .mzeroF32 t => some (135266344 + t.toNat * 64)
  | .mpro t => some (167772200 + t.toNat * 64)
  | .msclRs l d => some (201326632 + l.toNat * 256 + d.toNat * 1048576)
  | .msclRe l d => some (201359400 + l.toNat * 256 + d.toNat * 1048576)
  | .msclCs t d => some (201392168 + t.toNat * 64 + d.toNat * 1048576)
  | .msclCe t d => some (201424936 + t.toNat * 64 + d.toNat * 1048576)
  | .msclOl t d => some (201457704 + t.toNat * 64 + d.toNat * 1048576)
  | .mldI32 t b a => some (234881064 + t.toNat * 64 + b.toNat * 512 + a.toNat * 32768)
  | .mldF32 t b a => some (235929640 + t.toNat * 64 + b.toNat * 512 + a.toNat * 32768)
  | .mst t b a => some (268435496 + t.toNat * 64 + b.toNat * 512 + a.toNat * 32768)
  | .mstatBank l d => some (301989928 + l.toNat * 256 + d.toNat * 1048576)
  | .mstatTile t d => some (302022696 + t.toNat * 64 + d.toNat * 1048576)
  | .hint v => some (62 + v.toNat * 1024)
  | .pfch a o => some (126 + a.toNat * 1024 + o.toNat * 32768)
  | .pfl2 a o => some (190 + a.toNat * 1024 + o.toNat * 32768)
  | .hintKind k v => some (62 + k.toNat * 64 + v.toNat * 1024)
  | .nop => some (63)
  | .rpt l n g s r => some (127 + l.toNat * 1024 + n.toNat * 16384 + g.toNat * 4194304 + s.toNat * 33554432 + r.toNat * 134217728)
  | .takeRecord => none
  | .launchCompletion => none
  | .tlbinvCompletion => none
  | .correctedError _ => none
  | .uncorrectableError _ _ => none
  | .integrityError _ => none
  | .write _ _ => none
  | .writeSync _ _ => none
  | .read _ _ => none
  | .readSync _ _ => none
  | .dataPacket _ _ => none
  | .ack _ _ => none
  | .nak _ _ => none
  | .putPacket _ _ => none
  | .getPacket _ _ => none
  | .retransmission _ => none
  | .linkLoss _ => none
  | .ringLinkFailure _ => none
  | .doorbell _ _ => none
  | .semaphoreAcquire _ _ => none
  | .semaphoreRelease _ _ => none
  | .semaphoreForcedRelease _ => none
  | .preq _ => none
  | .wakeRegister _ => none
  | .tcmp _ _ => none
  | .restart _ => none
  | .controlRegisterWrite _ _ _ => none
  | .mailboxReportRequest _ => none
  | .reportComplete _ => none
  | .measurementExtend _ => none
  | .powerOn _ _ _ => none
  | .grantEpoch _ _ _ => none
  | .thermalTrip => none
  | .refreshEvaluation _ => none
  | .linkUp _ => none

/-- The instruction the decoder reads from the first 32 bits of w, as spec/opcode_table.json numbers them. -/
noncomputable def decodeTableWord (_nbits w : Nat) : Option Instr := decode (w % 2 ^ 32)

end Sys2Proof
end

