-- ==== Sys2Proof/Machine/Operands.lean ====
section
/-!
DEFINITION. Operand forms of the lane array, the masks and the word unit: how an instruction reads and writes elements
(07_lanes.md R180 to R194, 08_masks.md R206 to R208, 09_word.md R229 to R231).
-/

namespace Sys2Proof.Machine

/-- Keys of one vector or mask register: element i of register r has key 262,144 r + i (07_lanes.md R180). -/
def vkey (r i : Nat) : Nat := r * 262144 + i

/-- The width a width register holds (07_lanes.md R191). -/
def widthOf (e : BitVec 7) : Nat := e.toNat % 64

/-- The width register says signed (07_lanes.md R191). -/
def signedOf (e : BitVec 7) : Bool := e.getLsbD 6

/-- The width of the destination (07_lanes.md R191). -/
def State.wd (s : State) : Nat := widthOf s.ewd

/-- The low w bits of an element, from the pair of registers when w > 16 (07_lanes.md R180, R181). -/
def State.elem (s : State) (r i w : Nat) : Nat :=
  let lo := (mapGet s.lanes.vreg (vkey r i)).toNat
  if w ≤ 16 then lo % 2 ^ w else (lo + (mapGet s.lanes.vreg (vkey (r + 1) i)).toNat * 65536) % 2 ^ w

/-- An element read by a width register's width and signedness (07_lanes.md R194). -/
def State.elemInt (s : State) (r i : Nat) (e : BitVec 7) : Int :=
  if signedOf e then sext (s.elem r i (widthOf e)) (widthOf e) else (s.elem r i (widthOf e) : Nat)

/-- A number read by a width register's width and signedness (07_lanes.md R194, R199). -/
def readAs (x : Nat) (e : BitVec 7) : Int :=
  if signedOf e then sext x (widthOf e) else (x % 2 ^ widthOf e : Nat)

/-- The least value of the destination width (07_lanes.md R194). -/
def State.dLo (s : State) : Int := if signedOf s.ewd then -(2 ^ (s.wd - 1) : Nat) else 0

/-- The greatest value of the destination width (07_lanes.md R194). -/
def State.dHi (s : State) : Int :=
  if signedOf s.ewd then (2 ^ (s.wd - 1) : Nat) - 1 else (2 ^ s.wd : Nat) - 1

/-- Bit i of mask register m; m0 reads all ones (08_masks.md R206, R207). -/
def State.maskBit (s : State) (m i : Nat) : Bool := m = 0 || mapGet s.lanes.mask (vkey m i) == 1#1

/-- The elements an instruction acts on: the first one, how many are below the vector length, and how many the register
has from the first one on. In strip-thread mode they are the thread's own (04_control.md R111). -/
structure Window where
  lo : Nat
  n : Nat
  all : Nat
  deriving DecidableEq, Repr

/-- The window in force (07_lanes.md R183, R184; 04_control.md R111). -/
def State.window (s : State) : Window :=
  if s.inStrip then ⟨128 * s.thread, min 128 (s.lanes.vl.toNat - 128 * s.thread), 128⟩
  else ⟨0, s.lanes.vl.toNat, s.vlmax⟩

/-- A vector register field names a register below NR (02_encoding.md R41). -/
def State.vOk (s : State) (r : BitVec 6) : Bool := r.toNat < s.nr

/-- A vector destination is legal: below NR, and even when it is a pair (07_lanes.md R200). -/
def State.destOk (s : State) (d : BitVec 6) : Bool := s.vOk d && (s.wd ≤ 16 || d.toNat % 2 == 0)

/-- The `vdirty` bits of a destination or a pair are set (07_lanes.md R193). -/
def dirtyV (s : State) (d : Nat) : State :=
  let bits : BitVec 64 := if s.wd ≤ 16 then w64 (2 ^ d) else w64 (3 * 2 ^ d)
  { s with lanes.vdirty := s.lanes.vdirty ||| bits }

/-- The `wdirty` bit of a word register is set (09_word.md R230). -/
def dirtyW (s : State) (d : Nat) : State := { s with lanes.wdirty := s.lanes.wdirty ||| BitVec.ofNat 32 (2 ^ d) }

/-- Write 16-bit element values to a register: those of the window below the vector length, an element f leaves out
keeping its planes, and zero to the tail elements under tail-dead (07_lanes.md R181, R183, R184). -/
def fillReg (vreg : SMap 16) (r : Nat) (win : Window) (dead : Bool) (f : Nat → Option Nat) : SMap 16 :=
  let base := vkey r win.lo
  let m := mapFill vreg base win.n (fun k => match f (k - vkey r 0) with
    | some v => BitVec.ofNat 16 v
    | none => mapGet vreg k)
  if dead then mapClear m (base + win.n) (win.all - win.n) else m

/-- Write the elements of a destination register, or of a pair when ewd.w > 16: f gives the value of element i, or none
when the element keeps its planes (07_lanes.md R180, R181, R183, R193). -/
def writeElems (s : State) (d : Nat) (f : Nat → Option Nat) : State :=
  let v := fillReg s.lanes.vreg d s.window s.tailDead (fun i => (f i).map (· % 65536))
  let v := if s.wd ≤ 16 then v else fillReg v (d + 1) s.window s.tailDead (fun i => (f i).map (· / 65536))
  dirtyV { s with lanes.vreg := v } d

/-- Write bits lo to lo + n - 1 of a mask register; the others keep their values (08_masks.md R206). The register becomes
present even where n = 0 (17_system.md R454: DESIGN CHOICE, log 37); of the masks, `mslide` alone is said to change nothing
then (R214). -/
def writeMask (s : State) (k lo n : Nat) (f : Nat → Bool) : State :=
  maskWritten { s with
    lanes.mask := mapFill s.lanes.mask (vkey k lo) n (fun x => if f (x - vkey k 0) then 1#1 else 0#1) } k

/-- The elements performed: below the vector length, with their mask bit 1 (07_lanes.md R184). -/
def State.performed (s : State) (m : Nat) : List Nat :=
  (upto s.window.lo s.window.n).filter (fun i => s.maskBit m i)

/-- Element i of word register r (09_word.md R229). -/
def State.word (s : State) (r i : Nat) : Nat := (mapGet s.lanes.wreg (r * 1024 + i)).toNat

/-- Write all 1,024 elements of a word register (09_word.md R230, R231). -/
def writeWord (s : State) (r : Nat) (f : Nat → Nat) : State :=
  dirtyW { s with
    lanes.wreg := mapFill s.lanes.wreg (r * 1024) 1024 (fun k => BitVec.ofNat 32 (f (k - r * 1024))) } r

end Sys2Proof.Machine
end

