-- ==== Sys2Proof/Machine/Lanes.lean ====
section
/-!
DEFINITION. Element-wise arithmetic of the lane array and its configuration (07_lanes.md R185 to R200).
-/

namespace Sys2Proof.Machine

/-- When `vl` falls under tail-dead, the elements from the new length on are zero in every register (R183). -/
def setLength (s : State) (n : Nat) : State :=
  let v := if s.tailDead ∧ n < s.lanes.vl.toNat then s.lanes.vreg.filter (fun c => decide (c.1 % 262144 < n))
    else s.lanes.vreg
  { s with lanes.vl := BitVec.ofNat 19 n, lanes.vreg := v }

/-- The registers after `vcfg` has installed new[3:0] (R188). -/
def configure (s : State) (new : BitVec 4) : State :=
  if new.toNat % 4 ≠ s.lanes.vcfg.toNat % 4 then
    { s with lanes.vreg := [], lanes.vdirty := 0, lanes.vl := 0, lanes.vcfg := new }
  else if !s.tailDead && new.getLsbD 2 then
    { s with
      lanes.vreg := s.lanes.vreg.filter (fun c => decide (c.1 % 262144 < s.lanes.vl.toNat))
      lanes.vcfg := new }
  else { s with lanes.vcfg := new }

/-- `vcfg` (R188); illegal in strip-thread mode (04_control.md R110). -/
def execVcfg (d a : BitVec 5) (s : State) : Out :=
  finish s (do
    legalIf (!s.inStrip)
    let t := configure s ((s.rd a).setWidth 4)
    pure (retire (t.wr d (w64 t.vlmax))))

/-- The lane grant in force bounds the vector length below the full grant (R190). -/
def grantLimit (s : State) (e : Nat) : Nat := if e = 256 then s.vlmax else 128 * e

/-- The grant comes into force and the vector length is set to a request, cut to VLMAX and to the grant (R189, R190). -/
def requestLength (s : State) (n : Nat) : State :=
  let s := { s with lanes.grantE := s.lanes.grantG }
  setLength s (min n (min s.vlmax (grantLimit s s.lanes.grantE.toNat)))

/-- `setvl` (R190). -/
def execSetvl (d a : BitVec 5) (s : State) : Out :=
  finish s (do
    legalIf (!s.inStrip)
    let t := requestLength s (s.rd a).toNat
    pure (retire (t.wr d (t.lanes.vl.setWidth 64))))

/-- A width register after `setw`: the new width when it is listed (R192). -/
def newWidth (old : BitVec 7) (v top : Nat) : BitVec 7 :=
  if 1 ≤ v % 64 ∧ v % 64 ≤ top then BitVec.ofNat 7 v else old

/-- `setw` (R192): one group. -/
def execSetw (d a : BitVec 5) (s : State) : Out :=
  finish s (do
    legalIf (!s.inStrip)
    let v := (s.rd a).toNat
    let old := w64 (s.lanes.ewa.toNat + s.lanes.ewb.toNat * 2 ^ 8 + s.lanes.ewd.toNat * 2 ^ 16)
    let t := { s with
      lanes.ewa := newWidth s.lanes.ewa (fld v 0 7) 16
      lanes.ewb := newWidth s.lanes.ewb (fld v 8 7) 16
      lanes.ewd := newWidth s.lanes.ewd (fld v 16 7) 32 }
    pure (retire (t.wr d old)))

/-- A scalar operand of an element-wise instruction: strip threads read the registers as they stood at `sfork`
(04_control.md R110). -/
def State.scalar (s : State) (b : BitVec 5) : Word := if s.inStrip then mapGet s.strip.scalars b.toNat else s.rd b

/-- `SrcA(i)` (R194). -/
def State.srcA (s : State) (a : BitVec 6) (i : Nat) : Int := s.elemInt a.toNat i s.ewa
/-- `SrcB(i)` of VARITH (R194). -/
def State.srcB (s : State) (b : BitVec 6) (i : Nat) : Int := s.elemInt b.toNat i s.ewb
/-- `SrcB` of VARITHS (R194). -/
def State.srcS (s : State) (b : BitVec 5) : Int := readAs (s.scalar b).toNat s.ewb
/-- `SrcD(i)` (R194). -/
def State.srcD (s : State) (d : BitVec 6) (i : Nat) : Int := s.elemInt d.toNat i s.ewd
/-- vA[i] read signed, whatever ewa.s (R195, R197). -/
def State.sA (s : State) (a : BitVec 6) (i : Nat) : Int :=
  sext (s.elem a.toNat i (widthOf s.ewa)) (widthOf s.ewa)
/-- vA[i] read unsigned, whatever ewa.s (R195, R197). -/
def State.uA (s : State) (a : BitVec 6) (i : Nat) : Int := (s.elem a.toNat i (widthOf s.ewa) : Nat)
/-- vB[i] read signed, whatever ewb.s (R195). -/
def State.sB (s : State) (b : BitVec 6) (i : Nat) : Int :=
  sext (s.elem b.toNat i (widthOf s.ewb)) (widthOf s.ewb)
/-- vB[i] read unsigned, whatever ewb.s (R195, R197). -/
def State.uB (s : State) (b : BitVec 6) (i : Nat) : Nat := s.elem b.toNat i (widthOf s.ewb)
/-- The low ewb.w bits of sB read signed (R199). -/
def State.sS (s : State) (b : BitVec 5) : Int := sext (s.scalar b).toNat (widthOf s.ewb)
/-- The low ewb.w bits of sB read unsigned (R199). -/
def State.uS (s : State) (b : BitVec 5) : Int := ((s.scalar b).toNat % 2 ^ widthOf s.ewb : Nat)

/-- A bitwise operation on infinite two's-complement patterns: its low 32 bits, all that a destination takes (R195). -/
def bitwise (f : Nat → Nat → Nat) (x y : Int) : Int := (f (truncN x 32) (truncN y 32) : Nat)

/-- Write x(i), cut to ewd.w bits, to every performed element (R184, R194). -/
def writeInts (s : State) (d : BitVec 6) (m : BitVec 3) (x : Nat → Int) : State :=
  writeElems s d.toNat (fun i => if s.maskBit m.toNat i then some (truncN (x i) s.wd) else none)

/-- An element-wise instruction with the exact result x(i) (R194). -/
def laneOp (d : BitVec 6) (m : BitVec 3) (ok : Bool) (x : Nat → Int) (s : State) : Out :=
  finish s (do
    legalIf (s.destOk d && ok)
    pure (retire (writeInts s d m x)))

/-- A saturating element-wise instruction: x(i) clamped to l to h, with `qflags.si` when any element is (R198). -/
def laneSat (d : BitVec 6) (m : BitVec 3) (ok : Bool) (x : Nat → Int) (l h : Int) (s : State) : Out :=
  finish s (do
    legalIf (s.destOk d && ok)
    let clamped := (s.performed m.toNat).any (fun i => decide (sat (x i) l h ≠ x i))
    let t := writeInts s d m (fun i => sat (x i) l h)
    pure (retire (if clamped then raiseQ t 1 else t)))

/-- An add or subtract with carry or borrow (R196): unmasked, x(i) the exact result for a carry in of 0 or 1. -/
def laneCarry (d : BitVec 6) (c : BitVec 3) (ok : Bool) (x : Nat → Int → Int) (out : Int → Bool) (s : State) : Out :=
  finish s (do
    legalIf (s.destOk d && ok && maskDestOk c)
    let y := fun i => x i (bNat (s.maskBit c.toNat i))
    let t := writeElems s d.toNat (fun i => some (truncN (y i) s.wd))
    pure (retire (writeMask t c.toNat s.window.lo s.window.n (fun i => out (y i)))))

/-- The carry out of `vadc` (R196). -/
def carryOut (s : State) (x : Int) : Bool := decide ((2 ^ s.wd : Nat) ≤ x)

/-- The borrow out of `vsbc` (R196). -/
def borrowOut (x : Int) : Bool := decide (x < 0)

/-- x × 2^n cut so that a large amount costs nothing: bits at and above 32 never reach a destination (R197). -/
def shiftLeft (x : Int) (n : Nat) : Int := if 32 ≤ n then 0 else x * (2 ^ n : Nat)

/-- x div 2^n, rounded toward −∞ (R197); sources have at most 32 bits. -/
def shiftRight (x : Int) (n : Nat) : Int := x.fdiv (2 ^ (min n 64) : Nat)

/-- The rounding shift of `vrsra` (R198): ties toward +∞. -/
def roundShift (x : Int) (n : Nat) : Int :=
  if n = 0 then x else if 64 ≤ n then 0 else (x + (2 ^ (n - 1) : Nat)).fdiv (2 ^ n : Nat)

/-- `vadd` of VARITH (R195). -/
def execVadd (d a b : BitVec 6) (m : BitVec 3) (s : State) : Out :=
  laneOp d m (s.vOk a && s.vOk b) (fun i => s.srcA a i + s.srcB b i) s
/-- `vadd` of VARITHS (R199). -/
def execVaddScalar (d a : BitVec 6) (b : BitVec 5) (m : BitVec 3) (s : State) : Out :=
  laneOp d m (s.vOk a) (fun i => s.srcA a i + s.srcS b) s
/-- `vsub` of VARITH (R195). -/
def execVsub (d a b : BitVec 6) (m : BitVec 3) (s : State) : Out :=
  laneOp d m (s.vOk a && s.vOk b) (fun i => s.srcA a i - s.srcB b i) s
/-- `vsub` of VARITHS (R199). -/
def execVsubScalar (d a : BitVec 6) (b : BitVec 5) (m : BitVec 3) (s : State) : Out :=
  laneOp d m (s.vOk a) (fun i => s.srcA a i - s.srcS b) s
/-- `vmul` of VARITH (R195). -/
def execVmul (d a b : BitVec 6) (m : BitVec 3) (s : State) : Out :=
  laneOp d m (s.vOk a && s.vOk b) (fun i => s.srcA a i * s.srcB b i) s
/-- `vmul` of VARITHS (R199). -/
def execVmulScalar (d a : BitVec 6) (b : BitVec 5) (m : BitVec 3) (s : State) : Out :=
  laneOp d m (s.vOk a) (fun i => s.srcA a i * s.srcS b) s
/-- `vmac` of VARITH (R195). -/
def execVmac (d a b : BitVec 6) (m : BitVec 3) (s : State) : Out :=
  laneOp d m (s.vOk a && s.vOk b) (fun i => s.srcD d i + s.srcA a i * s.srcB b i) s
/-- `vmac` of VARITHS (R199). -/
def execVmacScalar (d a : BitVec 6) (b : BitVec 5) (m : BitVec 3) (s : State) : Out :=
  laneOp d m (s.vOk a) (fun i => s.srcD d i + s.srcA a i * s.srcS b) s
/-- `vand` of VARITH (R195). -/
def execVand (d a b : BitVec 6) (m : BitVec 3) (s : State) : Out :=
  laneOp d m (s.vOk a && s.vOk b) (fun i => bitwise (· &&& ·) (s.srcA a i) (s.srcB b i)) s
/-- `vand` of VARITHS (R199). -/
def execVandScalar (d a : BitVec 6) (b : BitVec 5) (m : BitVec 3) (s : State) : Out :=
  laneOp d m (s.vOk a) (fun i => bitwise (· &&& ·) (s.srcA a i) (s.srcS b)) s
/-- `vor` of VARITH (R195). -/
def execVor (d a b : BitVec 6) (m : BitVec 3) (s : State) : Out :=
  laneOp d m (s.vOk a && s.vOk b) (fun i => bitwise (· ||| ·) (s.srcA a i) (s.srcB b i)) s
/-- `vor` of VARITHS (R199). -/
def execVorScalar (d a : BitVec 6) (b : BitVec 5) (m : BitVec 3) (s : State) : Out :=
  laneOp d m (s.vOk a) (fun i => bitwise (· ||| ·) (s.srcA a i) (s.srcS b)) s
/-- `vxor` of VARITH (R195). -/
def execVxor (d a b : BitVec 6) (m : BitVec 3) (s : State) : Out :=
  laneOp d m (s.vOk a && s.vOk b) (fun i => bitwise (· ^^^ ·) (s.srcA a i) (s.srcB b i)) s
/-- `vxor` of VARITHS (R199). -/
def execVxorScalar (d a : BitVec 6) (b : BitVec 5) (m : BitVec 3) (s : State) : Out :=
  laneOp d m (s.vOk a) (fun i => bitwise (· ^^^ ·) (s.srcA a i) (s.srcS b)) s
/-- `vsll` of VARITH (R197). -/
def execVsll (d a b : BitVec 6) (m : BitVec 3) (s : State) : Out :=
  laneOp d m (s.vOk a && s.vOk b) (fun i => shiftLeft (s.srcA a i) (s.uB b i)) s
/-- `vsll` of VARITHS (R197, R199). -/
def execVsllScalar (d a : BitVec 6) (b : BitVec 5) (m : BitVec 3) (s : State) : Out :=
  laneOp d m (s.vOk a) (fun i => shiftLeft (s.srcA a i) (s.scalar b).toNat) s
/-- `vsll` of VSHIFTI (R197, R199). -/
def execVsllImmediate (d a : BitVec 6) (n : BitVec 6) (m : BitVec 3) (s : State) : Out :=
  laneOp d m (s.vOk a) (fun i => shiftLeft (s.srcA a i) n.toNat) s
/-- `vsrl` of VARITH (R197). -/
def execVsrl (d a b : BitVec 6) (m : BitVec 3) (s : State) : Out :=
  laneOp d m (s.vOk a && s.vOk b) (fun i => shiftRight (s.uA a i) (s.uB b i)) s
/-- `vsrl` of VARITHS (R197, R199). -/
def execVsrlScalar (d a : BitVec 6) (b : BitVec 5) (m : BitVec 3) (s : State) : Out :=
  laneOp d m (s.vOk a) (fun i => shiftRight (s.uA a i) (s.scalar b).toNat) s
/-- `vsrl` of VSHIFTI (R197, R199). -/
def execVsrlImmediate (d a : BitVec 6) (n : BitVec 6) (m : BitVec 3) (s : State) : Out :=
  laneOp d m (s.vOk a) (fun i => shiftRight (s.uA a i) n.toNat) s
/-- `vsra` of VARITH (R197). -/
def execVsra (d a b : BitVec 6) (m : BitVec 3) (s : State) : Out :=
  laneOp d m (s.vOk a && s.vOk b) (fun i => shiftRight (s.sA a i) (s.uB b i)) s
/-- `vsra` of VARITHS (R197, R199). -/
def execVsraScalar (d a : BitVec 6) (b : BitVec 5) (m : BitVec 3) (s : State) : Out :=
  laneOp d m (s.vOk a) (fun i => shiftRight (s.sA a i) (s.scalar b).toNat) s
/-- `vsra` of VSHIFTI (R197, R199). -/
def execVsraImmediate (d a : BitVec 6) (n : BitVec 6) (m : BitVec 3) (s : State) : Out :=
  laneOp d m (s.vOk a) (fun i => shiftRight (s.sA a i) n.toNat) s
/-- `vrsra` of VARITH (R198). -/
def execVrsra (d a b : BitVec 6) (m : BitVec 3) (s : State) : Out :=
  laneSat d m (s.vOk a && s.vOk b) (fun i => roundShift (s.srcA a i) (s.uB b i)) s.dLo s.dHi s
/-- `vrsra` of VARITHS (R198, R199). -/
def execVrsraScalar (d a : BitVec 6) (b : BitVec 5) (m : BitVec 3) (s : State) : Out :=
  laneSat d m (s.vOk a) (fun i => roundShift (s.srcA a i) (s.scalar b).toNat) s.dLo s.dHi s
/-- `vrsra` of VSHIFTI (R198, R199). -/
def execVrsraImmediate (d a : BitVec 6) (n : BitVec 6) (m : BitVec 3) (s : State) : Out :=
  laneSat d m (s.vOk a) (fun i => roundShift (s.srcA a i) n.toNat) s.dLo s.dHi s
/-- `vsat` of VARITH (R198). -/
def execVsat (d a : BitVec 6) (m : BitVec 3) (s : State) : Out :=
  laneSat d m (s.vOk a) (fun i => s.srcA a i) s.dLo s.dHi s
/-- `vsat` of VARITHS: the bounds shrink to ±sB (R198). -/
def execVsatScalar (d a : BitVec 6) (b : BitVec 5) (m : BitVec 3) (s : State) : Out :=
  let u : Int := ((s.scalar b).toNat : Nat)
  let l := if signedOf s.ewd then max s.dLo (-u) else 0
  laneSat d m (s.vOk a) (fun i => s.srcA a i) l (min s.dHi u) s
/-- `vmin` of VARITH (R195): its own signedness. -/
def execVmin (d a b : BitVec 6) (m : BitVec 3) (s : State) : Out :=
  laneOp d m (s.vOk a && s.vOk b) (fun i => min (s.sA a i) (s.sB b i)) s
/-- `vmin` of VARITHS (R199). -/
def execVminScalar (d a : BitVec 6) (b : BitVec 5) (m : BitVec 3) (s : State) : Out :=
  laneOp d m (s.vOk a) (fun i => min (s.sA a i) (s.sS b)) s
/-- `vmax` of VARITH (R195): its own signedness. -/
def execVmax (d a b : BitVec 6) (m : BitVec 3) (s : State) : Out :=
  laneOp d m (s.vOk a && s.vOk b) (fun i => max (s.sA a i) (s.sB b i)) s
/-- `vmax` of VARITHS (R199). -/
def execVmaxScalar (d a : BitVec 6) (b : BitVec 5) (m : BitVec 3) (s : State) : Out :=
  laneOp d m (s.vOk a) (fun i => max (s.sA a i) (s.sS b)) s
/-- `vminu` of VARITH (R195): its own signedness. -/
def execVminu (d a b : BitVec 6) (m : BitVec 3) (s : State) : Out :=
  laneOp d m (s.vOk a && s.vOk b) (fun i => min (s.uA a i) (s.uB b i)) s
/-- `vminu` of VARITHS (R199). -/
def execVminuScalar (d a : BitVec 6) (b : BitVec 5) (m : BitVec 3) (s : State) : Out :=
  laneOp d m (s.vOk a) (fun i => min (s.uA a i) (s.uS b)) s
/-- `vmaxu` of VARITH (R195): its own signedness. -/
def execVmaxu (d a b : BitVec 6) (m : BitVec 3) (s : State) : Out :=
  laneOp d m (s.vOk a && s.vOk b) (fun i => max (s.uA a i) (s.uB b i)) s
/-- `vmaxu` of VARITHS (R199). -/
def execVmaxuScalar (d a : BitVec 6) (b : BitVec 5) (m : BitVec 3) (s : State) : Out :=
  laneOp d m (s.vOk a) (fun i => max (s.uA a i) (s.uS b)) s
/-- `vadc` of VARITH (R196). -/
def execVadc (d a b : BitVec 6) (c : BitVec 3) (s : State) : Out :=
  laneCarry d c (s.vOk a && s.vOk b) (fun i k => s.srcA a i + s.srcB b i + k) (carryOut s) s
/-- `vadc` of VARITHS (R196, R199). -/
def execVadcScalar (d a : BitVec 6) (b : BitVec 5) (c : BitVec 3) (s : State) : Out :=
  laneCarry d c (s.vOk a) (fun i k => s.srcA a i + s.srcS b + k) (carryOut s) s
/-- `vsbc` of VARITH (R196). -/
def execVsbc (d a b : BitVec 6) (c : BitVec 3) (s : State) : Out :=
  laneCarry d c (s.vOk a && s.vOk b) (fun i k => s.srcA a i - s.srcB b i - k) borrowOut s
/-- `vsbc` of VARITHS (R196, R199). -/
def execVsbcScalar (d a : BitVec 6) (b : BitVec 5) (c : BitVec 3) (s : State) : Out :=
  laneCarry d c (s.vOk a) (fun i k => s.srcA a i - s.srcS b - k) borrowOut s
/-- `vwid` (R195). -/
def execVwid (d a : BitVec 6) (m : BitVec 3) (s : State) : Out :=
  laneOp d m (s.vOk a) (fun i => s.srcA a i) s
/-- `vsel` (R195): M selects and masks nothing (R184). -/
def execVsel (d a b : BitVec 6) (m : BitVec 3) (s : State) : Out :=
  laneOp d 0 (s.vOk a && s.vOk b) (fun i => if s.maskBit m.toNat i then s.srcA a i else s.srcB b i) s
/-- `vmv` (R195, R200): bit patterns, from the pair when ewd.w > 16. -/
def execVmv (d a : BitVec 6) (m : BitVec 3) (s : State) : Out :=
  laneOp d m (s.destOk a) (fun i => (s.elem a.toNat i s.wd : Nat)) s
/-- `vbcst` (R195). -/
def execVbcst (d : BitVec 6) (b : BitVec 5) (m : BitVec 3) (s : State) : Out :=
  laneOp d m true (fun _ => ((s.scalar b).toNat : Nat)) s
/-- `vidx` (R195): the element index, within the thread in strip-thread mode (04_control.md R111). -/
def execVidx (d : BitVec 6) (m : BitVec 3) (s : State) : Out :=
  laneOp d m true (fun i => (i - s.window.lo : Nat)) s

end Sys2Proof.Machine
end

