-- ==== Sys2Proof/Machine/Masks.lean ====
section
/-!
DEFINITION. Compares, mask logic, reductions and permutes (08_masks.md R206 to R226).
-/

namespace Sys2Proof.Machine

/-- A compare (R210, R211): c(i) is the condition; masked-off bits keep their values (R207). -/
def compare (d m : BitVec 3) (ok : Bool) (c : Nat → Bool) (s : State) : Out :=
  finish s (do
    legalIf (maskDestOk d && ok)
    pure (retire (writeMask s d.toNat s.window.lo s.window.n (fun i =>
      if s.maskBit m.toNat i then c i else s.maskBit d.toNat i))))

/-- Mask logic (R213): x(i) is the new bit. -/
def maskLogic (d : BitVec 3) (x : Nat → Bool) (s : State) : Out :=
  finish s (do
    legalIf (maskDestOk d)
    pure (retire (writeMask s d.toNat s.window.lo s.window.n x)))

/-- Bit i of the mask a 3-bit field names (R206). -/
def State.mb (s : State) (m : BitVec 3) (i : Nat) : Bool := s.maskBit m.toNat i

/-- The element numbers below the vector length whose bit of a mask is 1 (R207). -/
def State.chosen (s : State) (m : BitVec 3) : List Nat := (upto 0 s.lanes.vl.toNat).filter (s.mb m)

/-- `vseq` of vectors (R210, R211). -/
def execVseq (d : BitVec 3) (a b : BitVec 6) (m : BitVec 3) (s : State) : Out :=
  compare d m (s.vOk a && s.vOk b) (fun i => decide (s.srcA a i = s.srcB b i)) s
/-- `vseq` with a scalar (R210, R211). -/
def execVseqScalar (d : BitVec 3) (a : BitVec 6) (b : BitVec 5) (m : BitVec 3) (s : State) : Out :=
  compare d m (s.vOk a) (fun i => decide (s.srcA a i = s.srcS b)) s
/-- `vsne` of vectors (R210, R211). -/
def execVsne (d : BitVec 3) (a b : BitVec 6) (m : BitVec 3) (s : State) : Out :=
  compare d m (s.vOk a && s.vOk b) (fun i => decide (s.srcA a i ≠ s.srcB b i)) s
/-- `vsne` with a scalar (R210, R211). -/
def execVsneScalar (d : BitVec 3) (a : BitVec 6) (b : BitVec 5) (m : BitVec 3) (s : State) : Out :=
  compare d m (s.vOk a) (fun i => decide (s.srcA a i ≠ s.srcS b)) s
/-- `vslt` of vectors (R210, R211). -/
def execVslt (d : BitVec 3) (a b : BitVec 6) (m : BitVec 3) (s : State) : Out :=
  compare d m (s.vOk a && s.vOk b) (fun i => decide (s.sA a i < s.sB b i)) s
/-- `vslt` with a scalar (R210, R211). -/
def execVsltScalar (d : BitVec 3) (a : BitVec 6) (b : BitVec 5) (m : BitVec 3) (s : State) : Out :=
  compare d m (s.vOk a) (fun i => decide (s.sA a i < s.sS b)) s
/-- `vsle` of vectors (R210, R211). -/
def execVsle (d : BitVec 3) (a b : BitVec 6) (m : BitVec 3) (s : State) : Out :=
  compare d m (s.vOk a && s.vOk b) (fun i => decide (s.sA a i ≤ s.sB b i)) s
/-- `vsle` with a scalar (R210, R211). -/
def execVsleScalar (d : BitVec 3) (a : BitVec 6) (b : BitVec 5) (m : BitVec 3) (s : State) : Out :=
  compare d m (s.vOk a) (fun i => decide (s.sA a i ≤ s.sS b)) s
/-- `vsltu` of vectors (R210, R211). -/
def execVsltu (d : BitVec 3) (a b : BitVec 6) (m : BitVec 3) (s : State) : Out :=
  compare d m (s.vOk a && s.vOk b) (fun i => decide (s.uA a i < (s.uB b i : Nat))) s
/-- `vsltu` with a scalar (R210, R211). -/
def execVsltuScalar (d : BitVec 3) (a : BitVec 6) (b : BitVec 5) (m : BitVec 3) (s : State) : Out :=
  compare d m (s.vOk a) (fun i => decide (s.uA a i < s.uS b)) s
/-- `vsleu` of vectors (R210, R211). -/
def execVsleu (d : BitVec 3) (a b : BitVec 6) (m : BitVec 3) (s : State) : Out :=
  compare d m (s.vOk a && s.vOk b) (fun i => decide (s.uA a i ≤ (s.uB b i : Nat))) s
/-- `vsleu` with a scalar (R210, R211). -/
def execVsleuScalar (d : BitVec 3) (a : BitVec 6) (b : BitVec 5) (m : BitVec 3) (s : State) : Out :=
  compare d m (s.vOk a) (fun i => decide (s.uA a i ≤ s.uS b)) s
/-- `vsgt` of vectors (R210, R211). -/
def execVsgt (d : BitVec 3) (a b : BitVec 6) (m : BitVec 3) (s : State) : Out :=
  compare d m (s.vOk a && s.vOk b) (fun i => decide (s.sA a i > s.sB b i)) s
/-- `vsgt` with a scalar (R210, R211). -/
def execVsgtScalar (d : BitVec 3) (a : BitVec 6) (b : BitVec 5) (m : BitVec 3) (s : State) : Out :=
  compare d m (s.vOk a) (fun i => decide (s.sA a i > s.sS b)) s
/-- `vsgtu` of vectors (R210, R211). -/
def execVsgtu (d : BitVec 3) (a b : BitVec 6) (m : BitVec 3) (s : State) : Out :=
  compare d m (s.vOk a && s.vOk b) (fun i => decide (s.uA a i > (s.uB b i : Nat))) s
/-- `vsgtu` with a scalar (R210, R211). -/
def execVsgtuScalar (d : BitVec 3) (a : BitVec 6) (b : BitVec 5) (m : BitVec 3) (s : State) : Out :=
  compare d m (s.vOk a) (fun i => decide (s.uA a i > s.uS b)) s
/-- `mand` (R213). -/
def execMand (d a b : BitVec 3) (s : State) : Out := maskLogic d (fun i => s.mb a i && s.mb b i) s
/-- `mor` (R213). -/
def execMor (d a b : BitVec 3) (s : State) : Out := maskLogic d (fun i => s.mb a i || s.mb b i) s
/-- `mxor` (R213). -/
def execMxor (d a b : BitVec 3) (s : State) : Out := maskLogic d (fun i => s.mb a i != s.mb b i) s
/-- `mandn` (R213). -/
def execMandn (d a b : BitVec 3) (s : State) : Out := maskLogic d (fun i => s.mb a i && !s.mb b i) s
/-- `mnot` (R213). -/
def execMnot (d a : BitVec 3) (s : State) : Out := maskLogic d (fun i => !s.mb a i) s
/-- `mmv` (R213). -/
def execMmv (d a : BitVec 3) (s : State) : Out := maskLogic d (fun i => s.mb a i) s

/-- `mslide` (R214): with `vl` = 0 it changes nothing, the present bit of its mask included. -/
def execMslide (d a : BitVec 3) (c : BitVec 5) (s : State) : Out :=
  if s.lanes.vl = 0 then
    finish s (do
      legalIf (maskDestOk d)
      pure (retire s))
  else
    maskLogic d (fun i =>
      let k : Int := (i : Int) - (s.rd c).toInt
      decide (0 ≤ k ∧ k < s.lanes.vl.toNat) && s.mb a k.toNat) s

/-- `vfirst` (R215). -/
def execVfirst (a : BitVec 3) (d : BitVec 5) (s : State) : Out :=
  finish s (pure (retire (s.wr d (match (s.chosen a).head? with
    | some i => w64 i
    | none => BitVec.allOnes 64))))
/-- `vlast` (R215). -/
def execVlast (a : BitVec 3) (d : BitVec 5) (s : State) : Out :=
  finish s (pure (retire (s.wr d (match (s.chosen a).getLast? with
    | some i => w64 i
    | none => BitVec.allOnes 64))))
/-- `mcnt` (R215). -/
def execMcnt (a : BitVec 3) (d : BitVec 5) (s : State) : Out :=
  finish s (pure (retire (s.wr d (w64 (s.chosen a).length))))

/-! ### Reductions -/

/-- A reduction of the performed elements x(i), from the value of an empty one (R217, R218). -/
def reduce (d : BitVec 5) (a : BitVec 6) (m : BitVec 3) (x : Nat → Int) (f : Int → Int → Int) (e : Int) (s : State) : Out :=
  finish s (do
    legalIf (s.vOk a)
    pure (retire (s.wr d (wrap64 ((s.performed m.toNat).foldl (fun r i => f r (x i)) e)))))

/-- The width of the source elements (07_lanes.md R191). -/
def State.wa (s : State) : Nat := widthOf s.ewa

/-- A bitwise operation on patterns of ewa.w bits, read by `ewa.s` (R217). -/
def patternOp (s : State) (f : Nat → Nat → Nat) (x y : Int) : Int :=
  readAs (f (truncN x s.wa) (truncN y s.wa)) s.ewa

/-- `vredsum` (R217, R218). -/
def execVredsum (d : BitVec 5) (a : BitVec 6) (m : BitVec 3) (s : State) : Out :=
  reduce d a m (s.sA a) (· + ·) 0 s
/-- `vredsumu` (R217, R218). -/
def execVredsumu (d : BitVec 5) (a : BitVec 6) (m : BitVec 3) (s : State) : Out :=
  reduce d a m (s.uA a) (· + ·) 0 s
/-- `vredmin` (R217, R218). -/
def execVredmin (d : BitVec 5) (a : BitVec 6) (m : BitVec 3) (s : State) : Out :=
  reduce d a m (s.sA a) min ((2 ^ (s.wa - 1) : Nat) - 1) s
/-- `vredmax` (R217, R218). -/
def execVredmax (d : BitVec 5) (a : BitVec 6) (m : BitVec 3) (s : State) : Out :=
  reduce d a m (s.sA a) max (-(2 ^ (s.wa - 1) : Nat)) s
/-- `vredminu` (R217, R218). -/
def execVredminu (d : BitVec 5) (a : BitVec 6) (m : BitVec 3) (s : State) : Out :=
  reduce d a m (s.uA a) min ((2 ^ s.wa : Nat) - 1) s
/-- `vredmaxu` (R217, R218). -/
def execVredmaxu (d : BitVec 5) (a : BitVec 6) (m : BitVec 3) (s : State) : Out :=
  reduce d a m (s.uA a) max 0 s
/-- `vredand` (R217, R218). -/
def execVredand (d : BitVec 5) (a : BitVec 6) (m : BitVec 3) (s : State) : Out :=
  reduce d a m (s.srcA a) (patternOp s (· &&& ·)) (readAs (2 ^ s.wa - 1) s.ewa) s
/-- `vredor` (R217, R218). -/
def execVredor (d : BitVec 5) (a : BitVec 6) (m : BitVec 3) (s : State) : Out :=
  reduce d a m (s.srcA a) (patternOp s (· ||| ·)) 0 s
/-- `vredxor` (R217, R218). -/
def execVredxor (d : BitVec 5) (a : BitVec 6) (m : BitVec 3) (s : State) : Out :=
  reduce d a m (s.srcA a) (patternOp s (· ^^^ ·)) 0 s

/-! ### Permutes -/

/-- A permute (R220): x(i) is the value element i receives, none when it keeps its own. -/
def permute (d a : BitVec 6) (ok : Bool) (x : Nat → Option Int) (s : State) : Out :=
  finish s (do
    legalIf (s.destOk d && s.vOk a && ok)
    pure (retire (writeElems s d.toNat (fun i => (x i).map (fun v => truncN v s.wd)))))

/-- `SrcA(k)` when k < vl, else 0 (R221, R222). -/
def State.srcOr0 (s : State) (a : BitVec 6) (k : Nat) : Int := if k < s.lanes.vl.toNat then s.srcA a k else 0

/-- `vperm` (R221). -/
def execVperm (d a b : BitVec 6) (m : BitVec 3) (s : State) : Out :=
  permute d a (s.vOk b) (fun i => if s.mb m i then some (s.srcOr0 a (s.uB b i)) else none) s
/-- `vslup` (R222). -/
def execVslup (d a : BitVec 6) (b : BitVec 5) (m : BitVec 3) (s : State) : Out :=
  let n := (s.rd b).toNat
  permute d a true (fun i => if s.mb m i && n ≤ i then some (s.srcA a (i - n)) else none) s
/-- `vsldn` (R222). -/
def execVsldn (d a : BitVec 6) (b : BitVec 5) (m : BitVec 3) (s : State) : Out :=
  permute d a true (fun i => if s.mb m i then some (s.srcOr0 a (i + (s.rd b).toNat)) else none) s
/-- `vcomp` (R223): element j receives the j-th selected element. -/
def execVcomp (d a : BitVec 6) (m : BitVec 3) (s : State) : Out :=
  let l := s.chosen m
  permute d a true (fun j => some (match l[j]? with
    | some i => s.srcA a i
    | none => 0)) s
/-- `vexpd` (R223): a selected element receives the source element numbered by the selected ones before it. -/
def execVexpd (d a : BitVec 6) (m : BitVec 3) (s : State) : Out :=
  permute d a true (fun i => if s.mb m i then some (s.srcA a ((upto 0 i).filter (s.mb m)).length) else none) s

end Sys2Proof.Machine
end

