-- ==== Sys2Proof/Machine/Flags.lean ====
section
/-!
DEFINITION. Number formats, rounding and the flags that rounding and conversion set (05_numbers.md R117 to R140).
-/

namespace Sys2Proof.Machine

/-- A value with the bits of `fflags` (R127) and `qflags` (R128) that producing it sets. -/
structure Flagged where
  val : Nat
  f : BitVec 5 := 0
  q : BitVec 4 := 0
  deriving DecidableEq, Repr

/-- fflags.nx (R127). -/
def fNx : BitVec 5 := 1
/-- fflags.uf (R127). -/
def fUf : BitVec 5 := 2
/-- fflags.of (R127). -/
def fOf : BitVec 5 := 4
/-- fflags.dz (R127). -/
def fDz : BitVec 5 := 8
/-- fflags.nv (R127). -/
def fNv : BitVec 5 := 16
/-- qflags.si (R128). -/
def qSi : BitVec 4 := 1
/-- qflags.sf (R128). -/
def qSf : BitVec 4 := 2
/-- qflags.al (R128). -/
def qAl : BitVec 4 := 4
/-- qflags.mn (R128). -/
def qMn : BitVec 4 := 8

/-- The bits of a flag when a condition holds. -/
def when {n : Nat} (c : Bool) (x : BitVec n) : BitVec n := if c then x else 0

/-- A result with further flags. -/
def Flagged.and (r : Flagged) (f : BitVec 5) (q : BitVec 4) : Flagged := ⟨r.val, r.f ||| f, r.q ||| q⟩

/-- The rounding modes (R124). -/
inductive Rounding where
  | rne | rtz | rup | rdn | rod
  deriving DecidableEq, Repr

/-- The mode with a number; unlisted numbers are never held (R124). -/
def Rounding.ofCode (n : Nat) : Rounding :=
  match n with
  | 0 => .rne
  | 1 => .rtz
  | 2 => .rup
  | 3 => .rdn
  | _ => .rod

/-- `frm.mode` (R124). -/
def State.frm (s : State) : Rounding := Rounding.ofCode s.lanes.frm.toNat

/-- What a floating-point format keeps beside finite values (R120). -/
inductive Special where
  | none | nanOnly | ieee
  deriving DecidableEq, Repr

/-- A floating-point format (R120): width, fraction width m, bias, the magnitude codes of the largest finite value, of
what stands in place of an infinity, and of the canonical NaN (R121). -/
structure Fmt where
  width : Nat
  mb : Nat
  bias : Nat
  maxMag : Nat
  infMag : Nat
  nanMag : Nat
  special : Special
  deriving DecidableEq, Repr

/-- FP32 (R120). -/
def fp32 : Fmt := ⟨32, 23, 127, 0x7F7FFFFF, 0x7F800000, 0x7FC00000, .ieee⟩
/-- FP16 (R120). -/
def fp16 : Fmt := ⟨16, 10, 15, 0x7BFF, 0x7C00, 0x7E00, .ieee⟩
/-- BF16 (R120). -/
def bf16 : Fmt := ⟨16, 7, 127, 0x7F7F, 0x7F80, 0x7FC0, .ieee⟩
/-- FP8 E4M3 (R120). -/
def e4m3 : Fmt := ⟨8, 3, 7, 0x7E, 0x7F, 0x7F, .nanOnly⟩
/-- FP8 E5M2 (R120). -/
def e5m2 : Fmt := ⟨8, 2, 15, 0x7B, 0x7C, 0x7E, .ieee⟩
/-- FP4 E2M1 (R120). -/
def e2m1 : Fmt := ⟨4, 1, 1, 7, 7, 7, .none⟩
/-- FP6 E2M3 (R120). -/
def e2m3 : Fmt := ⟨6, 3, 1, 0x1F, 0x1F, 0x1F, .none⟩
/-- FP6 E3M2 (R120). -/
def e3m2 : Fmt := ⟨6, 2, 3, 0x1F, 0x1F, 0x1F, .none⟩

/-- The format of a format code from 0 to 7 (R136). -/
def fmtOf (c : Nat) : Fmt :=
  match c with
  | 0 => fp32
  | 1 => fp16
  | 2 => bf16
  | 3 => e4m3
  | 4 => e5m2
  | 5 => e2m1
  | 6 => e2m3
  | _ => e3m2

/-- The value of a code: finite (-1)^neg × m × 2^e, an infinity, a NaN, or the NaN scale of E8M0 (R120 to R122). -/
inductive Num where
  | fin (neg : Bool) (m : Nat) (e : Int)
  | inf (neg : Bool)
  | nan (neg : Bool) (signalling : Bool)
  | badScale
  deriving DecidableEq, Repr

/-- The value of a code of a floating-point format; only its low bits are read (R119, R120, R121). -/
def valFp (F : Fmt) (x : Nat) : Num :=
  let neg := bitOf x (F.width - 1)
  let mag := x % 2 ^ (F.width - 1)
  let E := mag / 2 ^ F.mb
  let fr := mag % 2 ^ F.mb
  let fin : Num :=
    if E = 0 then .fin neg fr (1 - F.bias - F.mb) else .fin neg (2 ^ F.mb + fr) ((E : Int) - F.bias - F.mb)
  match F.special with
  | .none => fin
  | .nanOnly => if mag = F.nanMag then .nan neg false else fin
  | .ieee =>
    if mag = F.infMag then .inf neg
    else if F.infMag < mag then .nan neg (!bitOf fr (F.mb - 1))
    else fin

/-- The value of a signed integer (R117). -/
def valInt (x : Int) : Num := .fin (decide (x < 0)) x.natAbs 0

/-- 2^(c - 127), or the NaN scale (R122). -/
def valScale (x : Nat) : Num := if x % 256 = 255 then .badScale else .fin false 1 ((x % 256 : Nat) - 127)

/-- `Val(x, src)` of R138 by format code (R136). -/
def valOf (c x : Nat) : Num :=
  if c ≤ 7 then valFp (fmtOf c) x
  else if c = 8 then valScale x
  else if c = 9 then valInt (sext x 8)
  else if c = 10 then valInt (sext x 16)
  else if c = 11 then valInt (sext x 32)
  else if c = 12 then valInt (x % 2 ^ 8 : Nat)
  else if c = 13 then valInt (x % 2 ^ 16 : Nat)
  else if c = 14 then valInt (x % 2 ^ 32 : Nat)
  else
    let v := sext x 8
    .fin (decide (v < 0)) v.natAbs (-6)

/-- An exact nonzero magnitude: m × 2^e, or, when `rest` is set, some value strictly between m × 2^e and (m + 1) × 2^e. A
user of `rest` gives enough bits that no grid line of the target lies inside. m = 0 without `rest` is zero. -/
structure Exact where
  neg : Bool
  m : Nat
  e : Int
  rest : Bool := false
  deriving DecidableEq, Repr

/-- Round a magnitude to the grid of spacing 2^g: the multiple of 2^g, and whether it is inexact (R125). -/
def roundGrid (mode : Rounding) (x : Exact) (g : Int) : Nat × Bool :=
  if g ≤ x.e then (x.m * 2 ^ (x.e - g).toNat, x.rest)
  else
    let k := (g - x.e).toNat
    let lo := x.m / 2 ^ k
    let r := x.m % 2 ^ k
    let nx := r != 0 || x.rest
    let half := 2 ^ (k - 1)
    let up := match mode with
      | .rne => decide (half < r) || (r == half && (x.rest || lo % 2 == 1))
      | .rtz => false
      | .rup => !x.neg
      | .rdn => x.neg
      | .rod => lo % 2 == 0
    (if nx && up then lo + 1 else lo, nx)

/-- floor(log2 x) of a nonzero magnitude. -/
def Exact.log (x : Exact) : Int := (Nat.log2 x.m : Int) + x.e

/-- A magnitude code after rounding, before overflow is looked at, with nx and uf (R125, R127). -/
structure Rounded where
  mag : Nat
  nx : Bool
  uf : Bool
  deriving DecidableEq, Repr

/-- `Round(x, mode)` into a format (R125). The magnitude code lies above `maxMag` exactly when rounding overflows. -/
def roundMag (F : Fmt) (mode : Rounding) (x : Exact) : Rounded :=
  if x.m = 0 then ⟨0, false, false⟩
  else
    let emin : Int := 1 - F.bias
    let top := max x.log emin
    let r := roundGrid mode x (top - F.mb)
    let mag := if r.1 < 2 ^ F.mb then r.1 else (top + F.bias).toNat * 2 ^ F.mb + (r.1 - 2 ^ F.mb)
    let u := roundGrid mode x (x.log - F.mb)
    let tiny := decide ((if u.1 = 2 ^ (F.mb + 1) then x.log + 1 else x.log) < emin)
    ⟨mag, r.2, r.2 && tiny⟩

/-- The sign bit of a format. -/
def signBit (F : Fmt) (neg : Bool) : Nat := if neg then 2 ^ (F.width - 1) else 0

/-- `Overflow(sign, mode)` with saturation off (R126). -/
def overflowMag (F : Fmt) (mode : Rounding) (neg : Bool) : Nat :=
  match mode with
  | .rne => F.infMag
  | .rtz => F.maxMag
  | .rup => if neg then F.maxMag else F.infMag
  | .rdn => if neg then F.infMag else F.maxMag
  | .rod => F.maxMag

/-- Round an exact value into a format that has an infinity or a NaN, with its flags (R125 to R128, R131). Overflow of E4M3
with sat = 0 gives the NaN code of R126, also where R133 says that no NaN is produced (DESIGN CHOICE, log 36). -/
def roundTo (F : Fmt) (mode : Rounding) (sat : Bool) (x : Exact) : Flagged :=
  let r := roundMag F mode x
  let sgn := signBit F x.neg
  if F.maxMag < r.mag then
    if sat then ⟨sgn + F.maxMag, fOf ||| fNx, qSf⟩ else ⟨sgn + overflowMag F mode x.neg, fOf ||| fNx, 0⟩
  else ⟨sgn + r.mag, when r.nx fNx ||| when r.uf fUf, 0⟩

/-- Round into FP32 with saturation off. -/
def roundF (mode : Rounding) (x : Exact) : Flagged := roundTo fp32 mode false x

/-- The canonical NaN of a format (R121). -/
def nanCode (F : Fmt) (neg : Bool) : Nat := signBit F neg + F.nanMag

/-- `Cvt` and `Encode` into a floating-point format of R131 and R133. -/
def cvtFp (F : Fmt) (mode : Rounding) (sat : Bool) : Num → Flagged
  | .fin neg m e => roundTo F mode sat ⟨neg, m, e, false⟩
  | .inf neg =>
    if sat then ⟨signBit F neg + F.maxMag, 0, qSf⟩
    else ⟨signBit F neg + F.infMag, when (F.special != .ieee) fNv, 0⟩
  | .nan neg sig => ⟨nanCode F neg, when sig fNv, 0⟩
  | .badScale => ⟨nanCode F false, 0, qMn⟩

/-- An integer format: width and signedness (R117). -/
structure IntFmt where
  k : Nat
  signed : Bool
  deriving DecidableEq, Repr

/-- The integer format of a format code from 9 to 14 (R136). -/
def intFmtOf (c : Nat) : IntFmt :=
  match c with
  | 9 => ⟨8, true⟩
  | 10 => ⟨16, true⟩
  | 11 => ⟨32, true⟩
  | 12 => ⟨8, false⟩
  | 13 => ⟨16, false⟩
  | _ => ⟨32, false⟩

/-- The least value of an integer format (R117). -/
def IntFmt.lo (I : IntFmt) : Int := if I.signed then -(2 ^ (I.k - 1) : Nat) else 0
/-- The greatest value of an integer format (R117). -/
def IntFmt.hi (I : IntFmt) : Int := if I.signed then (2 ^ (I.k - 1) : Nat) - 1 else (2 ^ I.k : Nat) - 1

/-- The word-register element that holds an integer of a format (R119). -/
def IntFmt.element (I : IntFmt) (x : Int) : Nat :=
  if I.signed then truncN (sext (truncN x I.k) I.k) 32 else truncN x I.k

/-- An exact value rounded to an integer, and whether it is inexact (R125 with q = 1). -/
def roundInt (mode : Rounding) (x : Exact) : Int × Bool :=
  let r := roundGrid mode x 0
  (if x.neg then -(r.1 : Int) else (r.1 : Int), r.2)

/-- What an infinity or a NaN gives without saturation (R132). -/
def IntFmt.invalid (I : IntFmt) : Nat := if I.signed then I.element (2 ^ (I.k - 1) : Nat) else 0

/-- `Cvt` into an integer format (R132). -/
def cvtInt (I : IntFmt) (mode : Rounding) (sat : Bool) : Num → Flagged
  | .fin neg m e =>
    let r := roundInt mode ⟨neg, m, e, false⟩
    if I.lo ≤ r.1 ∧ r.1 ≤ I.hi then ⟨I.element r.1, when r.2 fNx, 0⟩
    else if sat then ⟨I.element (Machine.sat r.1 I.lo I.hi), fNv ||| when r.2 fNx, qSi⟩
    else ⟨I.element r.1, fNv ||| when r.2 fNx, 0⟩
  | .inf neg =>
    if sat then ⟨I.element (if neg then I.lo else I.hi), fNv, qSi⟩ else ⟨I.invalid, fNv, 0⟩
  | .nan _ _ => ⟨if sat then 0 else I.invalid, fNv, 0⟩
  | .badScale => ⟨if sat then 0 else I.invalid, fNv, qMn⟩

/-- Round into an MX element format with ±maxF in place of an overflow (−2 for MXINT8): the code, and whether it was
clamped (R139). uf is never set for MXINT8 (R127). -/
def packElem (c : Nat) (mode : Rounding) (x : Exact) : Flagged × Bool :=
  if c = 15 then
    let r := roundInt mode { x with e := x.e + 6 }
    let v := Machine.sat r.1 (-128) 127
    (⟨truncN v 8, when (r.2 || v != r.1) fNx, 0⟩, v != r.1)
  else
    let F := fmtOf c
    let r := roundMag F mode x
    if F.maxMag < r.mag then (⟨signBit F x.neg + F.maxMag, fNx, 0⟩, true)
    else (⟨signBit F x.neg + r.mag, when r.nx fNx ||| when r.uf fUf, 0⟩, false)

/-- emax_elem of an MX element format (R123). -/
def emaxElem (c : Nat) : Int :=
  match c with
  | 5 => 2
  | 6 => 2
  | 7 => 4
  | _ => 0

/-- The value is a NaN or an infinity. -/
def Num.isSpecial : Num → Bool
  | .fin _ _ _ => false
  | _ => true

/-- The value is a signalling NaN or an infinity. -/
def Num.isInvalid : Num → Bool
  | .inf _ => true
  | .nan _ sig => sig
  | _ => false

/-- The magnitude as an exact value; specials give zero. -/
def Num.exact : Num → Exact
  | .fin neg m e => ⟨neg, m, e, false⟩
  | _ => ⟨false, 0, 0, false⟩

/-- A scaled exact value: x × 2^k. -/
def Exact.scale (x : Exact) (k : Int) : Exact := { x with e := x.e + k }

/-- One packed MX block: the scale code, the element codes, and the flags (R139). -/
structure Packed where
  scale : Nat
  codes : List Nat
  f : BitVec 5
  q : BitVec 4
  deriving DecidableEq, Repr

/-- Pack one block (R139). -/
def packBlock (c : Nat) (mode : Rounding) (xs : List Num) : Packed :=
  if xs.any Num.isSpecial then ⟨255, xs.map (fun _ => 0), when (xs.any Num.isInvalid) fNv, qMn⟩
  else
    let ys := (xs.map Num.exact).filter (fun x => x.m != 0)
    match ys with
    | [] => ⟨127, xs.map (fun _ => 0), 0, 0⟩
    | y :: t =>
      let top := t.foldl (fun a x => max a x.log) y.log
      let e := Machine.sat (top - emaxElem c) (-127) 127
      let rs := xs.map (fun x => (packElem c mode (x.exact.scale (-e))).1)
      ⟨(e + 127).toNat, rs.map (·.val), rs.foldl (fun a r => a ||| r.f) 0, 0⟩

/-- A scaled element expanded into FP32 (R140). -/
def unpackElem (c : Nat) (mode : Rounding) (scale x : Nat) : Flagged :=
  if scale % 256 = 255 then ⟨0x7FC00000, 0, qMn⟩
  else roundF mode ((valOf c x).exact.scale ((scale % 256 : Nat) - 127))

/-! ### Aligned integerisation -/

/-- The lane integer of an MX element and the f of R134. -/
def laneShift (c : Nat) : Nat :=
  match c with
  | 5 => 1
  | 6 => 3
  | 7 => 4
  | _ => 6

/-- An exact value times 2^k as an integer, rounded to nearest even, and whether that is inexact (R134, R135). -/
def alignInt (x : Exact) (k : Int) : Int × Bool := roundInt .rne (x.scale k)

end Sys2Proof.Machine
end

