-- ==== Sys2Proof/Machine/Float.lean ====
section
/-!
DEFINITION. FP32 arithmetic (09_word.md R231 to R234): each operation rounds its exact result once.
-/

namespace Sys2Proof.Machine

/-- The canonical NaN of FP32. -/
def nan32 : Nat := 0x7FC00000

/-- The value of an FP32 code. -/
def val32 (x : Nat) : Num := valFp fp32 x

/-- A NaN result with nv when it is invalid. -/
def nanResult (nv : Bool) : Flagged := ⟨nan32, when nv fNv, 0⟩

/-- The value is a signalling NaN. -/
def Num.isSig : Num → Bool
  | .nan _ sig => sig
  | _ => false

/-- The value is a NaN. -/
def Num.isNan : Num → Bool
  | .nan _ _ => true
  | .badScale => true
  | _ => false

/-- The signed integer n such that an exact value is n × 2^e, for an e not above its own. -/
def Exact.at (x : Exact) (e : Int) : Int :=
  let n : Int := (x.m * 2 ^ (x.e - e).toNat : Nat)
  if x.neg then -n else n

/-- The exact sum of two exact values; the sign of a zero sum by R231. -/
def addExact (mode : Rounding) (x y : Exact) : Exact :=
  let e := min x.e y.e
  let n := x.at e + y.at e
  if n = 0 then ⟨if x.neg = y.neg then x.neg else mode == .rdn, 0, 0, false⟩
  else ⟨decide (n < 0), n.natAbs, e, false⟩

/-- The exact product. -/
def mulExact (x y : Exact) : Exact := ⟨x.neg != y.neg, x.m * y.m, x.e + y.e, false⟩

/-- The negated value. -/
def Num.negate : Num → Num
  | .fin n m e => .fin (!n) m e
  | .inf n => .inf (!n)
  | x => x

/-- Any of the operands is a signalling NaN. -/
def anySig (xs : List Num) : Bool := xs.any Num.isSig

/-- `wadd` on values (R232, R233). -/
def addNum (mode : Rounding) (x y : Num) : Flagged :=
  if x.isNan || y.isNan then nanResult (anySig [x, y])
  else match x, y with
    | .inf a, .inf b => if a = b then ⟨signBit fp32 a + fp32.infMag, 0, 0⟩ else nanResult true
    | .inf a, _ => ⟨signBit fp32 a + fp32.infMag, 0, 0⟩
    | _, .inf b => ⟨signBit fp32 b + fp32.infMag, 0, 0⟩
    | x, y => roundF mode (addExact mode x.exact y.exact)

/-- The value is an infinity. -/
def Num.isInf : Num → Bool
  | .inf _ => true
  | _ => false

/-- The sign of a value. -/
def Num.neg : Num → Bool
  | .fin n _ _ => n
  | .inf n => n
  | .nan n _ => n
  | .badScale => false

/-- The value is zero. -/
def Num.isZero : Num → Bool
  | .fin _ m _ => m == 0
  | _ => false

/-- Zero times an infinity (R233). -/
def zeroTimesInf (x y : Num) : Bool := (x.isZero && y.isInf) || (x.isInf && y.isZero)

/-- `wmul` on values (R232, R233). -/
def mulNum (mode : Rounding) (x y : Num) : Flagged :=
  if x.isNan || y.isNan then nanResult (anySig [x, y])
  else if zeroTimesInf x y then nanResult true
  else if x.isInf || y.isInf then ⟨signBit fp32 (x.neg != y.neg) + fp32.infMag, 0, 0⟩
  else roundF mode (mulExact x.exact y.exact)

/-- The addend is an infinity whose sign is opposite to the product's: invalid, whether the product is finite or infinite
(R233; log 31). -/
def opposed (productNeg : Bool) (z : Num) : Bool := z.isInf && z.neg != productNeg

/-- A fused multiply-add x × y + z on values (R232, R233). -/
def fmaNum (mode : Rounding) (x y z : Num) : Flagged :=
  if zeroTimesInf x y then nanResult true
  else if x.isNan || y.isNan || z.isNan then nanResult (anySig [x, y, z])
  else if opposed (x.neg != y.neg) z then nanResult true
  else if x.isInf || y.isInf then ⟨signBit fp32 (x.neg != y.neg) + fp32.infMag, 0, 0⟩
  else if z.isInf then ⟨signBit fp32 z.neg + fp32.infMag, 0, 0⟩
  else roundF mode (addExact mode (mulExact x.exact y.exact) z.exact)

/-- The exact quotient of nonzero magnitudes, with enough bits for any format. -/
def divExact (neg : Bool) (x y : Exact) : Exact :=
  let n := x.m * 2 ^ 64
  ⟨neg, n / y.m, x.e - y.e - 64, n % y.m != 0⟩

/-- `wdiv` on values (R232, R233). -/
def divNum (mode : Rounding) (x y : Num) : Flagged :=
  let neg := x.neg != y.neg
  if x.isNan || y.isNan then nanResult (anySig [x, y])
  else if (x.isZero && y.isZero) || (x.isInf && y.isInf) then nanResult true
  else if x.isInf then ⟨signBit fp32 neg + fp32.infMag, 0, 0⟩
  else if y.isInf || x.isZero then ⟨signBit fp32 neg, 0, 0⟩
  else if y.isZero then ⟨signBit fp32 neg + fp32.infMag, fDz, 0⟩
  else roundF mode (divExact neg x.exact y.exact)

/-- floor of the square root of n, tried bit by bit from bit b - 1 down, on top of r. -/
def sqrtBits (n : Nat) : Nat → Nat → Nat
  | 0, r => r
  | b + 1, r => if (r + 2 ^ b) * (r + 2 ^ b) ≤ n then sqrtBits n b (r + 2 ^ b) else sqrtBits n b r

/-- floor of the square root. -/
def isqrt (n : Nat) : Nat := sqrtBits n (Nat.log2 n / 2 + 1) 0

/-- The exact square root of a positive magnitude, with enough bits for FP32. -/
def sqrtExact (x : Exact) : Exact :=
  let odd := x.e % 2
  let n := x.m * 2 ^ (64 + odd.toNat)
  let r := isqrt n
  ⟨false, r, (x.e - odd) / 2 - 32, r * r != n⟩

/-- `wsqrt` on values (R232, R233). -/
def sqrtNum (mode : Rounding) (x : Num) : Flagged :=
  if x.isNan then nanResult x.isSig
  else if x.isZero then ⟨signBit fp32 x.neg, 0, 0⟩
  else if x.neg then nanResult true
  else if x.isInf then ⟨fp32.infMag, 0, 0⟩
  else roundF mode (sqrtExact x.exact)

/-- An FP32 code that is no NaN, as an integer in the order of values, -0 below +0 (R234). -/
def order32 (x : Nat) : Int := if bitOf x 31 then -(x % 2 ^ 31 : Nat) - 1 else (x % 2 ^ 31 : Nat)

/-- `wmin` and `wmax` on codes (R234). -/
def minmax32 (greatest : Bool) (a b : Nat) : Flagged :=
  let x := val32 a
  let y := val32 b
  let f := when (anySig [x, y]) fNv
  if x.isNan && y.isNan then ⟨nan32, f, 0⟩
  else if x.isNan then ⟨b, f, 0⟩
  else if y.isNan then ⟨a, f, 0⟩
  else if decide (order32 a < order32 b) = greatest then ⟨b, f, 0⟩ else ⟨a, f, 0⟩

/-- Two FP32 values that are no NaN compare equal; -0 = +0 (R234). -/
def eq32 (a b : Nat) : Bool := a == b || (a % 2 ^ 31 == 0 && b % 2 ^ 31 == 0)

/-- The first is below the second, neither a NaN (R234). -/
def lt32 (a b : Nat) : Bool := !eq32 a b && decide (order32 a < order32 b)

/-- `weq` (R234). -/
def weq32 (a b : Nat) : Flagged :=
  let x := val32 a
  let y := val32 b
  ⟨bNat (!x.isNan && !y.isNan && eq32 a b), when (anySig [x, y]) fNv, 0⟩

/-- `wlt`, or `wle` when equality counts (R234). -/
def wlt32 (orEqual : Bool) (a b : Nat) : Flagged :=
  let x := val32 a
  let y := val32 b
  if x.isNan || y.isNan then ⟨0, fNv, 0⟩ else ⟨bNat (lt32 a b || (orEqual && eq32 a b)), 0, 0⟩

/-- `wadd` on codes. -/
def add32 (mode : Rounding) (a b : Nat) : Flagged := addNum mode (val32 a) (val32 b)

end Sys2Proof.Machine
end

