-- ==== Sys2Proof/Machine/Elementary.lean ====
section
/-!
DEFINITION. Transcendental functions, correctly rounded (09_word.md R236, R237). A function value is enclosed between two
fixed-point numbers with a proved-by-hand error bound; when both round alike the result is settled.
-/

namespace Sys2Proof.Machine

/-- Fraction bits of the fixed-point numbers: every FP32 value and every difference of two is a multiple of 2^-149. -/
def fixP : Nat := 640

/-- Fraction bits for `wsin` and `wcos`, whose arguments reach 2^128. -/
def fixQ : Nat := 800

/-- t/k + t/(k + 2)/n2 + …: the tail of the series of atanh, n2 the square of the inverse argument. -/
def atanhInv (n2 : Nat) : Nat → Nat → Nat → Nat
  | 0, _, _ => 0
  | f + 1, t, k => t / k + atanhInv n2 f (t / n2) (k + 2)

/-- The same with alternating signs: the series of atan. -/
def atanInv (n2 : Nat) : Nat → Nat → Nat → Int
  | 0, _, _ => 0
  | f + 1, t, k => (t / k : Nat) - atanInv n2 f (t / n2) (k + 2)

/-- ln 2 × 2^640, within 2^9. -/
def fixLn2 : Nat := 2 * atanhInv 9 216 (2 ^ fixP / 3) 1

/-- π/2 × 2^800, within 2^11 (Machin's formula). -/
def fixHalfPi : Int := 8 * atanInv 25 180 (2 ^ fixQ / 5) 1 - 2 * atanInv 57121 60 (2 ^ fixQ / 239) 1

/-- The series of exp from the term t on: t + t × r/k + …. -/
def expSeries (r : Int) : Nat → Int → Nat → Int
  | 0, _, _ => 0
  | f + 1, t, k => t + expSeries r f (t * r / 2 ^ fixP / k) (k + 1)

/-- exp of x × 2^-640, |x| < 2^648: a number E near 2^640 and k with exp = E × 2^(k - 640), E within 2^24. -/
def fixExp (x : Int) : Nat × Int :=
  let k := (x + (fixLn2 / 2 : Nat)) / (fixLn2 : Nat)
  ((expSeries (x - k * fixLn2) 130 (2 ^ fixP : Nat) 1).toNat, k)

/-- 2 atanh of z × 2^-640 for |z| ≤ 0.2: the series from the term t on. -/
def atanhSeries (z2 : Int) : Nat → Int → Nat → Int
  | 0, _, _ => 0
  | f + 1, t, k => t / k + atanhSeries z2 f (t * z2 / 2 ^ fixP) (k + 2)

/-- The alternating series of sin and cos from the term t on, with r2 the square of the argument. -/
def trigSeries (r2 : Int) : Nat → Int → Nat → Int
  | 0, _, _ => 0
  | f + 1, t, k => t - trigSeries r2 f (t * r2 / 2 ^ fixQ / (k * (k + 1) : Nat)) (k + 2)

/-- Round a positive value known to lie strictly between (v - err) × 2^e and (v + err) × 2^e. -/
def settle (fn a : Nat) (mode : Rounding) (neg : Bool) (v err : Nat) (e : Int) : Flagged :=
  let lo := roundF mode ⟨neg, v - err, e, true⟩
  let hi := roundF mode ⟨neg, v + err, e, true⟩
  if lo = hi then lo
  else ⟨(Config.undecided fn a (match mode with
    | .rne => 0
    | .rtz => 1
    | .rup => 2
    | .rdn => 3
    | .rod => 4)).toNat, fNx, 0⟩

/-- A positive result beyond every overflow. -/
def hugeF (mode : Rounding) : Flagged := roundF mode ⟨false, 1, 400, true⟩

/-- A positive result below every subnormal. -/
def tinyF (mode : Rounding) : Flagged := roundF mode ⟨false, 1, -400, true⟩

/-- A result just below 1 in magnitude. -/
def nearOne (mode : Rounding) (neg : Bool) : Flagged := roundF mode ⟨neg, 2 ^ 200 - 1, -200, true⟩

/-- exp of an exact finite value whose lowest bit is at 2^-640 or above, rounded once (R236, R244). -/
def expExact (fn a : Nat) (mode : Rounding) (x : Exact) : Flagged :=
  if x.m = 0 then ⟨0x3F800000, 0, 0⟩
  else if 7 ≤ x.log then (if x.neg then tinyF mode else hugeF mode)
  else
    let r := fixExp (x.at (-(fixP : Int)))
    settle fn a mode false r.1 (2 ^ 24) (r.2 - fixP)

/-- 2^x of a finite value (R236). -/
def exp2Exact (a : Nat) (mode : Rounding) (x : Exact) : Flagged :=
  if x.m = 0 then ⟨0x3F800000, 0, 0⟩
  else if 10 ≤ x.log then (if x.neg then tinyF mode else hugeF mode)
  else
    let v := x.at (-(fixP : Int))
    let k := v / (2 ^ fixP : Nat)
    let r := v % (2 ^ fixP : Nat)
    if r = 0 then roundF mode ⟨false, 1, k, false⟩
    else
      let t := fixExp (r * (fixLn2 : Nat) / (2 ^ fixP : Nat))
      settle 1 a mode false t.1 (2 ^ 26) (t.2 + k - fixP)

/-- ln x × 2^640 of a positive magnitude, within 2^20. -/
def fixLog (x : Exact) : Int :=
  let d := if 7 * 2 ^ Nat.log2 x.m < 5 * x.m then 2 ^ (Nat.log2 x.m + 1) else 2 ^ Nat.log2 x.m
  let k := x.e + (Nat.log2 d : Nat)
  let z := ((x.m : Int) - (d : Nat)) * (2 ^ fixP : Nat) / ((x.m + d : Nat) : Int)
  k * (fixLn2 : Nat) + 2 * atanhSeries (z * z / (2 ^ fixP : Nat)) 150 z 1

/-- ln x of a positive finite value (R236, R237). -/
def logExact (a : Nat) (mode : Rounding) (x : Exact) : Flagged :=
  if x.m = 2 ^ Nat.log2 x.m ∧ x.log = 0 then ⟨0, 0, 0⟩
  else
    let v := fixLog x
    settle 2 a mode (decide (v < 0)) v.natAbs (2 ^ 24) (-(fixP : Int))

/-- log2 x of a positive finite value (R236, R237). -/
def log2Exact (a : Nat) (mode : Rounding) (x : Exact) : Flagged :=
  if x.m = 2 ^ Nat.log2 x.m then roundF mode ⟨decide (x.log < 0), x.log.natAbs, 0, false⟩
  else
    let v := fixLog x
    settle 3 a mode (decide (v < 0)) (v.natAbs * 2 ^ fixP / fixLn2) (2 ^ 28) (-(fixP : Int))

/-- The exact inverse square root of a positive magnitude, with enough bits for FP32. -/
def rsqrtExact (x : Exact) : Exact :=
  let odd := x.e % 2
  let n := x.m * 2 ^ odd.toNat
  let r := isqrt (2 ^ 128 / n)
  ⟨false, r, -((x.e - odd) / 2) - 64, r * r * n != 2 ^ 128⟩

/-- exp(-|x|) × 2^640 for |x| < 128, within 2^25. -/
def fixExpNeg (x : Exact) : Nat :=
  let r := fixExp ({ x with neg := true }.at (-(fixP : Int)))
  r.1 / 2 ^ (-r.2).toNat

/-- tanh x of a nonzero finite value (R236). -/
def tanhExact (a : Nat) (mode : Rounding) (x : Exact) : Flagged :=
  if 6 ≤ x.log then nearOne mode x.neg
  else
    let t := fixExpNeg (x.scale 1)
    settle 6 a mode x.neg ((2 ^ fixP - t) * 2 ^ fixP / (2 ^ fixP + t)) (2 ^ 28) (-(fixP : Int))

/-- 1 / (1 + e^-x) of a nonzero finite value (R236). -/
def sigExact (a : Nat) (mode : Rounding) (x : Exact) : Flagged :=
  if 7 ≤ x.log then (if x.neg then tinyF mode else nearOne mode false)
  else
    let t := fixExpNeg x
    let v := if x.neg then t * 2 ^ fixP / (2 ^ fixP + t) else 2 ^ (2 * fixP) / (2 ^ fixP + t)
    settle 7 a mode false v (2 ^ 28) (-(fixP : Int))

/-- sin (quarter 0) or cos (quarter 1) of a nonzero finite value (R236): reduce by multiples of π/2. -/
def trigExact (fn a : Nat) (quarter : Int) (mode : Rounding) (x : Exact) : Flagged :=
  let v := x.at (-(fixQ : Int))
  let k := (v + fixHalfPi / 2) / fixHalfPi
  let r := v - k * fixHalfPi
  let r2 := r * r / (2 ^ fixQ : Nat)
  let q := ((k + quarter) % 4).toNat
  let y := if q % 2 = 0 then trigSeries r2 100 r 2 else trigSeries r2 100 (2 ^ fixQ : Nat) 1
  let y := if 2 ≤ q then -y else y
  settle fn a mode (decide (y < 0)) y.natAbs (2 ^ 150) (-(fixQ : Int))

/-- The functions of WFUNC by FN6 (R236). -/
inductive Func where
  | exp | exp2 | log | log2 | rcp | rsq | tanh | sig | sin | cos
  deriving DecidableEq, Repr

/-- A WFUNC function of an FP32 code in a rounding mode (R236, R237). -/
def funcNum (g : Func) (mode : Rounding) (a : Nat) : Flagged :=
  let x := val32 a
  let y := x.exact
  let one : Flagged := ⟨0x3F800000, 0, 0⟩
  let pinf (f : BitVec 5) : Flagged := ⟨fp32.infMag, f, 0⟩
  let ninf (f : BitVec 5) : Flagged := ⟨signBit fp32 true + fp32.infMag, f, 0⟩
  let zero (n : Bool) : Flagged := ⟨signBit fp32 n, 0, 0⟩
  if x.isNan then nanResult x.isSig
  else match g with
  | .exp => if x.isInf then (if x.neg then zero false else pinf 0) else expExact 0 a mode y
  | .exp2 => if x.isInf then (if x.neg then zero false else pinf 0) else exp2Exact a mode y
  | .log => if x.isZero then ninf fDz else if x.neg then nanResult true else if x.isInf then pinf 0 else logExact a mode y
  | .log2 => if x.isZero then ninf fDz else if x.neg then nanResult true else if x.isInf then pinf 0 else log2Exact a mode y
  | .rcp =>
    if x.isInf then zero x.neg
    else if x.isZero then (if x.neg then ninf fDz else pinf fDz)
    else roundF mode (divExact x.neg ⟨false, 1, 0, false⟩ y)
  | .rsq =>
    if x.isZero then (if x.neg then ninf fDz else pinf fDz)
    else if x.neg then nanResult true
    else if x.isInf then zero false
    else roundF mode (rsqrtExact y)
  | .tanh =>
    if x.isInf then ⟨signBit fp32 x.neg + 0x3F800000, 0, 0⟩
    else if x.isZero then zero x.neg
    else tanhExact a mode y
  | .sig =>
    if x.isInf then (if x.neg then zero false else one)
    else if x.isZero then ⟨0x3F000000, 0, 0⟩
    else sigExact a mode y
  | .sin => if x.isInf then nanResult true else if x.isZero then zero x.neg else trigExact 8 a 0 mode y
  | .cos => if x.isInf then nanResult true else if x.isZero then one else trigExact 9 a 1 mode y

end Sys2Proof.Machine
end

