-- ==== Sys2Proof/Machine/WordUnit.lean ====
section
/-!
DEFINITION. The word unit: arithmetic, functions, row operations, conversions and moves (09_word.md R229 to R250,
05_numbers.md R136 to R142, 14_sparse.md R377 to R380).
-/

namespace Sys2Proof.Machine

/-- The nonzero cells of a list of element values, from a key on. -/
def listCells (base : Nat) : List Nat → SMap 32
  | [] => []
  | v :: t => if BitVec.ofNat 32 v = 0#32 then listCells (base + 1) t else (base, BitVec.ofNat 32 v) :: listCells (base + 1) t

/-- A word register's elements become the 1,024 values of a list; elements beyond its end become zero (R229, R230). -/
def putWord (s : State) (r : Nat) (vals : List Nat) : State :=
  dirtyW { s with
    lanes.wreg := s.lanes.wreg.filter (fun c => decide (c.1 < 1024 * r)) ++ listCells (1024 * r) (vals.take 1024) ++
      s.lanes.wreg.filter (fun c => decide (1024 * r + 1024 ≤ c.1)) } r

/-- The 1,024 elements of a word register (R229). -/
def State.wordList (s : State) (r : BitVec 5) : List Nat := (upto 0 1024).map (s.word r.toNat)

/-- The union of the fflags bits of results (R231). -/
def allF (rs : List Flagged) : BitVec 5 := rs.foldl (fun a r => a ||| r.f) 0
/-- The union of the qflags bits of results (R231). -/
def allQ (rs : List Flagged) : BitVec 4 := rs.foldl (fun a r => a ||| r.q) 0

/-- Write results to a word register and set the union of their flags (R231). -/
def putResults (s : State) (d : BitVec 5) (rs : List Flagged) : State :=
  raiseQ (raiseF (putWord s d.toNat (rs.map (·.val))) (allF rs)) (allQ rs)

/-- An element-wise word instruction: result i is g(i) (R231). -/
def wordOp (d : BitVec 5) (g : Nat → Flagged) (s : State) : Out :=
  finish s (pure (retire (putResults s d ((upto 0 1024).map g))))

/-- A result without flags. -/
def plain (x : Nat) : Flagged := ⟨x, 0, 0⟩

/-- `wadd` (R232, R233). -/
def execWadd (d a b : BitVec 5) (s : State) : Out :=
  wordOp d (fun i => addNum s.frm (val32 (s.word a.toNat i)) (val32 (s.word b.toNat i))) s
/-- `wsub` (R232, R233). -/
def execWsub (d a b : BitVec 5) (s : State) : Out :=
  wordOp d (fun i => addNum s.frm (val32 (s.word a.toNat i)) (val32 (s.word b.toNat i)).negate) s
/-- `wmul` (R232, R233). -/
def execWmul (d a b : BitVec 5) (s : State) : Out :=
  wordOp d (fun i => mulNum s.frm (val32 (s.word a.toNat i)) (val32 (s.word b.toNat i))) s
/-- `wfma` (R232, R233). -/
def execWfma (d a b c : BitVec 5) (s : State) : Out :=
  wordOp d (fun i => fmaNum s.frm (val32 (s.word a.toNat i)) (val32 (s.word b.toNat i)) (val32 (s.word c.toNat i))) s
/-- `wfms` (R232, R233). -/
def execWfms (d a b c : BitVec 5) (s : State) : Out :=
  wordOp d (fun i => fmaNum s.frm (val32 (s.word a.toNat i)) (val32 (s.word b.toNat i)) (val32 (s.word c.toNat i)).negate) s
/-- `wfnma` (R232, R233). -/
def execWfnma (d a b c : BitVec 5) (s : State) : Out :=
  wordOp d (fun i => fmaNum s.frm (val32 (s.word a.toNat i)).negate (val32 (s.word b.toNat i)) (val32 (s.word c.toNat i))) s
/-- `wdiv` (R232, R233). -/
def execWdiv (d a b : BitVec 5) (s : State) : Out :=
  wordOp d (fun i => divNum s.frm (val32 (s.word a.toNat i)) (val32 (s.word b.toNat i))) s
/-- `wsqrt` (R232, R233). -/
def execWsqrt (d a : BitVec 5) (s : State) : Out :=
  wordOp d (fun i => sqrtNum s.frm (val32 (s.word a.toNat i))) s
/-- `wmin` (R232, R234). -/
def execWmin (d a b : BitVec 5) (s : State) : Out :=
  wordOp d (fun i => minmax32 false (s.word a.toNat i) (s.word b.toNat i)) s
/-- `wmax` (R232, R234). -/
def execWmax (d a b : BitVec 5) (s : State) : Out :=
  wordOp d (fun i => minmax32 true (s.word a.toNat i) (s.word b.toNat i)) s
/-- `wabs` (R231, R232). -/
def execWabs (d a : BitVec 5) (s : State) : Out :=
  wordOp d (fun i => plain (s.word a.toNat i % 2 ^ 31)) s
/-- `wneg` (R231, R232). -/
def execWneg (d a : BitVec 5) (s : State) : Out :=
  wordOp d (fun i => plain ((s.word a.toNat i + 2 ^ 31) % 2 ^ 32)) s
/-- `weq` (R232, R234). -/
def execWeq (d a b : BitVec 5) (s : State) : Out :=
  wordOp d (fun i => weq32 (s.word a.toNat i) (s.word b.toNat i)) s
/-- `wlt` (R232, R234). -/
def execWlt (d a b : BitVec 5) (s : State) : Out :=
  wordOp d (fun i => wlt32 false (s.word a.toNat i) (s.word b.toNat i)) s
/-- `wle` (R232, R234). -/
def execWle (d a b : BitVec 5) (s : State) : Out :=
  wordOp d (fun i => wlt32 true (s.word a.toNat i) (s.word b.toNat i)) s
/-- `wsel` (R232, R234). -/
def execWsel (d a b c : BitVec 5) (s : State) : Out :=
  wordOp d (fun i => plain (if s.word c.toNat i ≠ 0 then s.word a.toNat i else s.word b.toNat i)) s
/-- `wmv` (R231, R232). -/
def execWmv (d a : BitVec 5) (s : State) : Out :=
  wordOp d (fun i => plain (s.word a.toNat i)) s

/-! ### Transcendental functions -/

/-- `wexp` (R236, R237). -/
def execWexp (d a : BitVec 5) (s : State) : Out := wordOp d (fun i => funcNum .exp s.frm (s.word a.toNat i)) s
/-- `wexp2` (R236, R237). -/
def execWexp2 (d a : BitVec 5) (s : State) : Out := wordOp d (fun i => funcNum .exp2 s.frm (s.word a.toNat i)) s
/-- `wlog` (R236, R237). -/
def execWlog (d a : BitVec 5) (s : State) : Out := wordOp d (fun i => funcNum .log s.frm (s.word a.toNat i)) s
/-- `wlog2` (R236, R237). -/
def execWlog2 (d a : BitVec 5) (s : State) : Out := wordOp d (fun i => funcNum .log2 s.frm (s.word a.toNat i)) s
/-- `wrcp` (R236, R237). -/
def execWrcp (d a : BitVec 5) (s : State) : Out := wordOp d (fun i => funcNum .rcp s.frm (s.word a.toNat i)) s
/-- `wrsq` (R236, R237). -/
def execWrsq (d a : BitVec 5) (s : State) : Out := wordOp d (fun i => funcNum .rsq s.frm (s.word a.toNat i)) s
/-- `wtanh` (R236, R237). -/
def execWtanh (d a : BitVec 5) (s : State) : Out := wordOp d (fun i => funcNum .tanh s.frm (s.word a.toNat i)) s
/-- `wsig` (R236, R237). -/
def execWsig (d a : BitVec 5) (s : State) : Out := wordOp d (fun i => funcNum .sig s.frm (s.word a.toNat i)) s
/-- `wsin` (R236, R237). -/
def execWsin (d a : BitVec 5) (s : State) : Out := wordOp d (fun i => funcNum .sin s.frm (s.word a.toNat i)) s
/-- `wcos` (R236, R237). -/
def execWcos (d a : BitVec 5) (s : State) : Out := wordOp d (fun i => funcNum .cos s.frm (s.word a.toNat i)) s

/-! ### Row operations -/

/-- The row length of a shape (R238). -/
def rowLength (shape : Nat) : Nat :=
  let l := fld shape 0 11
  if l = 0 ∨ 1024 < l then 1024 else l

/-- The valid positions of a row (R238). -/
def rowValid (shape : Nat) : Nat := min (fld shape 11 11) (rowLength shape)

/-- The rows of a word register's elements: the first n pieces of length l. -/
def rowsOf {α : Type} (l : Nat) : Nat → List α → List (List α)
  | 0, _ => []
  | n + 1, xs => xs.take l :: rowsOf l n (xs.drop l)

/-- The rounding mode of the sums and scans: nearest even in length-agnostic mode (R239, 05_numbers.md R129). -/
def State.rowMode (s : State) : Rounding := if s.la then .rne else s.frm

/-- `wadd` that also keeps the flags of its operands' own computation. -/
def addFlagged (mode : Rounding) (a b : Flagged) : Flagged := (add32 mode a.val b.val).and (a.f ||| b.f) 0

/-- One level of the tree: neighbours are added (R239). -/
def pairSums (mode : Rounding) : List Flagged → List Flagged
  | a :: b :: t => addFlagged mode a b :: pairSums mode t
  | l => l

/-- n levels of the tree. -/
def treeLevels (mode : Rounding) : Nat → List Flagged → List Flagged
  | 0, l => l
  | n + 1, l => treeLevels mode n (pairSums mode l)

/-- `Tree(y, P)` for P = 2^n (R239). -/
def treeSum (mode : Rounding) (n : Nat) (y : List Nat) : Flagged :=
  (treeLevels mode n (y.map plain ++ List.replicate (2 ^ n - y.length) (plain 0))).headD (plain 0)

/-- The length-agnostic sum over blocks of 32, at most n of them (R239). -/
def blockSum (mode : Rounding) : Nat → Flagged → List Nat → Flagged
  | 0, r, _ => r
  | n + 1, r, xs =>
    if xs = [] then r else blockSum mode n (addFlagged mode r (treeSum mode 5 (xs.take 32))) (xs.drop 32)

/-- The n of the least power of two 2^n ≥ x, for x at most 1,024. -/
def log2Up (x : Nat) : Nat := ((upto 0 11).find? (fun n => x ≤ 2 ^ n)).getD 10

/-- `Sum(init, x)` (R239). With nothing to add a NaN `init` is copied and sets no flag (DESIGN CHOICE, log 36). -/
def rowSum (la : Bool) (mode : Rounding) (init : Nat) (x : List Nat) : Flagged :=
  if la then blockSum mode 32 (plain init) x
  else addFlagged mode (plain init) (treeSum mode (log2Up x.length) x)

/-- A row reduction: g of wC[r] and the row's valid values (R240). -/
def rowReduce (d a b c : BitVec 5) (g : Nat → List Nat → Flagged) (s : State) : Out :=
  let shape := (s.rd b).toNat
  let l := rowLength shape
  let rows := (rowsOf l (1024 / l) (s.wordList a)).map (fun r => r.take (rowValid shape))
  finish s (pure (retire (putResults s d ((rows.zip (s.wordList c)).map (fun p => g p.2 p.1)))))

/-- `wmax` or `wmin` folded over a row (R240). With no value in the row a NaN x is copied and sets no flag (DESIGN CHOICE,
log 36). -/
def foldMinmax (greatest : Bool) (x : Nat) (l : List Nat) : Flagged :=
  l.foldl (fun r y => (minmax32 greatest r.val y).and r.f 0) (plain x)

/-- `wredsum` (R239, R240). -/
def execWredsum (d a b c : BitVec 5) (s : State) : Out := rowReduce d a b c (fun x l => rowSum s.la s.rowMode x l) s
/-- `wredmax` (R240). -/
def execWredmax (d a b c : BitVec 5) (s : State) : Out := rowReduce d a b c (foldMinmax true) s
/-- `wredmin` (R240). -/
def execWredmin (d a b c : BitVec 5) (s : State) : Out := rowReduce d a b c (foldMinmax false) s

/-- One row of a scan: v positions still valid, the running sum, the values (R242). A position before any addition copies a
NaN of wC[r] and sets no flag for it (DESIGN CHOICE, log 36). -/
def scanRow (excl : Bool) (add : Flagged → Nat → Flagged) : Nat → Flagged → List Nat → List Flagged
  | _, _, [] => []
  | 0, r, _ :: t => r :: scanRow excl add 0 r t
  | v + 1, r, x :: t =>
    let n := add r x
    (if excl then r else n) :: scanRow excl add v n t

/-- `iscan` and `fscan` (R242). -/
def rowScan (d a b c : BitVec 5) (add : Flagged → Nat → Flagged) (s : State) : Out :=
  let shape := (s.rd b).toNat
  let l := rowLength shape
  let rows := rowsOf l (1024 / l) (s.wordList a)
  finish s (pure (retire (putResults s d ((rows.zip (s.wordList c)).flatMap (fun p =>
    let scanned := scanRow (bitOf shape 34) add (rowValid shape) (plain p.2) p.1
    -- the flags of the last sum cover the whole row, also where an exclusive scan does not show that sum
    let all := p.1.take (rowValid shape) |>.foldl add (plain p.2)
    match scanned with
    | [] => []
    | x :: t => ⟨x.val, all.f, 0⟩ :: t)))))

/-- `iscan` (R242). -/
def execIscan (d a b c : BitVec 5) (s : State) : Out :=
  rowScan d a b c (fun r x => plain ((r.val + x) % 2 ^ 32)) s
/-- `fscan` (R242). -/
def execFscan (d a b c : BitVec 5) (s : State) : Out :=
  rowScan d a b c (fun r x => addFlagged s.rowMode r (plain x)) s

/-- Insert a position and its value behind every one that ranks no lower (R243). -/
def rankInsert (before : Nat → Nat → Bool) (x : Nat × Nat) : List (Nat × Nat) → List (Nat × Nat)
  | [] => [x]
  | y :: t => if before x.2 y.2 then x :: y :: t else y :: rankInsert before x t

/-- The eligible positions of a row with their values, ranked (R243). -/
def ranked (smallest : Bool) (xs : List (Nat × Nat)) : List (Nat × Nat) :=
  (xs.filter (fun p => !(val32 p.2).isNan)).foldl
    (fun acc p => rankInsert (fun x y => if smallest then lt32 x y else lt32 y x) p acc) []

/-- The l slots of a row from the ranked positions, k of them at most (R243): values and positions. -/
def topSlots (l k : Nat) (r : List (Nat × Nat)) : List (Nat × Nat) :=
  let chosen := (r.take k).map (fun p => (p.2, p.1))
  (chosen ++ List.replicate (l - chosen.length) (nan32, 0xFFFFFFFF)).take l

/-- `wtopk` (R243). -/
def execWtopk (d a b c : BitVec 5) (s : State) : Out :=
  let shape := (s.rd b).toNat
  let l := rowLength shape
  let xs := s.wordList a
  let rows := rowsOf l (1024 / l) xs
  let out := rows.flatMap (fun r =>
    topSlots l (min (fld shape 22 11) l) (ranked (bitOf shape 33) ((upto 0 l).zip (r.take (rowValid shape)))))
  let out := out ++ List.replicate (1024 - out.length) (nan32, 0xFFFFFFFF)
  let nv := rows.any (fun r => (r.take (rowValid shape)).any (fun x => (val32 x).isSig))
  finish s (do
    legalIf (distinct d c)
    let t := putWord (putWord s d.toNat (out.map (·.1))) c.toNat (out.map (·.2))
    pure (retire (raiseF t (when nv fNv))))

/-- The largest of some values, −∞ when there is none (R244). -/
def largest (xs : List Nat) : Nat := xs.foldl (fun m x => if lt32 m x then x else m) 0xFF800000

/-- One row of `wsmx` (R244): the outputs and the status. -/
def softmaxRow (la : Bool) (mode : Rounding) (l : Nat) (xs : List Nat) : List Flagged × Nat :=
  if xs.any (fun x => (val32 x).isNan || x == 0x7F800000) then
    let nv := xs.any (fun x => (val32 x).isSig || x == 0x7F800000)
    (List.replicate l (nanResult nv), 0)
  else
    let m := largest xs
    if m = 0xFF800000 then (List.replicate l (plain 0), 1)
    else
      let es := xs.map (fun x =>
        if x = 0xFF800000 then plain 0
        else expExact 10 x mode (addExact .rne (val32 x).exact (val32 m).negate.exact))
      let sum := rowSum la mode 0 (es.map (·.val))
      let qs := es.map (fun e => (divNum mode (val32 e.val) (val32 sum.val)).and (e.f ||| sum.f) 0)
      (qs ++ List.replicate (l - qs.length) (plain 0), 0)

/-- `wsmx` (R244). -/
def execWsmx (d a b c : BitVec 5) (s : State) : Out :=
  let shape := (s.rd b).toNat
  let l := rowLength shape
  let rows := (rowsOf l (1024 / l) (s.wordList a)).map (fun r => softmaxRow s.la s.rowMode l (r.take (rowValid shape)))
  finish s (do
    legalIf (distinct d c)
    pure (retire (putWord (putResults s d (rows.flatMap (·.1))) c.toNat (rows.map (·.2)))))

/-- One element of `wscl`: shape, element and scale (R245). -/
def scaleElem (mode : Rounding) (shape x c : Nat) : Flagged :=
  let v := if bitOf shape 35 then valOf 11 x else val32 x
  if bitOf shape 36 then
    match valScale c with
    | .badScale => (nanResult v.isSig).and 0 qMn
    | k => mulNum mode v k
  else mulNum mode v (val32 c)

/-- `wscl` (R245). -/
def execWscl (d a b c : BitVec 5) (s : State) : Out :=
  let shape := (s.rd b).toNat
  wordOp d (fun i => scaleElem s.frm shape (s.word a.toNat i) (s.word c.toNat (i / rowLength shape))) s

/-- What a merge has written and consumed so far (14_sparse.md R378). -/
structure Merge where
  out : List (Nat × Flagged)
  i : Nat
  j : Nat
  f : BitVec 5
  deriving DecidableEq, Repr

/-- The merge loop for at most n more steps: room entries may still be written; the rows are lists of index and value
still to come, and i and j count what is consumed (14_sparse.md R378). -/
def mergeLoop (z : Bool) : Nat → Nat → Nat → Nat → List (Nat × Nat) → List (Nat × Nat) → Merge
  | 0, _, i, j, _, _ => ⟨[], i, j, 0⟩
  | _ + 1, 0, i, j, _, _ => ⟨[], i, j, 0⟩
  | _ + 1, _ + 1, i, j, [], [] => ⟨[], i, j, 0⟩
  | n + 1, room + 1, i, j, x :: xs, [] =>
    let m := mergeLoop z n room (i + 1) j xs []
    { m with out := (x.1, plain x.2) :: m.out }
  | n + 1, room + 1, i, j, [], y :: ys =>
    let m := mergeLoop z n room i (j + 1) [] ys
    { m with out := (y.1, plain y.2) :: m.out }
  | n + 1, room + 1, i, j, x :: xs, y :: ys =>
    if x.1 < y.1 then
      let m := mergeLoop z n room (i + 1) j xs (y :: ys)
      { m with out := (x.1, plain x.2) :: m.out }
    else if y.1 < x.1 then
      let m := mergeLoop z n room i (j + 1) (x :: xs) ys
      { m with out := (y.1, plain y.2) :: m.out }
    else
      let v := add32 .rne x.2 y.2
      if z && v.val % 2 ^ 31 == 0 then
        let m := mergeLoop z n (room + 1) (i + 1) (j + 1) xs ys
        { m with f := m.f ||| v.f }
      else
        let m := mergeLoop z n room (i + 1) (j + 1) xs ys
        { m with out := (x.1, v) :: m.out, f := m.f ||| v.f }

/-- `smerge` (14_sparse.md R377 to R380). -/
def execSmerge (d a b c : BitVec 5) (s : State) : Out :=
  finish s (do
    legalIf (evenReg a && evenReg c && evenReg d)
    let v := (s.rd b).toNat
    let nx := min (fld v 0 11) 1024
    let ny := min (fld v 11 11) 1024
    let xs := ((s.wordList a).zip (s.wordList (a + 1))).take nx
    let ys := ((s.wordList c).zip (s.wordList (c + 1))).take ny
    let m := mergeLoop (bitOf v 22) 2049 1024 0 0 xs ys
    let idx := m.out.map (·.1)
    let pad := List.replicate (1024 - idx.length) 0xFFFFFFFF
    let t := putWord (putWord s d.toNat (idx ++ pad)) (d + 1).toNat (m.out.map (fun p => p.2.val))
    let status := idx.length + m.i * 2 ^ 11 + m.j * 2 ^ 22 + bNat (m.i == nx && m.j == ny) * 2 ^ 33
    pure (retire ((raiseF t m.f).wr b (w64 status))))

/-! ### Conversions -/

/-- The rounding mode of a conversion: `.odd` is bit 4 of B (05_numbers.md R138). -/
def cvtMode (s : State) (b : BitVec 5) : Rounding := if b.getLsbD 4 then .rod else s.frm

/-- `wcvt` (05_numbers.md R138). -/
def execWcvt (d a b c : BitVec 5) (s : State) : Out :=
  wordOp d (fun i => cvtFp (fmtOf (c.toNat % 16)) (cvtMode s b) (c.getLsbD 4) (valOf (b.toNat % 16) (s.word a.toNat i))) s
/-- `wcvti` (05_numbers.md R138). -/
def execWcvti (d a b c : BitVec 5) (s : State) : Out :=
  wordOp d (fun i => cvtInt (intFmtOf (c.toNat % 16)) (cvtMode s b) (c.getLsbD 4) (valOf (b.toNat % 16) (s.word a.toNat i))) s
/-- `wcvtf` (05_numbers.md R138). -/
def execWcvtf (d a b c : BitVec 5) (s : State) : Out :=
  wordOp d (fun i => cvtFp (fmtOf (c.toNat % 16)) (cvtMode s b) (c.getLsbD 4) (valOf (b.toNat % 16) (s.word a.toNat i))) s

/-- `wpkmx` (05_numbers.md R139). -/
def execWpkmx (d a b c : BitVec 5) (s : State) : Out :=
  finish s (do
    legalIf (distinct d c)
    let ps := (rowsOf 32 32 (s.wordList a)).map (fun x => packBlock (b.toNat % 16) (cvtMode s b) (x.map val32))
    let t := putWord (putWord s d.toNat (ps.flatMap (·.codes))) c.toNat (ps.map (·.scale))
    pure (retire (raiseQ (raiseF t (ps.foldl (fun x p => x ||| p.f) 0)) (ps.foldl (fun x p => x ||| p.q) 0))))

/-- `wupmx` (05_numbers.md R140). -/
def execWupmx (d a b c : BitVec 5) (s : State) : Out :=
  wordOp d (fun i => unpackElem (b.toNat % 16) (cvtMode s b) (s.word c.toNat (i / 32)) (s.word a.toNat i)) s

/-! ### Corner-turn moves -/

/-- The vector operand of a move is legal (R250). -/
def moveOk (s : State) (v : BitVec 6) : Bool := s.vOk v && (s.wd ≤ 16 || v.toNat % 2 == 0)

/-- `wmvv` (R248). -/
def execWmvv (w : BitVec 5) (v : BitVec 6) (a : BitVec 5) (s : State) : Out :=
  finish s (do
    legalIf (moveOk s v)
    let start := (s.rd a).toNat
    pure (retire (putWord s w.toNat ((upto 0 1024).map (fun k =>
      if start + k < s.lanes.vl.toNat then truncN (s.elemInt v.toNat (start + k) s.ewd) 32 else 0)))))

/-- `vmvw` (R248). -/
def execVmvw (w : BitVec 5) (v : BitVec 6) (a : BitVec 5) (s : State) : Out :=
  finish s (do
    legalIf (moveOk s v)
    let start := (s.rd a).toNat
    pure (retire (writeElems s v.toNat (fun e =>
      if start ≤ e ∧ e < start + 1024 then some (s.word w.toNat (e - start) % 2 ^ s.wd) else none))))

/-- Tile t (10_matrix.md R262). -/
def State.tile (s : State) (t : BitVec 2) : Tile :=
  match t.toNat with
  | 0 => s.lanes.tile0
  | 1 => s.lanes.tile1
  | 2 => s.lanes.tile2
  | _ => s.lanes.tile3

/-- Replace tile t, which is present from then on (10_matrix.md R262, 17_system.md R454). -/
def setTile (s : State) (t : BitVec 2) (x : Tile) : State :=
  let s := tileWritten s t.toNat
  match t.toNat with
  | 0 => { s with lanes.tile0 := x }
  | 1 => { s with lanes.tile1 := x }
  | 2 => { s with lanes.tile2 := x }
  | _ => { s with lanes.tile3 := x }

/-- `wmva` (R249). -/
def execWmva (w : BitVec 5) (t : BitVec 2) (a : BitVec 5) (s : State) : Out :=
  let g := (s.rd a).toNat % 8
  finish s (pure (retire (putWord s w.toNat ((upto 0 1024).map (fun k => (mapGet (s.tile t).elem (1024 * g + k)).toNat)))))

/-- `amvw` (R249). -/
def execAmvw (w : BitVec 5) (t : BitVec 2) (a : BitVec 5) (s : State) : Out :=
  let g := (s.rd a).toNat % 8
  let x := s.tile t
  let e := mapFill x.elem (1024 * g) 1024 (fun k => BitVec.ofNat 32 (s.word w.toNat (k - 1024 * g)))
  finish s (pure (retire (setTile s t { x with elem := e })))

end Sys2Proof.Machine
end

