-- ==== Sys2Proof/Machine/Matrix.lean ====
section
/-!
DEFINITION. Dot and matrix instructions, operand latch and accumulator tiles (10_matrix.md R253 to R276).
-/

namespace Sys2Proof.Machine

/-- Latch bank l (R256). -/
def State.bank (s : State) (l : BitVec 1) : Bank := if l = 0 then s.lanes.bank0 else s.lanes.bank1

/-- Replace latch bank l. -/
def setBank (s : State) (l : BitVec 1) (b : Bank) : State :=
  if l = 0 then { s with lanes.bank0 := b } else { s with lanes.bank1 := b }

/-! ### Configuration and status -/

/-- mcfg.kmode (R260). -/
def State.kmode (s : State) : Nat := fld s.lanes.mcfg.toNat 0 2
/-- mcfg.ab1 (R260). -/
def State.ab1 (s : State) : Bool := s.lanes.mcfg.getLsbD 2
/-- mcfg.bb1 (R260). -/
def State.bb1 (s : State) : Bool := s.lanes.mcfg.getLsbD 3
/-- The blocks of one promotion, p of R264. -/
def State.blocks (s : State) : Nat := if s.kmode = 0 then fld s.lanes.mcfg.toNat 4 3 + 1 else 1
/-- mcfg.ovftrap (R260). -/
def State.ovftrap (s : State) : Bool := s.lanes.mcfg.getLsbD 7

/-- Set or clear one bit of acst (R261). -/
def acstBit (s : State) (k : Nat) (b : Bool) : State :=
  { s with lanes.acst := if b then s.lanes.acst ||| w64 (2 ^ k) else s.lanes.acst &&& ~~~(w64 (2 ^ k)) }

/-- Set acst.mrow (R261). -/
def setMrow (s : State) (m : Nat) : State := { s with lanes.acst := w64 (setFld s.lanes.acst.toNat 16 5 m) }

/-- Add to acst.ocnt, saturating (R261, R264). -/
def addOcnt (s : State) (n : Nat) : State :=
  { s with lanes.acst := w64 (setFld s.lanes.acst.toNat 24 24 (min (fld s.lanes.acst.toNat 24 24 + n) (2 ^ 24 - 1))) }

/-- The format of tile t is FP32 (R261). -/
def State.tileF32 (s : State) (t : BitVec 2) : Bool := s.lanes.acst.getLsbD t.toNat

/-! ### Operands -/

/-- Element (m, k) of A is present (R253). -/
def Bank.present (b : Bank) (m k : Nat) : Bool := b.valid && decide (m < b.rows) && decide (k < b.klen)

/-- The code of element (m, k) of A (R256). -/
def Bank.code (b : Bank) (m k : Nat) : Nat := (mapGet b.data (128 * (m * b.p + k / 128) + k % 128)).toNat

/-- A code read as B1: +1 or −1 (R254). -/
def oneBit (x : Nat) : Int := if x % 2 = 0 then 1 else -1

/-- The value of element (m, k) of A (R254). -/
def Bank.value (b : Bank) (b1 : Bool) (m k : Nat) : Int :=
  if b1 then oneBit (b.code m k)
  else if b.sgn then sext (b.code m k) b.w
  else (b.code m k % 2 ^ b.w : Nat)

/-- The number of element (n, j, k) of B within vB (R253). -/
def bIndex (seg n j k : Nat) : Nat := (seg + j) * 32768 + 128 * n + k

/-- Element (n, j, k) of B is performed (R253). -/
def State.bPerformed (s : State) (seg n j k : Nat) : Bool :=
  decide (bIndex seg n j k < s.lanes.vl.toNat) && decide (n < s.lanes.grantE.toNat)

/-- The value of element (n, j, k) of B (R254). -/
def State.bValue (s : State) (b : BitVec 6) (seg n j k : Nat) : Int :=
  if s.bb1 then oneBit (s.elem b.toNat (bIndex seg n j k) 1) else s.elemInt b.toNat (bIndex seg n j k) s.ewb

/-- The exact sum of a × b over one block and the positions listed (R254, R264). -/
def blockDot (s : State) (bank : Bank) (b : BitVec 6) (seg m n j : Nat) (ks : List Nat) : Int :=
  ks.foldl (fun x k =>
    if bank.present m (128 * j + k) && s.bPerformed seg n j k then
      x + bank.value s.ab1 m (128 * j + k) * s.bValue b seg n j k
    else x) 0

/-- The exact sum over several blocks (R264). -/
def dotSum (s : State) (bank : Bank) (b : BitVec 6) (seg m n : Nat) (js ks : List Nat) : Int :=
  js.foldl (fun x j => x + blockDot s bank b seg m n j ks) 0

/-- The largest magnitude of a narrow value (R264). -/
def narLimit : Int := 8388607

/-- A narrow value (R264). -/
def narrow (x : Int) : Int := sat x (-narLimit) narLimit

/-- The condition on a B1 operand B (R268, R275). -/
def bb1Ok (s : State) : Bool := !s.bb1 || widthOf s.ewb == 1

/-- The condition on a B1 operand A (R268, R275). -/
def ab1Ok (s : State) (bank : Bank) : Bool := !s.ab1 || !bank.valid || bank.w == 1

/-- The conditions on B1 operands (R268, R275). -/
def b1Ok (s : State) (bank : Bank) : Bool := bb1Ok s && ab1Ok s bank

/-! ### Promotion -/

/-- An exact product of values that may be infinite or NaN, and whether it is invalid (R233, R265). -/
def mulX (x y : Num) : Num × Bool :=
  if zeroTimesInf x y then (.nan false false, true)
  else if x.isNan || y.isNan then (.nan false false, anySig [x, y])
  else if x.isInf || y.isInf then (.inf (x.neg != y.neg), false)
  else
    let r := mulExact x.exact y.exact
    (.fin r.neg r.m r.e, false)

/-- An exact sum of values that may be infinite or NaN, and whether it is invalid (R233, R265). -/
def addX (x y : Num) : Num × Bool :=
  if x.isNan || y.isNan then (.nan false false, anySig [x, y])
  else match x, y with
    | .inf a, .inf b => if a = b then (.inf a, false) else (.nan false false, true)
    | .inf a, _ => (.inf a, false)
    | _, .inf b => (.inf b, false)
    | x, y =>
      let r := addExact .rne x.exact y.exact
      (.fin r.neg r.m r.e, false)

/-- An exact product plus an addend by the fused-operation cases of R233 (R265). -/
def fuseX (p z : Num) : Num × Bool :=
  if !p.isNan && opposed p.neg z then (.nan false false, true) else addX p z

/-- A value times 2^k. -/
def scaleX (x : Num) (k : Int) : Num :=
  match x with
  | .fin n m e => .fin n m (e + k)
  | y => y

/-- An entry of an outlier list that contributes to an element: its A value and B value beside its word (R266). -/
structure Outlier where
  word : Nat
  a : Int
  b : Int
  deriving DecidableEq, Repr

/-- The entry is an FP16 value (R266). -/
def Outlier.real (o : Outlier) : Bool := bitOf o.word 31

/-- The entries of a tile's list that contribute to row m and strip n (R266). -/
def outliersAt (s : State) (bank : Bank) (tile : Tile) (b : BitVec 6) (seg m n : Nat) : List Outlier :=
  ((tile.entries.filter (fun e => fld e.toNat 16 8 == n && bank.present m (fld e.toNat 24 7) &&
      s.bPerformed seg n 0 (fld e.toNat 24 7))).map (fun e =>
    ⟨e.toNat, bank.value s.ab1 m (fld e.toNat 24 7), s.bValue b seg n 0 (fld e.toNat 24 7)⟩))

/-- corrections(INT8) (R266). -/
def intCorrection (os : List Outlier) : Int :=
  (os.filter (fun o => !o.real)).foldl (fun x o => x + (sext o.word 8 - o.b) * o.a) 0

/-- corrections(FP16), with the column scale (R266). -/
def realCorrection (sb : Num) (os : List Outlier) : Num × Bool :=
  (os.filter Outlier.real).foldl (fun r o =>
    let p := mulX sb (valInt o.b)
    let d := addX (valFp fp16 o.word) p.1.negate
    let t := mulX d.1 (valInt o.a)
    let u := addX r.1 t.1
    (u.1, r.2 || p.2 || d.2 || t.2 || u.2)) (.fin false 0 0, false)

/-- A promoted element: its new bits, flags, and whether an INT32 promotion wrapped (R265). -/
structure Promoted where
  val : Nat
  f : BitVec 5
  q : BitVec 4
  iw : Bool
  deriving DecidableEq, Repr

/-- Promotion in kmode 0 (R265): y is the exact sum. -/
def promoteInt (y : Int) : Promoted := ⟨truncN y 32, 0, 0, decide (y < -(2 ^ 31) ∨ 2 ^ 31 ≤ y)⟩

/-- Promotion in kmode 1 and 2 (R265). -/
def promoteReal (a rscale cscale : Nat) (eA eB : Int) (n : Int) (os : List Outlier) : Promoted :=
  if eA = -32768 ∨ eB = -128 then ⟨nan32, 0, qMn, false⟩
  else
    let sa := scaleX (val32 rscale) eA
    let sb := scaleX (val32 cscale) eB
    let p := mulX sb (valInt n)
    let c := realCorrection sb os
    let i := fuseX p.1 c.1
    let t := mulX sa i.1
    let term := match t.1 with
      | .fin _ 0 _ => .fin false 0 0
      | x => x
    let r := if !term.isNan && !term.isZero && opposed term.neg (val32 a) then nanResult true
      else addNum .rne (val32 a) term
    ⟨r.val, r.f ||| when (p.2 || c.2 || i.2 || t.2) fNv, 0, false⟩

/-- Column scale c of a tile (R262). -/
def Tile.colScale (x : Tile) (c : Nat) : Nat := (mapGet x.cscale c ^^^ 0x3F800000#32).toNat
/-- Column exponent (c, t) of a tile (R262). -/
def Tile.colExp (x : Tile) (c t : Nat) : Int := (mapGet x.cexp (4 * c + t)).toInt
/-- Row scale m of a bank (R256). -/
def Bank.rowScale (b : Bank) (m : Nat) : Nat := (mapGet b.rscale m ^^^ 0x3F800000#32).toNat
/-- Row exponent (m, t) of a bank (R256). -/
def Bank.rowExp (b : Bank) (m t : Nat) : Int := (mapGet b.rexp (4 * m + t)).toInt

/-! ### mmac -/

/-- The operands of an `mmac` (R263, R264). -/
structure Mac where
  t : BitVec 2
  bank : Bank
  b : BitVec 6
  seg : Nat
  c0 : Nat
  deriving DecidableEq, Repr

/-- Column n is live (R264): strip n has a performed element in the first block. -/
def live (s : State) (x : Mac) (n : Nat) : Bool := decide (x.c0 + n < 256) && s.bPerformed x.seg n 0 0

/-- The positions of sub-block t (R264). -/
def subBlock (s : State) (t : Nat) : List Nat := if s.kmode = 2 then upto (32 * t) 32 else upto 0 128

/-- The sub-blocks of a k-block: q of R264. -/
def subBlocks (s : State) : List Nat := upto 0 (if s.kmode = 2 then 4 else 1)

/-- The exact sums of row m and strip n, one for each sub-block (R264). -/
def rowSums (s : State) (x : Mac) (m n : Nat) : List (Nat × Int) :=
  (subBlocks s).map (fun t => (t, dotSum s x.bank x.b x.seg m n (upto 0 s.blocks) (subBlock s t)))

/-- One promotion on top of what the earlier sub-blocks gave (R264, R265). -/
def promoteStep (s : State) (x : Mac) (m c : Nat) (os : List Outlier) (r : Promoted) (p : Nat × Int) : Promoted :=
  let tile := s.tile x.t
  let nar := narrow p.2
  let u := if s.kmode = 0 then promoteInt (sext r.val 32 + nar + intCorrection os)
    else promoteReal r.val (x.bank.rowScale m) (tile.colScale c) (x.bank.rowExp m p.1) (tile.colExp c p.1)
      (nar + intCorrection os) os
  ⟨u.val, r.f ||| u.f, r.q ||| u.q, r.iw || u.iw⟩

/-- The promotions of one element of a row (R264 to R266). -/
def promoteElem (s : State) (x : Mac) (m n : Nat) (sums : List (Nat × Int)) : Promoted :=
  let os := if s.kmode = 2 then [] else outliersAt s x.bank (s.tile x.t) x.b x.seg m n
  let old := (mapGet (s.tile x.t).elem (256 * m + (x.c0 + n))).toNat
  sums.foldl (promoteStep s x m (x.c0 + n) os) ⟨old, 0, 0, false⟩

/-- Put the promoted elements of row m into the tile, with their flags (R264, R265). -/
def putRow (s : State) (x : Mac) (m : Nat) (rs : List (Nat × Promoted)) : State :=
  let tile := s.tile x.t
  let e := mapFill tile.elem (256 * m) 256 (fun k => match rs.lookup (k - 256 * m) with
    | some r => BitVec.ofNat 32 r.val
    | none => mapGet tile.elem k)
  let u := setTile s x.t { tile with elem := e }
  let u := raiseQ (raiseF u (rs.foldl (fun f r => f ||| r.2.f) 0)) (rs.foldl (fun q r => q ||| r.2.q) 0)
  if rs.any (fun r => r.2.iw) then acstBit u (8 + x.t.toNat) true else u

/-- The rows of an `mmac` from row m on, n of them (R264, R267): a row that overflows may trap, and a pre-emption request
is taken at a row boundary. -/
def mmacRows (x : Mac) : Nat → Nat → State → Run State
  | 0, _, s => .ok s
  | k + 1, m, s =>
    let cols := (upto 0 256).filter (live s x)
    let sums := cols.map (fun n => (n, rowSums s x m n))
    let clamped := sums.any (fun p => p.2.any (fun q => decide (narrow q.2 ≠ q.2)))
    let s1 := if clamped then acstBit s (4 + x.t.toNat) true else s
    if clamped && s.ovftrap then .error (.trapIn (setMrow s1 m) { code := 8 })
    else
      let s2 := putRow s1 x m (sums.map (fun p => (x.c0 + p.1, promoteElem s1 x m p.1 p.2)))
      if k ≠ 0 ∧ s2.ctl.preReq.isSome ∧ s2.level = .program then
        .error (.trapIn (setMrow s2 (m + 1)) { code := 15, forced := s2.requestForced })
      else mmacRows x k (m + 1) s2

/-- The tile's format is the one that kmode asks for (R268). -/
def formatOk (s : State) (t : BitVec 2) : Bool := s.tileF32 t == (s.kmode != 0)

/-- The tile's outlier list may be applied (R268). -/
def listOk (s : State) (t : BitVec 2) : Bool := (s.tile t).entries == [] || s.kmode != 0 || s.blocks == 1

/-- An `mmac` is legal (R268). -/
def mmacOk (s : State) (x : Mac) : Bool := s.vOk x.b && formatOk s x.t && b1Ok s x.bank && listOk s x.t

/-- What an `mmac` adds to acst.ocnt when it completes (R264, R266). -/
def ocntStep (s : State) (t : BitVec 2) : Nat :=
  if s.kmode = 2 then 0
  else (s.tile t).overflow.toNat + (if s.kmode = 0 then ((s.tile t).entries.filter (fun e => e.getLsbD 31)).length else 0)

/-- `mmac` (R263 to R267). -/
def execMmac (t : BitVec 2) (l : BitVec 1) (b : BitVec 6) (a : BitVec 5) (s : State) : Out :=
  let x : Mac := ⟨t, s.bank l, b, fld (s.rd a).toNat 0 3, fld (s.rd a).toNat 8 8⟩
  finish s (do
    legalIf (mmacOk s x)
    let rows := if s.kmode = 2 then min x.bank.rows 8 else x.bank.rows
    let m := fld s.lanes.acst.toNat 16 5
    let u ← mmacRows x (rows - m) m s
    pure (retire (addOcnt (setMrow u 0) (ocntStep s t))))

/-! ### vdot -/

/-- `vdot` (R275). -/
def execVdot (l : BitVec 1) (b : BitVec 6) (a d : BitVec 5) (s : State) : Out :=
  let v := (s.rd a).toNat
  let bank := s.bank l
  let per := if bitOf v 8 then 4 else 1
  let dot (q : Nat) : Int :=
    if 256 * per ≤ q then 0
    else blockDot s bank b (fld v 9 3) (fld v 0 5) (q / per) 0 (upto (128 / per * (q % per)) (128 / per))
  finish s (do
    legalIf (s.vOk b && b1Ok s bank)
    let xs := (upto 0 1024).map dot
    let t := putWord s d.toNat (xs.map (fun x => truncN (narrow x) 32))
    pure (retire (if xs.any (fun x => decide (narrow x ≠ x)) then acstBit t 12 true else t)))

/-! ### Filling the latch -/

/-- The byte at an address of the scratchpad window exists (06_memory.md R146). -/
def State.inPad (s : State) (va : Word) : Bool :=
  decide (windowBase ≤ va.toNat) && decide (va.toNat - windowBase < s.padSize)

/-- The location of an address of the window. -/
def padLoc (va : Word) : Nat := padBase + (va.toNat - windowBase)

/-- The lowest address of some that lies outside the scratchpad. -/
def lowestOutside (s : State) (vas : List Word) : Option Word :=
  (vas.filter (fun a => !s.inPad a)).foldl (fun r a => match r with
    | none => some a
    | some b => some (if a.toNat < b.toNat then a else b)) none

/-- The n addresses from one on. -/
def addrRun (va : Word) (n : Nat) : List Word := (upto 0 n).map (fun k => va + w64 k)

/-- Every byte that a gather reads lies in the scratchpad and none is poisoned (R257, 18_platform.md R475). -/
def checkGather (s : State) (runs : List (Word × Nat)) : Run Unit := do
  match lowestOutside s (runs.flatMap (fun r => addrRun r.1 r.2)) with
  | some a => violation a
  | none =>
    for r in runs do
      checkPoison s r.1 (upto (padLoc r.1) r.2)

/-- The address of gathered row m (R257). -/
def rowAddr (s : State) (shape : Nat) (a d : BitVec 5) (m : Nat) : Word :=
  s.rd a + wrap64 (sext (s.word d.toNat m) 32 * (fld shape 32 32 : Nat))

/-- The row length a shape gives (R257). -/
def shapeLen (shape : Nat) : Nat :=
  let k := fld shape 8 11
  if k = 0 then 128 else min k 1024

/-- The row count a shape gives, at most `most` (R257). -/
def shapeRows (shape most : Nat) : Nat :=
  let r := fld shape 0 6
  min (if r = 0 then 32 else r) most

/-- The data of a bank with p blocks per row, from the code of element (m, k) (R256). Positions that no row fills hold 0
(log 33). -/
def bankData (rows p klen : Nat) (code : Nat → Nat → Nat) : SMap 16 :=
  mapBuild (fun key =>
    let m := key / 128 / p
    let k := key / 128 % p * 128 + key % 128
    if k < klen then BitVec.ofNat 16 (code m k) else 0) 0 (rows * p * 128)

/-- `mgath` (R257). -/
def execMgath (l : BitVec 1) (b a d : BitVec 5) (s : State) : Out :=
  let shape := (s.rd b).toNat
  let cb := if bitOf shape 6 then 2 else 1
  let klen := shapeLen shape
  let p := ceilDiv klen 128
  let rows := shapeRows shape (32 / p)
  let addr := rowAddr s shape a d
  finish s (do
    checkGather s ((upto 0 rows).map (fun m => (addr m, klen * cb)))
    let w := widthOf s.ewa
    let data := bankData rows p klen (fun m k => s.num (padLoc (addr m) + k * cb) cb % 2 ^ w)
    pure (retire (setBank s l ⟨true, rows, klen, p, w, signedOf s.ewa, 0, data, [], []⟩)))

/-- The conversions of `mgathc` (R258): format code of the elements, bytes of k elements, place of the metadata, lane
width, and K of the aligned formats. -/
structure Gathered where
  fmt : Nat
  nibbles : Bool
  side : Nat
  width : Nat
  align : Option Int
  deriving DecidableEq, Repr

/-- The format of shape bits [31:28] (R258). -/
def gatherFormat (n : Nat) : Option Gathered :=
  match n with
  | 0 => some ⟨3, false, 128, 8, some 6⟩
  | 1 => some ⟨3, false, 128, 16, some 14⟩
  | 2 => some ⟨5, true, 64, 5, none⟩
  | 3 => some ⟨6, false, 128, 7, none⟩
  | 4 => some ⟨7, false, 128, 10, none⟩
  | 5 => some ⟨15, false, 128, 8, none⟩
  | _ => none

/-- The codes of the first k elements of a row at a location (R258, 06_memory.md R160). -/
def rowCodes (s : State) (g : Gathered) (loc k : Nat) : List Nat :=
  (upto 0 k).map (fun i => if g.nibbles then (s.byte (loc + i / 2)).toNat / 16 ^ (i % 2) % 16 else (s.byte (loc + i)).toNat)

/-- A converted row: lane integers, the four exponents, the row scale, and flags (R258). -/
structure LatchRow where
  ints : List Int
  exps : List Int
  scale : Nat
  q : BitVec 4
  deriving DecidableEq, Repr

/-- An E4M3 row aligned at K (R135). -/
def alignRow (k : Int) (codes : List Nat) (scale : Nat) : LatchRow :=
  let xs := codes.map (valFp e4m3)
  let ls := (xs.map Num.exact).filter (fun x => x.m != 0)
  let e := ls.foldl (fun m x => max m x.log) (-6)
  let rs := xs.map (fun x => alignInt x.exact (k - e))
  let bad := xs.any Num.isNan
  ⟨rs.map (·.1), [if bad then -32768 else e - k, 0, 0, 0], scale,
    when (rs.any (·.2)) qAl ||| when bad qMn⟩

/-- An MX row with its four scale codes (R134, R258). -/
def mxRow (fmt : Nat) (codes scales : List Nat) : LatchRow :=
  let ints := (codes.zip (upto 0 codes.length)).map (fun p =>
    if scales.getD (p.2 / 32) 0 = 255 then 0 else (alignInt (valOf fmt p.1).exact (laneShift fmt)).1)
  ⟨ints, scales.map (fun (c : Nat) => if c = 255 then (-32768 : Int) else (c : Int) - 127 - laneShift fmt), 0x3F800000,
    when (scales.any (· == 255)) qMn⟩

/-- One row as `mgathc` converts it (R258). -/
def convertRow (s : State) (g : Gathered) (loc k : Nat) : LatchRow :=
  match g.align with
  | some kk => alignRow kk (rowCodes s g loc k) (s.num (loc + g.side) 4)
  | none => mxRow g.fmt (rowCodes s g loc k) ((upto 0 4).map (fun t => (s.byte (loc + g.side + t)).toNat))

/-- `mgathc` (R258). It sets the row scale and the row exponents of its rows; those of other rows are 1.0 and 0 (log 33). -/
def execMgathc (l : BitVec 1) (b a d : BitVec 5) (s : State) : Out :=
  let shape := (s.rd b).toNat
  finish s (do
    match gatherFormat (fld shape 28 4) with
    | none => illegal
    | some g =>
      let klen := min (shapeLen shape) 128
      let rows := shapeRows shape (if g.align.isSome then 32 else 8)
      let addr := rowAddr s shape a d
      let bytes := if g.nibbles then ceilDiv klen 2 else klen
      checkGather s ((upto 0 rows).flatMap (fun m => [(addr m, bytes), (addr m + w64 g.side, 4)]))
      let rs := (upto 0 rows).map (fun m => convertRow s g (padLoc (addr m)) klen)
      let row (m : Nat) : LatchRow := rs.getD m ⟨[], [], 0x3F800000, 0⟩
      let data := bankData rows 1 klen (fun m k => truncN ((row m).ints.getD k 0) g.width)
      let scales := mapBuild (fun m => BitVec.ofNat 32 (row m).scale ^^^ 0x3F800000#32) 0 rows
      let exps := mapBuild (fun k => BitVec.ofInt 16 ((row (k / 4)).exps.getD (k % 4) 0)) 0 (4 * rows)
      let u := setBank s l ⟨true, rows, klen, 1, g.width, true, if g.align.isSome then 1 else 2, data, scales, exps⟩
      pure (retire (raiseQ u (rs.foldl (fun q r => q ||| r.q) 0))))

/-! ### Other tile and latch instructions -/

/-- The format of a tile is set and its nsat and iw are cleared (R269, R272). -/
def setFormat (s : State) (t : BitVec 2) (f32 : Bool) : State :=
  acstBit (acstBit (acstBit s t.toNat f32) (4 + t.toNat) false) (8 + t.toNat) false

/-- `mzero` (R269). -/
def zeroTile (t : BitVec 2) (f32 : Bool) (s : State) : Out :=
  finish s (pure (retire (setFormat (setTile s t { s.tile t with elem := [] }) t f32)))

/-- `mzero.i32` (R269). -/
def execMzeroI32 (t : BitVec 2) (s : State) : Out := zeroTile t false s
/-- `mzero.f32` (R269). -/
def execMzeroF32 (t : BitVec 2) (s : State) : Out := zeroTile t true s

/-- `mpro` (R270). -/
def execMpro (t : BitVec 2) (s : State) : Out :=
  finish s (
    if s.tileF32 t then pure (retire s)
    else
      let e := (s.tile t).elem
      let rs := e.map (fun c => (c.1, cvtFp fp32 .rne false (valInt c.2.toInt)))
      let u := setTile s t { s.tile t with elem := rs.map (fun c => (c.1, BitVec.ofNat 32 c.2.val)) }
      pure (retire (raiseF (acstBit u t.toNat true) (rs.foldl (fun f r => f ||| r.2.f) 0))))

/-- `mscl.rs` (R271). -/
def execMsclRs (l : BitVec 1) (d : BitVec 5) (s : State) : Out :=
  finish s (pure (retire (setBank s l { s.bank l with
    rscale := mapBuild (fun m => BitVec.ofNat 32 (s.word d.toNat m) ^^^ 0x3F800000#32) 0 32 })))
/-- `mscl.re` (R271). -/
def execMsclRe (l : BitVec 1) (d : BitVec 5) (s : State) : Out :=
  finish s (pure (retire (setBank s l { s.bank l with
    rexp := mapBuild (fun k => BitVec.ofNat 16 (s.word d.toNat k)) 0 128 })))
/-- `mscl.cs` (R271). -/
def execMsclCs (t : BitVec 2) (d : BitVec 5) (s : State) : Out :=
  finish s (pure (retire (setTile s t { s.tile t with
    cscale := mapBuild (fun c => BitVec.ofNat 32 (s.word d.toNat c) ^^^ 0x3F800000#32) 0 256 })))
/-- `mscl.ce` (R271). -/
def execMsclCe (t : BitVec 2) (d : BitVec 5) (s : State) : Out :=
  finish s (pure (retire (setTile s t { s.tile t with
    cexp := mapBuild (fun k => BitVec.ofNat 8 (s.word d.toNat k)) 0 1024 })))
/-- `mscl.ol` (R271). -/
def execMsclOl (t : BitVec 2) (d : BitVec 5) (s : State) : Out :=
  let h := s.word d.toNat 0
  finish s (pure (retire (setTile s t { s.tile t with
    entries := (upto 1 (fld h 0 10)).map (fun i => BitVec.ofNat 32 (s.word d.toNat i))
    overflow := BitVec.ofNat 22 (fld h 10 22) })))

/-- The lowest failing access among the pieces of a tile's rows, if any (R272). -/
def lowestFault (fs : List (Except MemFault (Hit × Nat))) : Option MemFault :=
  fs.foldl (fun r x => match x, r with
    | .ok _, r => r
    | .error f, none => some f
    | .error f, some g => some (if f.addr.toNat < g.addr.toNat then f else g)) none

/-- The address of row m of a tile in memory (R272). -/
def tileRow (s : State) (a b : BitVec 5) (m : Nat) : Word := s.rd a + w64 m * s.rd b

/-- The addresses of a tile's rows are aligned (R272). -/
def tileAligned (s : State) (a b : BitVec 5) : Run Unit :=
  if (s.rd a).toNat % 4 ≠ 0 then misaligned (s.rd a)
  else if (s.rd b).toNat % 4 ≠ 0 then misaligned (tileRow s a b 1)
  else .ok ()

/-- Every page of a tile's 32 rows, translated before any access (R272): the translated pieces of each row, in order. -/
def tileHits (s : State) (k : Access) (pageCode : Nat) (a b : BitVec 5) : Run (List (Hit × Nat)) :=
  let rs := (upto 0 32).flatMap (fun m =>
    (pieces (tileRow s a b m) 1024).map (fun p => (translate s k p.1).map (fun h => (h, p.2))))
  match lowestFault rs with
  | some f => .error (memTrap pageCode f)
  | none => orTrap pageCode (rs.mapM (fun r => r))

/-- The numbers in a list of bytes, four bytes each, n of them. -/
def wordsOf (s : State) (ls : List Nat) : Nat → List Nat
  | 0 => []
  | n + 1 => leNat ((ls.take 4).map s.byte) :: wordsOf s (ls.drop 4) n

/-- `mld` (R272). -/
def loadTile (t : BitVec 2) (b a : BitVec 5) (f32 : Bool) (s : State) : Out :=
  finish s (do
    tileAligned s a b
    let hs ← tileHits s .vload 3 a b
    for m in upto 0 32 do
      checkPoison s (tileRow s a b m) (((hitLocs hs).drop (1024 * m)).take 1024)
    let r := arriveBefore s (hitLocs hs)
    let vals := wordsOf r (hitLocs hs) 8192
    let u := markAll r .vload (hs.map (·.1))
    let e := listCells 0 vals
    pure (retire (setFormat (setTile u t { u.tile t with elem := e }) t f32)))

/-- `mld.i32` (R272). -/
def execMldI32 (t : BitVec 2) (b a : BitVec 5) (s : State) : Out := loadTile t b a false s
/-- `mld.f32` (R272). -/
def execMldF32 (t : BitVec 2) (b a : BitVec 5) (s : State) : Out := loadTile t b a true s

/-- `mst` (R272). -/
def execMst (t : BitVec 2) (b a : BitVec 5) (s : State) : Out :=
  finish s (do
    tileAligned s a b
    let hs ← tileHits s .vstore 4 a b
    let u := markAll (arriveBefore s (hitLocs hs)) .vstore (hs.map (·.1))
    let bytes := (upto 0 8192).flatMap (fun k => leBytes (mapGet (s.tile t).elem k).toNat 4)
    let v := storeAll storeByte u (hitLocs hs) bytes
    pure (retire (clearPoison v (if v.memory.poison = [] then [] else hitLocs hs))))

/-- `mstat.bank` (R273). -/
def execMstatBank (l : BitVec 1) (d : BitVec 5) (s : State) : Out :=
  let b := s.bank l
  finish s (pure (retire (s.wr d (w64 (b.rows + b.klen * 2 ^ 6 + b.w * 2 ^ 17 + bNat b.sgn * 2 ^ 22 + b.cls.toNat * 2 ^ 23 +
    bNat b.valid * 2 ^ 25)))))
/-- `mstat.tile` (R273). -/
def execMstatTile (t : BitVec 2) (d : BitVec 5) (s : State) : Out :=
  let x := s.tile t
  let bit (k : Nat) : Nat := bNat (s.lanes.acst.getLsbD (k + t.toNat))
  finish s (pure (retire (s.wr d (w64 (bit 0 + bit 4 * 2 + bit 8 * 4 + x.entries.length * 2 ^ 3 + x.overflow.toNat * 2 ^ 13)))))

end Sys2Proof.Machine
end

