-- ==== Sys2Proof/Machine/ScalarMem.lean ====
section
/-!
DEFINITION. Scalar loads, stores and atomics (06_memory.md R153 to R158; their order in 11_sync.md R285, R289).
-/

namespace Sys2Proof.Machine

/-- Every page that n bytes at va touch, translated, with the alignment rules of 06_memory.md R154 and R151: off a normal
page an access must be naturally aligned, and on a control page it must have 4 or 8 bytes. -/
def scalarHits (s : State) (k : Access) (va : Word) (n : Nat) : Except MemFault (List (Hit × Nat)) :=
  let rs := (pieces va n).map (fun p => (translate s k p.1).map (fun h => (h, p.2)))
  let special := (pieces va n).any (fun p => pageType s p.1 != .normal)
  if va.toNat % n ≠ 0 ∧ special then failAt .misalign va
  else do
    let hs ← rs.mapM (fun r => r)
    if n < 4 ∧ hs.any (fun h => h.1.type == .control) then failAt .access va else .ok hs

/-- The memory type of a translated access: that of its first page. -/
def hitsType (hs : List (Hit × Nat)) : MemType :=
  match hs with
  | [] => .normal
  | h :: _ => h.1.type

/-- The first location of a translated access. -/
def hitsLoc (hs : List (Hit × Nat)) : Nat :=
  match hs with
  | [] => 0
  | h :: _ => h.1.loc

/-- A synchronising load at locations: what the activation did before is performed first (11_sync.md R285, R289). -/
def syncLoad (s : State) (ls : List Nat) : Nat × State :=
  let t := syncOrder s
  (leNat (ls.map t.byte), t)

/-- Load n bytes at va (R153): the value, and the state after the load's side effects (the reference bits of R150; for
a control register, what R452 and R463 say of a load of it). A control page over memory reads that memory (R145). -/
def loadNum (s : State) (va : Word) (n : Nat) : Run (Nat × State) := do
  let hs ← orTrap 3 (scalarHits s .load va n)
  let ls := hitLocs hs
  checkPoison s va ls
  let s := markAll s .load (hs.map (·.1))
  match hitsType hs with
  | .normal =>
    let t := arriveBefore s ls
    pure (leNat (ls.map t.byte), t)
  | .sync => pure (syncLoad s ls)
  | .control =>
    if !isControl (hitsLoc hs) then pure (syncLoad s ls)
    else match controlRead (syncOrder s) s.self (hitsLoc hs) n with
    | none => violation va
    | some r => pure r

/-- What precedes a control store of v by the core: a publication at `pkg` when it releases a semaphore (18_platform.md R463),
and the order of every synchronising access. -/
def controlOrder (s : State) (loc v : Nat) : State :=
  if 0x3FFF80000000 ≤ loc ∧ loc < 0x3FFF80000800 ∧ semaFrees s s.self ((loc - 0x3FFF80000000) / 8) v then publishAll s
  else syncOrder s

/-- Store the low n bytes of v at va (R153). The release of a semaphore first publishes (18_platform.md R463). -/
def storeNum (s : State) (va : Word) (n v : Nat) : Run State := do
  let hs ← orTrap 4 (scalarHits s .store va n)
  let ls := hitLocs hs
  let s := markAll s .store (hs.map (·.1))
  match hitsType hs with
  | .normal => pure (storeAll storeByte (arriveBefore s ls) ls (leBytes v n))
  | .sync => pure (storeAll syncByte (syncOrder s) ls (leBytes v n))
  | .control =>
    if !isControl (hitsLoc hs) then pure (storeAll syncByte (syncOrder s) ls (leBytes v n))
    else match controlWrite (controlOrder s (hitsLoc hs) (v % 2 ^ (8 * n))) s.self (hitsLoc hs) n (v % 2 ^ (8 * n)) with
    | none => violation va
    | some t => pure t

/-- The address of a format M operand (02_encoding.md R42). -/
def memAddr (s : State) (a : BitVec 5) (o : BitVec 13) : Word := s.rd a + o.signExtend 64

/-- A scalar load whose value is read signed or unsigned (R153). -/
def scalarLoad (signed : Bool) (n : Nat) (d a : BitVec 5) (o : BitVec 13) (s : State) : Out :=
  finish s (do
    let r ← loadNum s (memAddr s a o) n
    let v := if signed then wrap64 (sext r.1 (8 * n)) else w64 r.1
    pure (retire (r.2.wr d v)))

/-- A scalar store (R153). -/
def scalarStore (n : Nat) (d a : BitVec 5) (o : BitVec 13) (s : State) : Out :=
  finish s (do
    let t ← storeNum s (memAddr s a o) n (s.rd d).toNat
    pure (retire t))

/-- `lb` (R153). -/
def execLb (d a : BitVec 5) (o : BitVec 13) (s : State) : Out := scalarLoad true 1 d a o s
/-- `lh` (R153). -/
def execLh (d a : BitVec 5) (o : BitVec 13) (s : State) : Out := scalarLoad true 2 d a o s
/-- `lw` (R153). -/
def execLw (d a : BitVec 5) (o : BitVec 13) (s : State) : Out := scalarLoad true 4 d a o s
/-- `ld` (R153). -/
def execLd (d a : BitVec 5) (o : BitVec 13) (s : State) : Out := scalarLoad true 8 d a o s
/-- `lbu` (R153). -/
def execLbu (d a : BitVec 5) (o : BitVec 13) (s : State) : Out := scalarLoad false 1 d a o s
/-- `lhu` (R153). -/
def execLhu (d a : BitVec 5) (o : BitVec 13) (s : State) : Out := scalarLoad false 2 d a o s
/-- `lwu` (R153). -/
def execLwu (d a : BitVec 5) (o : BitVec 13) (s : State) : Out := scalarLoad false 4 d a o s
/-- `sb` (R153): sD is the data. -/
def execSb (d a : BitVec 5) (o : BitVec 13) (s : State) : Out := scalarStore 1 d a o s
/-- `sh` (R153). -/
def execSh (d a : BitVec 5) (o : BitVec 13) (s : State) : Out := scalarStore 2 d a o s
/-- `sw` (R153). -/
def execSw (d a : BitVec 5) (o : BitVec 13) (s : State) : Out := scalarStore 4 d a o s
/-- `sd` (R153). -/
def execSd (d a : BitVec 5) (o : BitVec 13) (s : State) : Out := scalarStore 8 d a o s

/-! ### Atomics -/

/-- The operations of 06_memory.md R157. -/
inductive AtomOp where
  | swp | add | and | or | xor | min | max | minu | maxu | cas
  deriving DecidableEq, Repr

/-- The new value, before it is cut to n bytes: the old bytes, sB and sD as numbers (R157). -/
def atomNew (op : AtomOp) (n old b d : Nat) : Nat :=
  let m := 2 ^ (8 * n)
  let y := b % m
  match op with
  | .swp => y
  | .add => old + y
  | .and => old &&& y
  | .or => old ||| y
  | .xor => old ^^^ y
  | .min => if sext old (8 * n) < sext y (8 * n) then old else y
  | .max => if sext old (8 * n) < sext y (8 * n) then y else old
  | .minu => if old < y then old else y
  | .maxu => if old < y then y else old
  | .cas => if old = d % m then y else old

/-- A synchronising read-modify-write of n bytes at a location: the old value and the state after (R157, R158). -/
def atomicAt (s : State) (loc n : Nat) (f : Nat → Nat) : Nat × State :=
  let t := syncOrder s
  let old := t.num loc n
  (old, syncNum t loc n (f old % 2 ^ (8 * n)))

/-- Translate n naturally aligned bytes at va for an atomic (R151, R158); the failure of an atomic counts as a store's. -/
def atomicHit (s : State) (va : Word) (n : Nat) : Run Hit := do
  if va.toNat % n ≠ 0 then misaligned va
  else orTrap 4 (translate s .atomic va)

/-- An atomic of size code z and scope code c (R156, R157, R158). -/
def atomic (op : AtomOp) (d a b : BitVec 5) (c : BitVec 2) (z : BitVec 1) (s : State) : Out :=
  finish s (do
    legalIf (scopeOk c)
    let n := if z = 1 then 8 else 4
    let va := s.rd a
    let h ← atomicHit s va n
    checkPoison s va (upto h.loc n)
    let r := atomicAt (markLeaf s h true) h.loc n (fun old => atomNew op n old (s.rd b).toNat (s.rd d).toNat)
    pure (retire (r.2.wr d (wrap64 (sext r.1 (8 * n))))))

/-- `atswp` (R157). -/
def execAtswp (d a b : BitVec 5) (c : BitVec 2) (z : BitVec 1) (s : State) : Out := atomic .swp d a b c z s
/-- `atadd` (R157). -/
def execAtadd (d a b : BitVec 5) (c : BitVec 2) (z : BitVec 1) (s : State) : Out := atomic .add d a b c z s
/-- `atand` (R157). -/
def execAtand (d a b : BitVec 5) (c : BitVec 2) (z : BitVec 1) (s : State) : Out := atomic .and d a b c z s
/-- `ator` (R157). -/
def execAtor (d a b : BitVec 5) (c : BitVec 2) (z : BitVec 1) (s : State) : Out := atomic .or d a b c z s
/-- `atxor` (R157). -/
def execAtxor (d a b : BitVec 5) (c : BitVec 2) (z : BitVec 1) (s : State) : Out := atomic .xor d a b c z s
/-- `atmin` (R157). -/
def execAtmin (d a b : BitVec 5) (c : BitVec 2) (z : BitVec 1) (s : State) : Out := atomic .min d a b c z s
/-- `atmax` (R157). -/
def execAtmax (d a b : BitVec 5) (c : BitVec 2) (z : BitVec 1) (s : State) : Out := atomic .max d a b c z s
/-- `atminu` (R157). -/
def execAtminu (d a b : BitVec 5) (c : BitVec 2) (z : BitVec 1) (s : State) : Out := atomic .minu d a b c z s
/-- `atmaxu` (R157). -/
def execAtmaxu (d a b : BitVec 5) (c : BitVec 2) (z : BitVec 1) (s : State) : Out := atomic .maxu d a b c z s
/-- `atcas` (R157): sD is read as a source. -/
def execAtcas (d a b : BitVec 5) (c : BitVec 2) (z : BitVec 1) (s : State) : Out := atomic .cas d a b c z s

end Sys2Proof.Machine
end

