-- ==== Sys2Proof/Machine/VectorMem.lean ====
section
/-!
DEFINITION. Vector loads and stores, near-memory gather and scatter-add (06_memory.md R159 to R174, 11_sync.md R294,
R308, R309).
-/

namespace Sys2Proof.Machine

/-- Where an element lies (06_memory.md R160, R161): the addresses at which its pieces start, the bytes of a piece, and
the bits it takes of each byte, from `shift` on. -/
structure Place where
  starts : List Word
  len : Nat
  shift : Nat
  bits : Nat
  aligned : Bool
  deriving DecidableEq, Repr

/-- Container bytes of CT 3 to 5 (06_memory.md R160). -/
def containerBytes (c : BitVec 3) : Nat := 2 ^ (c.toNat - 3)

/-- The place of an element at an address, for CT 3 to 5 (06_memory.md R160). -/
def bytePlace (c : BitVec 3) (va : Word) : Place :=
  ⟨[va], containerBytes c, 0, 8, va.toNat % containerBytes c == 0⟩

/-- The place of element i at unit stride (06_memory.md R160, R161); w is the number of planes. -/
def unitPlace (c : BitVec 3) (base : Word) (w i : Nat) : Place :=
  if c.toNat < 3 then
    let bits := 2 ^ c.toNat
    ⟨[base + w64 (i * bits / 8)], 1, i * bits % 8, bits, true⟩
  else if c.toNat < 6 then bytePlace c (base + w64 (i * containerBytes c))
  else
    let row := i / 32768 * w
    ⟨(upto 0 w).map (fun p => base + w64 ((row + p) * 4096 + i % 32768 / 8)), 1, i % 8, 1, base.toNat % 64 == 0⟩

/-- The value that the bits of an element's bytes make, lowest first. -/
def gatherBits (shift bits : Nat) : List Byte → Nat
  | [] => 0
  | b :: t => b.toNat / 2 ^ shift % 2 ^ bits + 2 ^ bits * gatherBits shift bits t

/-- The old bytes with an element's bits replaced by those of v, lowest first. -/
def scatterBits (shift bits : Nat) (v : Nat) : List Byte → List Byte
  | [] => []
  | b :: t => BitVec.ofNat 8 (setFld b.toNat shift bits v) :: scatterBits shift bits (v / 2 ^ bits) t

/-- The number of bits of an element's container (06_memory.md R160). -/
def Place.width (p : Place) : Nat := p.bits * (p.starts.length * p.len)

/-- What enumeration says of an element (06_memory.md R165): performed, with the translations of its pieces; left out as
outside the load's scope (11_sync.md R309); or faulting. -/
inductive Probe where
  | done (hs : List Hit)
  | missed
  | fault (f : MemFault)
  deriving DecidableEq, Repr

/-- Translate an element (06_memory.md R165, R166): `near` is `hgath`, whose elements lie in HBM4E (R171); `missable` is
a load at core scope, for which an element on a synchronisation page does not fault (11_sync.md R309). -/
def probe (s : State) (k : Access) (near missable : Bool) (p : Place) : Probe :=
  if missable && p.starts.any (fun va => pageType s va == .sync) then .missed
  else if !p.aligned then .fault ⟨.misalign, p.starts.headD 0⟩
  else
    let tr (va : Word) : Except MemFault Hit :=
      match translate s k va with
      | .error f => .error f
      | .ok h => if near && 2 ^ 40 ≤ h.loc then failAt .access va else .ok h
    match p.starts.mapM tr with
    | .error f => .fault f
    | .ok hs => .done hs

/-- A performed element: its number, its place, and its translations. -/
structure Item where
  idx : Nat
  place : Place
  hits : List Hit
  deriving DecidableEq, Repr

/-- The locations of an element's bytes. -/
def Item.locs (x : Item) : List Nat := x.hits.flatMap (fun h => upto h.loc x.place.len)

/-- The pages of an element's pieces; the scratchpad window counts as one (06_memory.md R165). A page is 64 KiB, whatever the
size of the leaf that maps it (DESIGN CHOICE, log 37). -/
def pagesOf (p : Place) : List Nat :=
  p.starts.map (fun va => if windowBase ≤ va.toNat then 2 ^ 48 else va.toNat / 65536)

/-- One pass (06_memory.md R165): the elements performed and those missed, in ascending order, the element that faults,
and the elements left for the next pass. -/
structure Pass where
  items : List Item
  missed : List Nat
  fault : Option (Nat × MemFault)
  rest : List Nat
  deriving DecidableEq, Repr

/-- Enumerate one pass over the remaining performed elements, with the pages it has touched so far (06_memory.md R165). -/
def enumerate (pr : Place → Probe) (at_ : Nat → Place) : List Nat → List Nat → Pass
  | _, [] => ⟨[], [], none, []⟩
  | pages, i :: l =>
    let now := (pages ++ pagesOf (at_ i)).eraseDups
    if 64 < now.length then ⟨[], [], none, i :: l⟩
    else match pr (at_ i) with
      | .fault f => ⟨[], [], some (i, f), []⟩
      | .missed => let p := enumerate pr at_ now l; { p with missed := i :: p.missed }
      | .done hs => let p := enumerate pr at_ now l; { p with items := ⟨i, at_ i, hs⟩ :: p.items }

/-- What the passes of an instruction have done: the state, the values loaded by element, the elements missed, and the
fault that ended them. -/
structure Swept where
  s : State
  vals : List (Nat × Nat)
  missed : List Nat
  fault : Option (Nat × MemFault)

/-- Reading any byte of performed elements that is poisoned is the integrity error (18_platform.md R475). -/
def checkItems (s : State) : List Item → Run Unit
  | [] => .ok ()
  | x :: t => do
    for p in x.place.starts.zip x.hits do
      checkPoison s p.1 (upto p.2.loc x.place.len)
    checkItems s t

/-- All passes of an instruction, at most n (06_memory.md R165): `act` performs the elements of one. -/
def passes (k : Access) (near missable : Bool) (at_ : Nat → Place) (act : State → List Item → State × List (Nat × Nat)) :
    Nat → Swept → List Nat → Run Swept
  | 0, r, _ => .ok r
  | n + 1, r, l => do
    let p := enumerate (probe r.s k near missable) at_ [] l
    if k != .vstore then checkItems r.s p.items
    let t := p.items.foldl (fun s x => markAll s k x.hits) r.s
    let u := act t p.items
    let r' : Swept := ⟨u.1, r.vals ++ u.2, r.missed ++ p.missed, p.fault⟩
    if p.fault.isSome ∨ p.rest = [] then pure r' else passes k near missable at_ act n r' p.rest

/-- The value of a loaded element (06_memory.md R162): the container extended by ewd's signedness, or cut. The elements of
`hgath` (`near`) are package-scope reads (R172). -/
def loadedValue (near : Bool) (s : State) (x : Item) : Nat :=
  let v := gatherBits x.place.shift x.place.bits (x.locs.map (if near then s.wideByte else s.byte))
  if signedOf s.ewd then truncN (sext v x.place.width) s.wd else v % 2 ^ s.wd

/-- Load the elements of a pass; an element on a synchronisation page, which only `hgath` performs, is a synchronising
read (11_sync.md R285, R309). -/
def loadItems (near : Bool) (s : State) : List Item → State × List (Nat × Nat)
  | [] => (s, [])
  | x :: t =>
    let s := accessOrder s (x.hits.any (fun h => h.type == .sync)) x.locs
    let r := loadItems near s t
    (r.1, (x.idx, loadedValue near s x) :: r.2)

/-- A stored element's value at the container's width (06_memory.md R162). -/
def storedValue (s : State) (d : BitVec 6) (x : Item) : Nat :=
  truncN (s.elemInt d.toNat x.idx s.ewa) x.place.width

/-- Store the elements of a pass in ascending order (06_memory.md R164). -/
def storeItems (d : BitVec 6) (s : State) : List Item → State
  | [] => s
  | x :: t =>
    let bs := scatterBits x.place.shift x.place.bits (storedValue s d x) (x.locs.map s.byte)
    storeItems d (storeAll storeByte s x.locs bs) t

/-- The merged sums of a pass of `vscadd`, by location, in the order of their lowest contributing element (06_memory.md
R173). -/
def mergeSums (s : State) (d : BitVec 6) : List Item → List (Nat × Nat) → List (Nat × Nat)
  | [], acc => acc
  | x :: t, acc =>
    let loc := x.locs.headD 0
    let v := storedValue s d x
    mergeSums s d t (if acc.any (fun c => c.1 == loc) then acc.map (fun c => if c.1 = loc then (loc, c.2 + v) else c)
      else acc ++ [(loc, v)])

/-- One package-scope atomic add for each distinct address (06_memory.md R173). -/
def applySums (n : Nat) (s : State) : List (Nat × Nat) → State
  | [] => s
  | c :: t =>
    let u := syncOrder s
    applySums n (syncNum u c.1 n ((u.num c.1 n + c.2) % 2 ^ (8 * n))) t

/-- The elements an instruction performs, ascending (06_memory.md R163). -/
def State.vmPerformed (s : State) (m : BitVec 3) : List Nat :=
  (upto s.lanes.vstart.toNat (s.lanes.vl.toNat - s.lanes.vstart.toNat)).filter (fun i => s.maskBit m.toNat i)

/-- Iterations the top counted loop still has, times vl (06_memory.md R168). -/
def loopLeft (s : State) : Nat :=
  match s.loops with
  | [] => 0
  | e :: _ => if e.kind = .counted then min ((e.arg.toNat - e.index.toNat - 1) * s.lanes.vl.toNat) (2 ^ 40 - 1) else 0

/-- The code of eremain.kind (06_memory.md R168). -/
def FaultKind.code : FaultKind → Nat
  | .page => 0
  | .access => 1
  | .misalign => 2

/-- The vector memory fault at element i (06_memory.md R166, R168). -/
def vmTrap (s : State) (stride : Word) (write : Bool) (i : Nat) (f : MemFault) : Trap :=
  { code := 7
    eaddr := f.addr
    estride := stride
    eremain := w64 (s.lanes.vl.toNat - i + f.kind.code * 2 ^ 20 + bNat write * 2 ^ 23 + loopLeft s * 2 ^ 24) }

/-- The new value of smiss after the misses of one instruction (11_sync.md R308). -/
def missCount (old : BitVec 45) : List Nat → BitVec 45
  | [] => old
  | i :: t =>
    let o := old.toNat
    let c := min (fld o 8 19 + (i :: t).length) (2 ^ 19 - 1)
    BitVec.ofNat 45 (fld o 0 8 + c * 2 ^ 8 + i * 2 ^ 27)

/-- Record the misses of a load at core scope, from vstart up to its end (11_sync.md R309). -/
def recordMisses (s : State) (stop : Nat) (missed : List Nat) : State :=
  let k := fld s.lanes.smiss.toNat 0 3
  let s := { s with lanes.smiss := missCount s.lanes.smiss missed }
  if k = 0 then s
  else
    let lo := s.lanes.vstart.toNat
    writeMask s k lo (stop - lo) (fun i => missed.contains i)

/-- vstart takes a value (06_memory.md R166, R167). -/
def setVstart (s : State) (i : Nat) : State := { s with lanes.vstart := BitVec.ofNat 18 i }

/-- Write the loaded elements to the destination (06_memory.md R162, R163). -/
def writeLoaded (s : State) (d : BitVec 6) (vals : List (Nat × Nat)) : State :=
  writeElems s d.toNat (fun i => vals.lookup i)

/-- A vector load (06_memory.md R159 to R170). -/
def vectorLoad (d : BitVec 6) (m : BitVec 3) (near first ok : Bool) (at_ : Nat → Place) (stride : Word) (s : State) :
    Out :=
  finish s (do
    legalIf (s.destOk d && ok)
    let l := s.vmPerformed m
    let r ← passes .vload near (!near) at_ (loadItems near) (l.length + 1) ⟨s, [], [], none⟩ l
    let stop := match r.fault with
      | some (i, _) => i
      | none => s.lanes.vl.toNat
    let noted := if near then r.s else recordMisses r.s stop r.missed
    match r.fault with
    | none => pure (retire (setVstart (writeLoaded noted d r.vals) 0))
    | some (i, f) =>
      if first && l.head? != some i then
        pure (retire (setVstart (setLength (writeLoaded noted d r.vals) i) 0))
      else
        let u := if r.vals = [] then noted else writeLoaded noted d r.vals
        .error (.trapIn (setVstart u i) (vmTrap s stride false i f)))

/-- The bytes a vector store adds to the pending-byte counters (11_sync.md R294). -/
def storedBytes (c : BitVec 3) (w n : Nat) : Nat :=
  if c.toNat < 3 then ceilDiv (n * 2 ^ c.toNat) 8 else if c.toNat < 6 then n * containerBytes c else ceilDiv (n * w) 8

/-- The pending-byte counters take n more bytes (11_sync.md R294). -/
def addPending (s : State) (n : Nat) : State :=
  { s with
    memory.pendCore := s.memory.pendCore + BitVec.ofNat 48 n
    memory.pendDie := s.memory.pendDie + BitVec.ofNat 48 n
    memory.pendPkg := s.memory.pendPkg + BitVec.ofNat 48 n }

/-- n more bytes would take a pending-byte counter above 2^48 - 1 (11_sync.md R294). -/
def pendingFull (s : State) (n : Nat) : Bool :=
  2 ^ 48 ≤ s.memory.pendCore.toNat + n || 2 ^ 48 ≤ s.memory.pendDie.toNat + n || 2 ^ 48 ≤ s.memory.pendPkg.toNat + n

/-- A vector store is released after the arrivals queued before it, which do not count it (11_sync.md R296). -/
def releaseArrivals (s : State) : State := if s.memory.arrivals = [] then s else syncOrder s

/-- The bits of memory that a stored element writes: a location with the mask of its bits (06_memory.md R160). -/
def Item.written (x : Item) : List (Nat × Nat) :=
  x.locs.map (fun l => (l, (2 ^ x.place.bits - 1) * 2 ^ x.place.shift % 256))

/-- The poison of each line whose every bit is written is cleared (18_platform.md R475). -/
def clearWritten (s : State) (ws : List (Nat × Nat)) : State :=
  if s.memory.poison = [] then s
  else clearPoison s ((ws.map (·.1)).eraseDups.filter (fun l =>
    ws.foldl (fun m w => if w.1 = l then m ||| w.2 else m) 0 == 255))

/-- A vector store (06_memory.md R159 to R166); it waits while a pending-byte counter has no room (11_sync.md R294). -/
def vectorStore (d : BitVec 6) (m c : BitVec 3) (ok : Bool) (at_ : Nat → Place) (stride : Word) (s : State) : Out :=
  finish s (do
    legalIf (s.vOk d && ok)
    let l := s.vmPerformed m
    let bytes := storedBytes c (widthOf s.ewa) l.length
    let act (t : State) (xs : List Item) : State × List (Nat × Nat) :=
      (storeItems d t xs, if t.memory.poison = [] then [] else xs.flatMap Item.written)
    let r ← passes .vstore false false at_ act (l.length + 1) ⟨releaseArrivals s, [], [], none⟩ l
    match r.fault with
    | none =>
      if pendingFull s bytes then pure (waitHere s .drain)
      else pure (retire (setVstart (addPending (clearWritten r.s r.vals) bytes) 0))
    | some (i, f) =>
      let n := storedBytes c (widthOf s.ewa) (l.filter (fun k => decide (k < i))).length
      if pendingFull s n then pure (waitHere s .drain)
      else .error (.trapIn (setVstart (addPending (clearWritten r.s r.vals) n) i) (vmTrap s stride true i f)))

/-- The element distance in bits at unit stride (06_memory.md R168). -/
def unitStride (c : BitVec 3) : Word :=
  if c.toNat < 3 then w64 (2 ^ c.toNat) else if c.toNat < 6 then w64 (8 * containerBytes c) else 0

/-- The place of element i of a strided access (06_memory.md R161). -/
def stridedPlace (c : BitVec 3) (base stride : Word) (i : Nat) : Place := bytePlace c (base + w64 i * stride)

/-- The place of element i of an indexed access (06_memory.md R161). -/
def State.indexedPlace (s : State) (c : BitVec 3) (base : Word) (b : BitVec 6) (i : Nat) : Place :=
  bytePlace c (base + wrap64 (s.elemInt b.toNat i s.ewb * containerBytes c))

/-- CT 6 holds at most 16 planes of a load (06_memory.md R159). -/
def planesOk (s : State) (c : BitVec 3) : Bool := s.wd ≤ 16 || c != 6

/-- The index register of a gather is not the destination (06_memory.md R159). -/
def indexOk (s : State) (d b : BitVec 6) : Bool :=
  s.vOk b && b != d && (s.wd ≤ 16 || b.toNat != d.toNat + 1)

/-- `vld` (06_memory.md R159). -/
def execVld (d : BitVec 6) (a : BitVec 5) (m c : BitVec 3) (s : State) : Out :=
  vectorLoad d m false false (planesOk s c) (unitPlace c (s.rd a) s.wd) (unitStride c) s
/-- `vlds` (06_memory.md R159). -/
def execVlds (d : BitVec 6) (a b : BitVec 5) (m c : BitVec 3) (s : State) : Out :=
  vectorLoad d m false false true (stridedPlace c (s.rd a) (s.rd b)) (8 * s.rd b) s
/-- `vldx` (06_memory.md R159). -/
def execVldx (d : BitVec 6) (a : BitVec 5) (b : BitVec 6) (m c : BitVec 3) (s : State) : Out :=
  vectorLoad d m false false (indexOk s d b) (s.indexedPlace c (s.rd a) b) 0 s
/-- `vldff` (06_memory.md R170). -/
def execVldff (d : BitVec 6) (a : BitVec 5) (m c : BitVec 3) (s : State) : Out :=
  vectorLoad d m false true true (unitPlace c (s.rd a) s.wd) (unitStride c) s
/-- `hgath` (06_memory.md R171, R172). -/
def execHgath (d : BitVec 6) (a : BitVec 5) (b : BitVec 6) (m c : BitVec 3) (s : State) : Out :=
  vectorLoad d m true false (indexOk s d b) (s.indexedPlace c (s.rd a) b) 0 s
/-- `vst` (06_memory.md R159). -/
def execVst (d : BitVec 6) (a : BitVec 5) (m c : BitVec 3) (s : State) : Out :=
  vectorStore d m c true (unitPlace c (s.rd a) (widthOf s.ewa)) (unitStride c) s
/-- `vsts` (06_memory.md R159). -/
def execVsts (d : BitVec 6) (a b : BitVec 5) (m c : BitVec 3) (s : State) : Out :=
  vectorStore d m c true (stridedPlace c (s.rd a) (s.rd b)) (8 * s.rd b) s
/-- `vstx` (06_memory.md R159). -/
def execVstx (d : BitVec 6) (a : BitVec 5) (b : BitVec 6) (m c : BitVec 3) (s : State) : Out :=
  vectorStore d m c (s.vOk b) (s.indexedPlace c (s.rd a) b) 0 s
/-- `vscadd` (06_memory.md R173, R174). -/
def execVscadd (d : BitVec 6) (a : BitVec 5) (b : BitVec 6) (m c : BitVec 3) (s : State) : Out :=
  finish s (do
    legalIf (s.vOk d && s.vOk b)
    let l := s.vmPerformed m
    let act (t : State) (xs : List Item) : State × List (Nat × Nat) :=
      (applySums (containerBytes c) t (mergeSums t d xs []), [])
    let r ← passes .atomic false false (s.indexedPlace c (s.rd a) b) act (l.length + 1) ⟨s, [], [], none⟩ l
    match r.fault with
    | none => pure (retire (setVstart r.s 0))
    | some (i, f) => .error (.trapIn (setVstart r.s i) (vmTrap s 0 true i f)))

end Sys2Proof.Machine
end

