-- ==== Sys2Proof/Machine/Body.lean ====
section
/-!
DEFINITION. The hints, and what the words that a repeat frame may hold do (02_encoding.md R47, R53, R55): `rpt` and a recapture
check each word in the state in which it is going to execute.
-/

namespace Sys2Proof.Machine

/-- `hint` of kind 0 (R47): it only advances. -/
def execHint (_v : BitVec 22) (s : State) : Out := .next (retire s)
/-- `pfch` (R47): a prefetch sets no reference bit and is no access. -/
def execPfch (_a : BitVec 5) (_o : BitVec 17) (s : State) : Out := .next (retire s)
/-- `pfl2` (R47). -/
def execPfl2 (_a : BitVec 5) (_o : BitVec 17) (s : State) : Out := .next (retire s)
/-- `hint` of kinds 3 to 15 (R47). -/
def execHintKind (_k : BitVec 4) (_v : BitVec 22) (s : State) : Out := .next (retire s)
/-- `nop` (R53). -/
def execNop (s : State) : Out := .next (retire s)

/-- What an instruction that a repeat frame may hold does, none for any other (02_encoding.md R55). -/
def bodyExec (i : Instr) (s : State) : Option Out :=
  match i with
  | .add d a b => some (execAdd d a b s)
  | .sub d a b => some (execSub d a b s)
  | .and d a b => some (execAnd d a b s)
  | .or d a b => some (execOr d a b s)
  | .xor d a b => some (execXor d a b s)
  | .andn d a b => some (execAndn d a b s)
  | .shl d a b => some (execShl d a b s)
  | .shrl d a b => some (execShrl d a b s)
  | .shra d a b => some (execShra d a b s)
  | .cmplt d a b => some (execCmplt d a b s)
  | .cmpltu d a b => some (execCmpltu d a b s)
  | .min d a b => some (execMin d a b s)
  | .max d a b => some (execMax d a b s)
  | .minu d a b => some (execMinu d a b s)
  | .maxu d a b => some (execMaxu d a b s)
  | .cmpeq d a b => some (execCmpeq d a b s)
  | .addi d a im => some (execAddi d a im s)
  | .cmplti d a im => some (execCmplti d a im s)
  | .cmpltiu d a im => some (execCmpltiu d a im s)
  | .andi d a im => some (execAndi d a im s)
  | .ori d a im => some (execOri d a im s)
  | .xori d a im => some (execXori d a im s)
  | .cmpeqi d a im => some (execCmpeqi d a im s)
  | .shli d a n => some (execShli d a n s)
  | .shrli d a n => some (execShrli d a n s)
  | .shrai d a n => some (execShrai d a n s)
  | .mul d a b => some (execMul d a b s)
  | .mulhSs d a b => some (execMulhSs d a b s)
  | .mulhUu d a b => some (execMulhUu d a b s)
  | .mulhSu d a b => some (execMulhSu d a b s)
  | .divs d a b => some (execDivs d a b s)
  | .divu d a b => some (execDivu d a b s)
  | .mods d a b => some (execMods d a b s)
  | .modu d a b => some (execModu d a b s)
  | .clz d a => some (execClz d a s)
  | .ctz d a => some (execCtz d a s)
  | .cpop d a => some (execCpop d a s)
  | .brev d a => some (execBrev d a s)
  | .bfx d a b => some (execBfx d a b s)
  | .bfxu d a b => some (execBfxu d a b s)
  | .bfi d a b => some (execBfi d a b s)
  | .lhi d im => some (execLhi d im s)
  | .pcrel d im => some (execPcrel d im s)
  | .ihz d h im => some (execIhz d h im s)
  | .ihk d h im => some (execIhk d h im s)
  | .ihs d h im => some (execIhs d h im s)
  | .lb d a o => some (execLb d a o s)
  | .lh d a o => some (execLh d a o s)
  | .lw d a o => some (execLw d a o s)
  | .ld d a o => some (execLd d a o s)
  | .lbu d a o => some (execLbu d a o s)
  | .lhu d a o => some (execLhu d a o s)
  | .lwu d a o => some (execLwu d a o s)
  | .sb d a o => some (execSb d a o s)
  | .sh d a o => some (execSh d a o s)
  | .sw d a o => some (execSw d a o s)
  | .sd d a o => some (execSd d a o s)
  | .atswp d a b x z => some (execAtswp d a b x z s)
  | .atadd d a b x z => some (execAtadd d a b x z s)
  | .atand d a b x z => some (execAtand d a b x z s)
  | .ator d a b x z => some (execAtor d a b x z s)
  | .atxor d a b x z => some (execAtxor d a b x z s)
  | .atmin d a b x z => some (execAtmin d a b x z s)
  | .atmax d a b x z => some (execAtmax d a b x z s)
  | .atminu d a b x z => some (execAtminu d a b x z s)
  | .atmaxu d a b x z => some (execAtmaxu d a b x z s)
  | .atcas d a b x z => some (execAtcas d a b x z s)
  | .vadd d a b m => some (execVadd d a b m s)
  | .vadc d a b c => some (execVadc d a b c s)
  | .vsub d a b m => some (execVsub d a b m s)
  | .vsbc d a b c => some (execVsbc d a b c s)
  | .vmul d a b m => some (execVmul d a b m s)
  | .vmac d a b m => some (execVmac d a b m s)
  | .vand d a b m => some (execVand d a b m s)
  | .vor d a b m => some (execVor d a b m s)
  | .vxor d a b m => some (execVxor d a b m s)
  | .vsll d a b m => some (execVsll d a b m s)
  | .vsrl d a b m => some (execVsrl d a b m s)
  | .vsra d a b m => some (execVsra d a b m s)
  | .vsat d a m => some (execVsat d a m s)
  | .vrsra d a b m => some (execVrsra d a b m s)
  | .vwid d a m => some (execVwid d a m s)
  | .vsel d a b m => some (execVsel d a b m s)
  | .vmv d a m => some (execVmv d a m s)
  | .vmin d a b m => some (execVmin d a b m s)
  | .vmax d a b m => some (execVmax d a b m s)
  | .vminu d a b m => some (execVminu d a b m s)
  | .vmaxu d a b m => some (execVmaxu d a b m s)
  | .vbcst d b m => some (execVbcst d b m s)
  | .vidx d m => some (execVidx d m s)
  | .vaddScalar d a b m => some (execVaddScalar d a b m s)
  | .vadcScalar d a b c => some (execVadcScalar d a b c s)
  | .vsubScalar d a b m => some (execVsubScalar d a b m s)
  | .vsbcScalar d a b c => some (execVsbcScalar d a b c s)
  | .vmulScalar d a b m => some (execVmulScalar d a b m s)
  | .vmacScalar d a b m => some (execVmacScalar d a b m s)
  | .vandScalar d a b m => some (execVandScalar d a b m s)
  | .vorScalar d a b m => some (execVorScalar d a b m s)
  | .vxorScalar d a b m => some (execVxorScalar d a b m s)
  | .vsllScalar d a b m => some (execVsllScalar d a b m s)
  | .vsrlScalar d a b m => some (execVsrlScalar d a b m s)
  | .vsraScalar d a b m => some (execVsraScalar d a b m s)
  | .vsatScalar d a b m => some (execVsatScalar d a b m s)
  | .vrsraScalar d a b m => some (execVrsraScalar d a b m s)
  | .vminScalar d a b m => some (execVminScalar d a b m s)
  | .vmaxScalar d a b m => some (execVmaxScalar d a b m s)
  | .vminuScalar d a b m => some (execVminuScalar d a b m s)
  | .vmaxuScalar d a b m => some (execVmaxuScalar d a b m s)
  | .vsllImmediate d a n m => some (execVsllImmediate d a n m s)
  | .vsrlImmediate d a n m => some (execVsrlImmediate d a n m s)
  | .vsraImmediate d a n m => some (execVsraImmediate d a n m s)
  | .vrsraImmediate d a n m => some (execVrsraImmediate d a n m s)
  | .vseq d a b m => some (execVseq d a b m s)
  | .vsne d a b m => some (execVsne d a b m s)
  | .vslt d a b m => some (execVslt d a b m s)
  | .vsle d a b m => some (execVsle d a b m s)
  | .vsltu d a b m => some (execVsltu d a b m s)
  | .vsleu d a b m => some (execVsleu d a b m s)
  | .vsgt d a b m => some (execVsgt d a b m s)
  | .vsgtu d a b m => some (execVsgtu d a b m s)
  | .vseqScalar d a b m => some (execVseqScalar d a b m s)
  | .vsneScalar d a b m => some (execVsneScalar d a b m s)
  | .vsltScalar d a b m => some (execVsltScalar d a b m s)
  | .vsleScalar d a b m => some (execVsleScalar d a b m s)
  | .vsltuScalar d a b m => some (execVsltuScalar d a b m s)
  | .vsleuScalar d a b m => some (execVsleuScalar d a b m s)
  | .vsgtScalar d a b m => some (execVsgtScalar d a b m s)
  | .vsgtuScalar d a b m => some (execVsgtuScalar d a b m s)
  | .mand d a b => some (execMand d a b s)
  | .mor d a b => some (execMor d a b s)
  | .mxor d a b => some (execMxor d a b s)
  | .mandn d a b => some (execMandn d a b s)
  | .mnot d a => some (execMnot d a s)
  | .mslide d a x => some (execMslide d a x s)
  | .vfirst a d => some (execVfirst a d s)
  | .vlast a d => some (execVlast a d s)
  | .mcnt a d => some (execMcnt a d s)
  | .mmv d a => some (execMmv d a s)
  | .vredsum d a m => some (execVredsum d a m s)
  | .vredsumu d a m => some (execVredsumu d a m s)
  | .vredmin d a m => some (execVredmin d a m s)
  | .vredmax d a m => some (execVredmax d a m s)
  | .vredminu d a m => some (execVredminu d a m s)
  | .vredmaxu d a m => some (execVredmaxu d a m s)
  | .vredand d a m => some (execVredand d a m s)
  | .vredor d a m => some (execVredor d a m s)
  | .vredxor d a m => some (execVredxor d a m s)
  | .vperm d a b m => some (execVperm d a b m s)
  | .vslup d a b m => some (execVslup d a b m s)
  | .vsldn d a b m => some (execVsldn d a b m s)
  | .vcomp d a m => some (execVcomp d a m s)
  | .vexpd d a m => some (execVexpd d a m s)
  | .vld d a m c => some (execVld d a m c s)
  | .vlds d a b m c => some (execVlds d a b m c s)
  | .vldx d a b m c => some (execVldx d a b m c s)
  | .vldff d a m c => some (execVldff d a m c s)
  | .hgath d a b m c => some (execHgath d a b m c s)
  | .vst d a m c => some (execVst d a m c s)
  | .vsts d a b m c => some (execVsts d a b m c s)
  | .vstx d a b m c => some (execVstx d a b m c s)
  | .vscadd d a b m c => some (execVscadd d a b m c s)
  | .wadd d a b => some (execWadd d a b s)
  | .wsub d a b => some (execWsub d a b s)
  | .wmul d a b => some (execWmul d a b s)
  | .wfma d a b c => some (execWfma d a b c s)
  | .wfms d a b c => some (execWfms d a b c s)
  | .wfnma d a b c => some (execWfnma d a b c s)
  | .wdiv d a b => some (execWdiv d a b s)
  | .wsqrt d a => some (execWsqrt d a s)
  | .wmin d a b => some (execWmin d a b s)
  | .wmax d a b => some (execWmax d a b s)
  | .wabs d a => some (execWabs d a s)
  | .wneg d a => some (execWneg d a s)
  | .weq d a b => some (execWeq d a b s)
  | .wlt d a b => some (execWlt d a b s)
  | .wle d a b => some (execWle d a b s)
  | .wsel d a b c => some (execWsel d a b c s)
  | .wmv d a => some (execWmv d a s)
  | .wexp d a => some (execWexp d a s)
  | .wexp2 d a => some (execWexp2 d a s)
  | .wlog d a => some (execWlog d a s)
  | .wlog2 d a => some (execWlog2 d a s)
  | .wrcp d a => some (execWrcp d a s)
  | .wrsq d a => some (execWrsq d a s)
  | .wtanh d a => some (execWtanh d a s)
  | .wsig d a => some (execWsig d a s)
  | .wsin d a => some (execWsin d a s)
  | .wcos d a => some (execWcos d a s)
  | .wredsum d a x c => some (execWredsum d a x c s)
  | .wredmax d a x c => some (execWredmax d a x c s)
  | .wredmin d a x c => some (execWredmin d a x c s)
  | .iscan d a x c => some (execIscan d a x c s)
  | .fscan d a x c => some (execFscan d a x c s)
  | .wtopk d a x c => some (execWtopk d a x c s)
  | .wsmx d a x c => some (execWsmx d a x c s)
  | .wscl d a x c => some (execWscl d a x c s)
  | .smerge d a x c => some (execSmerge d a x c s)
  | .wcvt d a b c => some (execWcvt d a b c s)
  | .wcvti d a b c => some (execWcvti d a b c s)
  | .wcvtf d a b c => some (execWcvtf d a b c s)
  | .wpkmx d a b c => some (execWpkmx d a b c s)
  | .wupmx d a b c => some (execWupmx d a b c s)
  | .wmvv w v a => some (execWmvv w v a s)
  | .vmvw w v a => some (execVmvw w v a s)
  | .wmva w t a => some (execWmva w t a s)
  | .amvw w t a => some (execAmvw w t a s)
  | .vdot l b a d => some (execVdot l b a d s)
  | .mgath l b a d => some (execMgath l b a d s)
  | .mgathc l b a d => some (execMgathc l b a d s)
  | .mmac t l b a => some (execMmac t l b a s)
  | .mzeroI32 t => some (execMzeroI32 t s)
  | .mzeroF32 t => some (execMzeroF32 t s)
  | .mpro t => some (execMpro t s)
  | .msclRs l d => some (execMsclRs l d s)
  | .msclRe l d => some (execMsclRe l d s)
  | .msclCs t d => some (execMsclCs t d s)
  | .msclCe t d => some (execMsclCe t d s)
  | .msclOl t d => some (execMsclOl t d s)
  | .mldI32 t b a => some (execMldI32 t b a s)
  | .mldF32 t b a => some (execMldF32 t b a s)
  | .mst t b a => some (execMst t b a s)
  | .mstatBank l d => some (execMstatBank l d s)
  | .mstatTile t d => some (execMstatTile t d s)
  | .hint v => some (execHint v s)
  | .pfch a o => some (execPfch a o s)
  | .pfl2 a o => some (execPfl2 a o s)
  | .hintKind k v => some (execHintKind k v s)
  | .nop => some (execNop s)
  | _ => none

end Sys2Proof.Machine
end

