-- ==== Sys2Proof/Machine/Capture.lean ====
section
/-!
DEFINITION. Instruction words as numbers: fetching them (02_encoding.md R38, 06_memory.md R149), the words that a repeat
frame and a strip-thread body may hold (02_encoding.md R55, 04_control.md R110) with their legality (02_encoding.md R44 to
R46), staggering (R56), capture and recapture (R55, R58; 04_control.md R109, R115, R116).
-/

namespace Sys2Proof.Machine

/-- A word that has been fetched, and the integrity error to raise when a byte of it is poisoned (18_platform.md R475). -/
structure Fetched where
  word : Nat
  sound : Run Unit

/-- No byte of the word is poisoned. -/
def Fetched.clean (f : Fetched) : Bool := f.sound.isOk

/-- Fetch the word at an aligned address, poisoned or not (R38): the word, and the state with the reference bit set. -/
def fetchAny (s : State) (va : Word) : Run (Fetched × State) := do
  let h ← orTrap 2 (translate s .fetch va)
  pure (⟨s.num h.loc 4, checkPoison s va (upto h.loc 4)⟩, markLeaf s h false)

/-- Fetch the word at an aligned address (R38, 18_platform.md R475). -/
def fetchWord (s : State) (va : Word) : Run (Nat × State) := do
  let r ← fetchAny s va
  r.1.sound
  pure (r.1.word, r.2)

/-- Fetch n consecutive words from an address on, poisoned or not: what is illegal about them comes before their integrity
error (17_system.md R439). -/
def fetchWords (s : State) (va : Word) : Nat → Run (List Fetched × State)
  | 0 => .ok ([], s)
  | n + 1 => do
    let r ← fetchAny s va
    let t ← fetchWords r.2 (va + 4) n
    pure (r.1 :: t.1, t.2)

/-- Raise the integrity error of the first poisoned word (18_platform.md R475). -/
def checkSound (fs : List Fetched) : Run Unit := fs.forM (·.sound)

/-! ### Legal words of bodies -/

/-- The words of the lane array's element-wise opcodes that are legal (R44): 0x19 to 0x1B. -/
def laneWordOk (op w : Nat) : Bool :=
  let fn := fld w 27 5
  let m := fld w 24 3
  let b := fld w 18 6
  let a := fld w 12 6
  let carry := fn == 1 || fn == 3
  if op = 0x19 then
    fn ≤ 22 && (!carry || m != 0) && (!(fn == 12 || fn == 14 || fn == 16) || b == 0) &&
      (fn != 21 || (b < 32 && a == 0)) && (fn != 22 || (a == 0 && b == 0))
  else if op = 0x1A then (fn ≤ 13 || (17 ≤ fn && fn ≤ 20)) && b < 32 && (!carry || m != 0)
  else fn == 9 || fn == 10 || fn == 11 || fn == 13

/-- The words of 0x1C that are legal (R44). -/
def compareWordOk (w : Nat) : Bool :=
  fld w 27 4 ≤ 7 && fld w 9 3 == 0 && fld w 6 3 != 0 && (!bitOf w 31 || fld w 18 6 < 32)

/-- The words of 0x1D that are legal (R44; 08_masks.md R216). -/
def maskWordOk (w : Nat) : Bool :=
  let fn := fld w 26 6
  let a := fld w 15 5
  let mb := fld w 12 3
  let md := fld w 6 3
  fld w 20 6 == 0 &&
    (if fn ≤ 3 then a == 0 && md != 0
    else if fn = 4 ∨ fn = 9 then a == 0 && mb == 0 && md != 0
    else if fn = 5 then mb == 0 && md != 0
    else fn ≤ 8 && mb == 0 && md == 0)

/-- The words of the vector memory opcodes that are legal (06_memory.md R159). -/
def vmWordOk (op w : Nat) : Bool :=
  let fn := fld w 29 3
  let ct := fld w 26 3
  let b := fld w 17 6
  let wide := 3 ≤ ct && ct ≤ 5
  if fn = 0 then b == 0 && ct ≤ 6
  else if fn = 1 then b < 32 && wide
  else if fn = 2 then wide
  else if op = 0x20 then (if fn = 3 then b == 0 && ct ≤ 5 else fn == 4 && wide)
  else fn == 3 && wide

/-- The words of the word-unit opcodes that are legal (09_word.md R235, R236, R246, R250; 05_numbers.md R137). -/
def wordWordOk (op w : Nat) : Bool :=
  let fn := fld w 26 6
  let c := fld w 21 5
  let b := fld w 16 5
  let a := fld w 11 5
  let d := fld w 6 5
  if op = 0x23 then
    fn ≤ 16 && ((3 ≤ fn && fn ≤ 5) || fn == 15 || c == 0) && !((fn == 7 || fn == 10 || fn == 11 || fn == 16) && b != 0)
  else if op = 0x24 then fn ≤ 9 && b == 0 && c == 0
  else if op = 0x25 then
    fn ≤ 8 && !((fn == 5 || fn == 6) && d == c) && (fn != 8 || (a % 2 == 0 && c % 2 == 0 && d % 2 == 0))
  else if op = 0x26 then
    let f := b % 16
    let t := c % 16
    if fn = 0 then (f ≤ 8 || f == 15) && t ≤ 4
    else if fn = 1 then f ≤ 8 && 9 ≤ t && t ≤ 14
    else if fn = 2 then 9 ≤ f && f ≤ 14 && t ≤ 4
    else (f == 5 || f == 6 || f == 7 || f == 15) && (fn == 4 || (fn == 3 && d != c))
  else
    fld w 24 2 == 0 && (if fn ≤ 1 then fld w 17 2 == 0 else fn ≤ 3 && fld w 11 6 == 0)

/-- The words of 0x28 that are legal (10_matrix.md R268). -/
def matrixWordOk (w : Nat) : Bool :=
  let d := fld w 20 5
  let a := fld w 15 5
  let b := fld w 9 6
  let l := fld w 8 1
  let t := fld w 6 2
  match fld w 25 7 with
  | 0 => t == 0
  | 1 => t == 0 && b < 32
  | 2 => t == 0 && b < 32
  | 3 => d == 0
  | 4 => d ≤ 1 && a == 0 && b == 0 && l == 0
  | 5 => d == 0 && a == 0 && b == 0 && l == 0
  | 6 => b == 0 && (if a ≤ 1 then t == 0 else a ≤ 4 && l == 0)
  | 7 => d ≤ 1 && b < 32 && l == 0
  | 8 => d == 0 && b < 32 && l == 0
  | 9 => b == 0 && (if a = 0 then t == 0 else a == 1 && l == 0)
  | _ => false

/-- The word is an `mmac` (10_matrix.md R263). -/
def isMmac (w : Nat) : Bool := fld w 0 6 == 0x28 && fld w 20 12 == 96

/-- The word may stand in a repeat frame and is no illegal encoding (R55, R45). -/
def frameWordOk (w : Nat) : Bool :=
  let op := fld w 0 6
  let fn := fld w 21 11
  let f3 := fld w 16 3
  if op = 0x01 then fn ≤ 15
  else if op = 0x02 then f3 != 6 || (fld w 25 2 != 3 && fld w 27 5 == 0)
  else if op = 0x03 then fn ≤ 7
  else if op = 0x04 then fn ≤ 6 && (4 ≤ fn || fld w 16 5 == 0)
  else if op = 0x05 ∨ op = 0x06 then true
  else if op = 0x07 then fld w 13 3 ≤ 2
  else if op = 0x08 then f3 ≤ 6
  else if op = 0x09 then f3 ≤ 3
  else if op = 0x0A then fld w 21 5 ≤ 9 && fld w 26 2 != 3 && fld w 29 3 == 0
  else if 0x19 ≤ op ∧ op ≤ 0x1B then laneWordOk op w
  else if op = 0x1C then compareWordOk w
  else if op = 0x1D then maskWordOk w
  else if op = 0x1E then fld w 27 5 ≤ 8 && fld w 18 6 == 0 && fld w 11 1 == 0
  else if op = 0x1F then
    fld w 27 5 ≤ 4 && (fld w 27 5 == 0 || (if fld w 27 5 ≤ 2 then fld w 18 6 < 32 else fld w 18 6 == 0))
  else if op = 0x20 ∨ op = 0x21 then vmWordOk op w
  else if 0x23 ≤ op ∧ op ≤ 0x27 then wordWordOk op w
  else if op = 0x28 then matrixWordOk w
  else if op = 0x3E then true
  else op == 0x3F && fld w 6 26 == 0

/-- The word may stand in a strip-thread body and is no illegal encoding (04_control.md R110, R45). -/
def stripWordOk (w : Nat) : Bool :=
  let op := fld w 0 6
  if op = 0x10 then (fld w 11 3 == 1 || fld w 11 3 == 2) && fld w 9 2 != 3
  else if op = 0x1D then (fld w 26 6 ≤ 4 || fld w 26 6 == 9) && frameWordOk w
  else ((0x19 ≤ op && op ≤ 0x1C) || op == 0x3E || op == 0x3F) && frameWordOk w

/-- The vector fields of a word and the cases that depend on ewd are legal in the state at hand (R46, R41; 06_memory.md
R159, 07_lanes.md R200, 09_word.md R250). -/
def bodyWordNow (s : State) (w : Nat) : Bool :=
  let op := fld w 0 6
  let d := fld w 6 6
  let a := fld w 12 6
  let wide := 16 < s.wd
  let v (r : Nat) : Bool := r < s.nr
  let dest (r : Nat) : Bool := v r && (!wide || r % 2 == 0)
  let fn := fld w 27 5
  let b := fld w 18 6
  if op = 0x19 then
    dest d && (fn == 21 || fn == 22 || v a) && (fn == 12 || fn == 14 || fn == 16 || 21 ≤ fn || v b) && (fn != 16 || dest a)
  else if op = 0x1A ∨ op = 0x1B then dest d && v a
  else if op = 0x1C then v a && (bitOf w 31 || v b)
  else if op = 0x1E then v a
  else if op = 0x1F then dest d && v a && (fn != 0 || v b)
  else if op = 0x20 then
    let f := fld w 29 3
    let x := fld w 17 6
    dest d && !(f == 0 && fld w 26 3 == 6 && wide) &&
      (!(f == 2 || f == 4) || (v x && x != d && (!wide || x != d + 1)))
  else if op = 0x21 then v d && (fld w 29 3 ≤ 1 || v (fld w 17 6))
  else if op = 0x27 then 2 ≤ fld w 26 6 || dest (fld w 11 6)
  else if op = 0x28 then !(fld w 25 7 == 0 || fld w 25 7 == 3) || v (fld w 9 6)
  else true

/-- The legality of the word depends on a tile, a bank or a register (10_matrix.md R258, R268, R275): `vdot`, `mgathc`, `mmac`. -/
def needsState (w : Nat) : Bool := fld w 0 6 == 0x28 && (fld w 25 7 == 0 || fld w 25 7 == 2 || fld w 25 7 == 3)

/-- The cases of R258, R268 and R275 of 10_matrix.md that depend on them are legal in the state at hand (R46). -/
def matrixWordNow (s : State) (w : Nat) : Bool :=
  let bank := s.bank (BitVec.ofNat 1 (fld w 8 1))
  let t : BitVec 2 := BitVec.ofNat 2 (fld w 6 2)
  match fld w 25 7 with
  | 0 => b1Ok s bank
  | 2 => (gatherFormat (fld (s.rd (BitVec.ofNat 5 (fld w 9 5))).toNat 28 4)).isSome
  | 3 => formatOk s t && b1Ok s bank && listOk s t
  | _ => true

/-! ### Staggering -/

/-- The fields D, A and B of a word as (place, width), none where its format has no such field (R40), or where the field
holds a mask, an immediate or a function code, which staggering never changes (R56): D of 0x1C, B of 0x1B and of 0x26, D of
`mzero` and `mld`, A of `mscl` and `mstat`. -/
def staggerFields (w : Nat) : List (Option (Nat × Nat)) :=
  let op := fld w 0 6
  let fn := fld w 25 7
  if op ≤ 0x04 ∧ op ≠ 0x02 then [some (6, 5), some (11, 5), some (16, 5)]
  else if op = 0x02 then [some (6, 5), some (11, 5), none]
  else if op ≤ 0x07 then [some (6, 5), none, none]
  else if op ≤ 0x09 then [some (6, 5), some (11, 5), none]
  else if op = 0x0A then [some (6, 5), some (11, 5), some (16, 5)]
  else if op = 0x1D then [none, some (15, 5), none]
  else if op = 0x1B then [some (6, 6), some (12, 6), none]
  else if op = 0x1C then [none, some (12, 6), some (18, 6)]
  else if 0x19 ≤ op ∧ op ≤ 0x1F then [some (6, 6), some (12, 6), some (18, 6)]
  else if op = 0x20 ∨ op = 0x21 then [some (6, 6), some (12, 5), some (17, 6)]
  else if op = 0x26 then [some (6, 5), some (11, 5), none]
  else if 0x23 ≤ op ∧ op ≤ 0x25 then [some (6, 5), some (11, 5), some (16, 5)]
  else if op = 0x27 then [none, some (19, 5), none]
  else if op = 0x28 then
    [if fn = 4 ∨ fn = 7 then none else some (20, 5), if fn = 6 ∨ fn = 9 then none else some (15, 5), some (9, 6)]
  else [none, none, none]

/-- The word with x added to a field, modulo its width (R56). -/
def staggerField (w x : Nat) : Option (Nat × Nat) → Nat
  | none => w
  | some (lo, n) => setFld w lo n (fld w lo n + x)

/-- The body word w as replay j executes it under the `rpt` word h (R54, R56). -/
def stagger (h w j : Nat) : Nat :=
  let x := j * 2 ^ fld h 25 2
  let fs := staggerFields w
  let sel (k : Nat) (w : Nat) : Nat := if bitOf h (22 + k) then staggerField w x (fs.getD k none) else w
  sel 2 (sel 1 (sel 0 w))

/-- The word is a legal `rpt` (R54, R45). -/
def rptWordOk (w : Nat) : Bool :=
  fld w 0 6 == 0x3F && fld w 6 4 == 1 && fld w 25 2 != 3 && (fld w 27 5 == 0 || fld w 14 8 == 0)

/-! ### Repeat frames -/

/-- The captured words as the frame buffer holds them. -/
def asBuffer (ws : List Fetched) : List IWord := ws.map (fun f => BitVec.ofNat 32 f.word)

/-- The words of a body with k words in the order in which they execute from index p of replay j on, each with its replay: those
before p follow in the next replay (R56, R58). -/
def execOrder (k j p : Nat) : List (Nat × Nat) := (upto p (k - p)).map (fun i => (i, j)) ++ (upto 0 p).map (fun i => (i, j + 1))

/-- The state after the word at index i of a body at va has executed in replay j under the `rpt` word h (R56). None where it is
poisoned or does not commit: it traps, or waits. A pending pre-emption, which splits an `mmac`, changes nothing of what it
leaves (10_matrix.md R261). -/
def afterWord (h : Nat) (va : Word) (ws : List Fetched) (i j : Nat) (s : State) : Option State :=
  let u := { s with
    frame := ⟨true, BitVec.ofNat 16 j, 65535, BitVec.ofNat 4 i, true, s.level, 0, BitVec.ofNat 32 h, asBuffer ws⟩
    pc := va + w64 (4 * i)
    ctl.preReq := none }
  match ws[i]? with
  | none => none
  | some f =>
    if !f.clean then none
    else match (decodeBody (stagger h f.word j)).bind (fun x => bodyExec x u) with
      | some (.next t) => if t.instret = u.instret + 1 then some t else none
      | _ => none

/-- The states in which the words execute, in their order, from a state on; none where a word before does not commit. -/
def bodyStates (h : Nat) (va : Word) (ws : List Fetched) : List (Nat × Nat) → Option State → List (Option State)
  | [], _ => []
  | x :: t, s => s :: bodyStates h va ws t (s.bind (afterWord h va ws x.1 x.2))

/-- A word, as it stands, passes the first two checks of R55 for a body that s enters, u being the state in which it executes.
Where that state is not known, what depends on it is left to the word's own commit, and of a poisoned word nothing is known
(17_system.md R439, 18_platform.md R475: DESIGN CHOICE, log 32). -/
def frameWordNow (s : State) (u : Option State) (f : Fetched) : Bool :=
  !f.clean || (frameWordOk f.word && bodyWordNow s f.word && (!needsState f.word || u.all (fun v => matrixWordNow v f.word)))

/-- The address of the first word that fails a check, of a body at va that s enters at index p of replay j under the `rpt` word
h. -/
def firstBad (s : State) (h j p : Nat) (va : Word) (ws : List Fetched) : Option Word :=
  let k := ws.length
  let us := bodyStates h va ws (execOrder k j p) (some s)
  let oks := ((us.drop (k - p) ++ us.take (k - p)).zip ws).map (fun x => frameWordNow s x.1 x.2)
  (oks.findIdx? (!·)).map (fun i => va + w64 (4 * i))

/-- The recapture of a suspended frame at the current pc (R58). Each word is checked as it stands, in the state in which it executes
from there on, those before the pc in the next replay (DESIGN CHOICE, log 32). -/
def recaptureFrame (s : State) : Run State := do
  let a := s.pc - w64 (4 * (s.frame.p.toNat + 1))
  let reject (va : Word) : Run State := .error (.trap { code := 1, sub := 1, eaddr := va })
  let h ← fetchWord s a
  if !(rptWordOk h.1 && s.frame.p.toNat < fld h.1 10 4 + 1) then reject a
  else do
    let ws ← fetchWords h.2 (a + 4) (fld h.1 10 4 + 1)
    match firstBad s h.1 s.frame.j.toNat s.frame.p.toNat (a + 4) ws.1 with
    | some va => reject va
    | none => do
      checkSound ws.1
      pure { ws.2 with
        frame.captured := true
        frame.head := BitVec.ofNat 32 h.1
        frame.body := asBuffer ws.1 }

/-! ### Strip threads -/

/-- The word of `sfork` (04_control.md R109). -/
def sforkWord : Nat := 0x10
/-- The word of `sjoin` (04_control.md R109). -/
def sjoinWord : Nat := 0x1810

/-- Where the search for the `sjoin` of a strip-thread body ends (04_control.md R109): at the `sjoin`, at the end of what may
hold it, or at a poisoned word, with its integrity error. -/
inductive BodyEnd where
  | join
  | missing
  | poisoned (e : Run Unit)

/-- The search ended at the `sjoin`. -/
def BodyEnd.isJoin : BodyEnd → Bool
  | .join => true
  | _ => false

/-- Fetch the words of a strip-thread body up to `sjoin`, at most n (04_control.md R109). -/
def fetchBody (s : State) (va : Word) : Nat → Run ((List Nat × BodyEnd) × State)
  | 0 => .ok (([], .missing), s)
  | n + 1 => do
    let r ← fetchAny s va
    if !r.1.clean then pure (([], .poisoned r.1.sound), r.2)
    else if r.1.word = sjoinWord then pure (([], .join), r.2)
    else do
      let t ← fetchBody r.2 (va + 4) n
      pure ((r.1.word :: t.1.1, t.1.2), t.2)

/-- The index of a strip branch's target, for the word at index i (04_control.md R112). -/
def stripTarget (w i : Nat) : Int := (i : Int) + sext (fld w 14 18) 18

/-- The word at index i of a strip-thread body passes R109 and R110 of 04_control.md; l is the index of `sjoin`. -/
def stripWordNow (s : State) (l i w : Nat) : Bool :=
  stripWordOk w && bodyWordNow s w &&
    (fld w 0 6 != 0x10 ||
      (if fld w 11 3 = 1 then decide ((i : Int) < stripTarget w i ∧ stripTarget w i ≤ l)
      else decide (0 ≤ stripTarget w i ∧ stripTarget w i ≤ i)))

/-- The first offending word of a strip-thread body at a + 4 (04_control.md R109, R110). -/
def firstStripBad (s : State) (l : Nat) (a : Word) : Nat → List Nat → Option Word
  | _, [] => none
  | i, w :: t => if stripWordNow s l i w then firstStripBad s l a (i + 1) t else some (a + w64 (4 * (i + 1)))

/-- What else 04_control.md R109 asks at an `sfork` at a with l body words. -/
def stripPlaceOk (s : State) (a : Word) (l : Nat) : Bool :=
  s.loops.all (fun e => !(decide (a.toNat ≤ e.last.toNat) && decide (e.last.toNat ≤ a.toNat + 4 * l))) &&
    decide (s.lanes.vl.toNat ≤ 32768) && !(s.frame.live && s.frame.level == s.level)

/-- The recapture of a suspended strip-thread body at the current pc (04_control.md R115, R116). What R109 asks of the place (the E of
a loop, `vl`, a frame of the level) is checked again too, after the words, with a as the offending word (DESIGN CHOICE, log 32). -/
def recaptureStrip (s : State) : Run State := do
  let reject (va : Word) : Run State := .error (.trap { code := 9, eaddr := va })
  let l := s.strip.len.toNat
  let r ← fetchWord s s.pc
  if r.1 ≠ sforkWord then reject s.pc
  else do
    let ws ← fetchWords r.2 (s.pc + 4) (l + 1)
    checkSound ws.1
    let body := ws.1.map (·.word)
    match firstStripBad { s with strip.captured := true } l s.pc 0 (body.take l) with
    | some va => reject va
    | none =>
      if body.getLast? ≠ some sjoinWord then reject (s.pc + w64 (4 * (l + 1)))
      else if !stripPlaceOk s s.pc l then reject s.pc
      else pure { ws.2 with strip.captured := true, strip.body := asBuffer (ws.1.take l) }

end Sys2Proof.Machine
end

