-- ==== Sys2Proof/Machine/EngineUnits.lean ====
section
/-!
DEFINITION. The units of engine commands (12_engines.md R320, R329 to R338): what one unit reads and what it writes.
-/

namespace Sys2Proof.Machine

/-- Why a unit is not performed: its translation fails (12_engines.md R321), it reads a poisoned byte (18_platform.md
R475), the command ends with a status and a result (R324, R325), or the transport has not answered (R338). `used` lists the
accesses it had made. -/
inductive Halt where
  | fault (addr : Word) (kind : Nat) (write : Bool) (used : List (Hit × Bool))
  | poison (sub : Nat) (used : List (Hit × Bool))
  | status (n count : Nat) (used : List (Hit × Bool))
  | idle
  deriving DecidableEq, Repr

/-- What a unit notes as it goes on: the translations it used, and the detail of the first poisoned byte it has read. The poison
is raised once every page that the unit reads or writes is translated (R320, 18_platform.md R475). -/
structure EngLog where
  used : List (Hit × Bool) := []
  bad : Option Nat := none
  deriving DecidableEq, Repr

/-- The computation of a unit. -/
abbrev Eng (α : Type) := StateT EngLog (Except Halt) α

/-- A packet that a unit sends to a peer (R338, 18_platform.md R465): type, address and payload. -/
structure Sending where
  kind : Nat
  addr : Word
  data : List Byte
  deriving DecidableEq, Repr

/-- What a unit does (R320): the bytes it writes, a byte whose low nibble alone it writes (R329), the phase and unit that
come next, the count so far, what it passes on, the flags it raises, the status with which it ends the command, the packet
it sends, and whether it takes a reply. -/
structure UnitOut where
  writes : List (Word × List Byte) := []
  nibble : Option (Word × Nat) := none
  phase : Nat
  unit : Nat
  count : Nat
  aux : List Nat := []
  f : BitVec 5 := 0
  q : BitVec 4 := 0
  ended : Option Nat := none
  send : Option Sending := none
  took : Option Nat := none
  deriving DecidableEq, Repr

/-- Word k of the descriptor as a number. -/
def Command.w (c : Command) (k : Nat) : Nat := (c.words.getD k 0).toNat

/-- End a command without writing anything; a status that follows from poisoned bytes is none. -/
def endWith {α : Type} (n count : Nat) : Eng α := fun l =>
  match l.bad with
  | some b => .error (.poison b l.used)
  | none => .error (.status n count l.used)

/-- The pieces of n bytes at va that lie in one 64 KiB page each; `f` bounds their number. -/
def pageRuns : Nat → Word → Nat → List (Word × Nat)
  | 0, _, _ => []
  | f + 1, va, n =>
    if n = 0 then []
    else
      let k := min n (65536 - va.toNat % 65536)
      (va, k) :: pageRuns f (va + w64 k) (n - k)

/-- Translate one piece for an engine: through the activation's address space (R319, R320). -/
def engHit (s : State) (c : Command) (write : Bool) (va : Word) : Eng Hit := fun l =>
  match translateAt s (s.seenByte c.view) (some c.root) c.level (if write then .vstore else .vload) va with
  | .error f => .error (.fault f.addr f.kind.code write l.used)
  | .ok h => .ok (h, { l with used := l.used ++ [(h, write)] })

/-- Translate n bytes at va for an engine: their locations. When a page fails, none of the bytes is accessed. -/
def engLocs (s : State) (c : Command) (write : Bool) (va : Word) (n : Nat) : Eng (List Nat) := fun l =>
  match ((pageRuns (n / 65536 + 2) va n).mapM (fun p => do
    let h ← engHit s c write p.1
    pure (upto h.loc p.2)) : Eng (List (List Nat))) l with
  | .error (.fault a k w _) => .error (.fault a k w l.used)
  | .error e => .error e
  | .ok r => .ok (r.1.flatten, r.2)

/-- The n bytes at va can be written, which a later step does: no bit of their pages' entries is set yet (R320). -/
def engSpace (s : State) (c : Command) (va : Word) (n : Nat) : Eng Unit := fun l =>
  match engLocs s c true va n l with
  | .error e => .error e
  | .ok _ => .ok ((), l)

/-- The byte a command reads at a location (11_sync.md R301). -/
def Command.byteAt (s : State) (c : Command) (loc : Nat) : Byte := s.seenByte c.view loc

/-- Read n bytes at va for an engine, and note the first poisoned one (R319, 11_sync.md R301, 18_platform.md R475). -/
def engRead (s : State) (c : Command) (va : Word) (n : Nat) : Eng (List Byte) := do
  let ls ← engLocs s c false va n
  modify (fun l => { l with bad := l.bad.or (ls.findSome? (poisonAt s)) })
  pure (ls.map (c.byteAt s))

/-- Raise the poison that has been read, once the given ranges, each with whether it is written, are translated (R320, R321). -/
def engSure (s : State) (c : Command) (rs : List (Bool × Word × Nat)) : Eng Unit := fun l =>
  match l.bad with
  | none => .ok ((), l)
  | some b => match (rs.mapM (fun r => engLocs s c r.1 r.2.1 r.2.2)) l with
    | .error e => .error e
    | .ok _ => .error (.poison b l.used)

/-- The parts of rows of `cols` elements that hold the elements i to j - 1: row, first column, columns. -/
def rowSpans (cols i j : Nat) : List (Nat × Nat × Nat) :=
  (upto (i / cols) ((j - 1) / cols + 1 - i / cols)).map (fun r =>
    let lo := max i (r * cols)
    let hi := min j ((r + 1) * cols)
    (r, lo - r * cols, hi - lo))

/-- Where a unit of `xcopy` writes, in the order of its bytes (R330). -/
def Command.copyDests (c : Command) : List (Word × Nat) :=
  let eb := 2 ^ fld (c.w 0) 4 2
  let cols := fld (c.w 3) 32 32
  let pw := fld (c.w 0) 6 5
  let dst := w64 (c.w 2)
  let per := ceilDiv (cols * eb) 4096
  let r := c.unit / per
  let lo := c.unit % per * 4096
  let n := min 4096 (cols * eb - lo)
  let i := 32768 * c.unit
  let j := min (fld (c.w 3) 0 32 * cols) (i + 32768)
  match fld (c.w 0) 2 2 with
  | 0 => [(dst + w64 (r * c.w 5 + lo), n)]
  | 1 => (upto (lo / eb) (n / eb)).map (fun p => (dst + w64 (p * c.w 5 + r * eb), eb))
  | 2 => (upto 0 pw).map (fun q => (dst + w64 ((c.unit * pw + q) * 4096), 4096))
  | _ => (rowSpans cols i j).map (fun p => (dst + w64 (p.1 * c.w 5 + p.2.1 * eb), p.2.2 * eb))

/-- Bytes of a tile of `xtile` (R337). -/
def Command.tileSize (c : Command) : Nat := 4096 * (fld (c.w 0) 1 4 + 1)

/-- The ranges that the next unit writes, as far as they do not depend on what it reads (R330, R334, R337). -/
def Command.dests (c : Command) : List (Word × Nat) :=
  let dst := w64 (c.w 2)
  match c.fn with
  | 0 => c.copyDests
  | 2 => if c.phase = 1 then [(dst + w64 (c.aux.headD 0), 8)] else []
  | 3 => [(dst + w64 (4096 * c.unit), 4096)]
  | 5 => [(dst + w64 (c.unit * c.tileSize), c.tileSize)]
  | _ => []

/-- Read n bytes that say where the unit goes on. What follows from poisoned ones is not known: their poison is raised once the
ranges known by now, `more` and those the unit writes, are translated (R320, R321: DESIGN CHOICE, log 22). -/
def engKey (s : State) (c : Command) (va : Word) (n : Nat) (more : List (Bool × Word × Nat)) : Eng (List Byte) := do
  let bs ← engRead s c va n
  engSure s c (more ++ c.dests.map (fun d => (true, d.1, d.2)))
  pure bs

/-- Read a number of n bytes that says where the unit goes on. -/
def engNum (s : State) (c : Command) (va : Word) (n : Nat) (more : List (Bool × Word × Nat) := []) : Eng Nat := do
  let bs ← engKey s c va n more
  pure (leNat bs)

/-- Deal bytes out to ranges, in order. -/
def deal : List (Word × Nat) → List Byte → List (Word × List Byte)
  | [], _ => []
  | d :: t, bs => (d.1, bs.take d.2) :: deal t (bs.drop d.2)

/-- n bytes of zero. -/
def zeros (n : Nat) : List Byte := List.replicate n 0

/-- Cut a list into pieces of k, n of them. -/
def chunks {α : Type} (k : Nat) : Nat → List α → List (List α)
  | 0, _ => []
  | n + 1, l => l.take k :: chunks k n (l.drop k)

/-- The number whose bits these are, lowest first. -/
def bitsNat : List Bool → Nat
  | [] => 0
  | b :: t => bNat b + 2 * bitsNat t

/-- n bytes that hold these bits, lowest first; missing bits are zero. -/
def packBits (n : Nat) (l : List Bool) : List Byte := (chunks 8 n l).map (fun c => BitVec.ofNat 8 (bitsNat c))

/-- The next unit of the same phase, or the end of the command when it was the last one. -/
def Command.after (c : Command) (total count : Nat) (ws : List (Word × List Byte)) : UnitOut :=
  { writes := ws, phase := c.phase, unit := c.unit + 1, count := count, aux := c.aux
    ended := if c.unit + 1 < total then none else some 0 }

/-! ### Compressed buffers -/

/-- A compressed buffer's header as its reader keeps it (R331): the number of blocks and the size. -/
structure Packing where
  nblk : Nat
  size : Nat
  deriving DecidableEq, Repr

/-- Read and check the header of a compressed buffer; a bad one ends the command with status 3 (R331). An address that is not a
multiple of 64, and a nonzero bit that the header's table does not name (word 0 [7:4] and [63:40], bytes 16 to 63), do so too: R331
calls these bits neither reserved nor zero (DESIGN CHOICE, log 22). -/
def readHeader (s : State) (c : Command) (h : Word) : Eng Packing := do
  if h.toNat % 64 ≠ 0 then endWith 3 c.count
  else
    let bs ← engKey s c h 64 []
    let w := leNat (bs.take 8)
    let size := leNat ((bs.drop 8).take 8)
    if fld w 2 6 ≠ 0 ∨ fld w 40 24 ≠ 0 ∨ leNat (bs.drop 16) ≠ 0 ∨ size < 64 + 8 * fld w 8 32 then endWith 3 c.count
    else pure ⟨fld w 8 32, size⟩

/-- Put stored lines back where the mask says, n lines (R331). -/
def expandLines : Nat → Nat → List Byte → List Byte
  | 0, _, _ => []
  | n + 1, m, bs =>
    if m % 2 = 1 then bs.take 64 ++ expandLines n (m / 2) (bs.drop 64) else zeros 64 ++ expandLines n (m / 2) bs

/-- The 4,096 bytes of block b of the buffer at h (R331, R332: the expansion point never changes them). A table entry with a bit
of [63:40] set, or an offset that is not a multiple of 8, ends the command with status 3 (DESIGN CHOICE, log 22). -/
def readBlock (s : State) (c : Command) (h : Word) (p : Packing) (b : Nat) : Eng (List Byte) := do
  let e ← engNum s c (h + w64 (64 + 8 * b)) 8
  if fld e 40 24 ≠ 0 ∨ e % 8 ≠ 0 ∨ p.size < e + 8 then endWith 3 c.count
  else
    let m ← engNum s c (h + w64 e) 8
    let n := 64 * popCount m 64
    if p.size < e + 8 + n then endWith 3 c.count
    else
      let bs ← engRead s c (h + w64 (e + 8)) n
      pure (expandLines 64 m bs)

/-- n bytes at an offset of the expanded image of the buffer at h (R333). -/
def readImage (s : State) (c : Command) (h : Word) (off n : Nat) : Eng (List Byte) := do
  let p ← readHeader s c h
  if p.nblk * 4096 < off + n then endWith 3 c.count
  else
    let first := off / 4096
    let count := (off + n + 4095) / 4096 - first
    let bs ← (upto first count).mapM (readBlock s c h p)
    pure ((bs.flatten.drop (off - first * 4096)).take n)

/-! ### xcopy -/

/-- n source bytes of `xcopy` at an offset from src (R330, R333). -/
def copySource (s : State) (c : Command) (off n : Nat) : Eng (List Byte) :=
  if bitOf (c.w 0) 1 then readImage s c (w64 (c.w 1)) off n else engRead s c (w64 (c.w 1) + w64 off) n

/-- A unit of `xcopy` with lay 0 or 1: at most 4,096 bytes of a row (R330). -/
def copyRows (s : State) (c : Command) : Eng UnitOut := do
  let eb := 2 ^ fld (c.w 0) 4 2
  let cols := fld (c.w 3) 32 32
  let per := ceilDiv (cols * eb) 4096
  let total := fld (c.w 3) 0 32 * per
  if total = 0 then endWith 0 0
  else
    let r := c.unit / per
    let lo := c.unit % per * 4096
    let n := min 4096 (cols * eb - lo)
    let bs ← copySource s c (r * c.w 4 + lo) n
    pure (c.after total (c.count + n) (deal c.copyDests bs))

/-- A unit of `xcopy` with lay 2: the plane rows of one segment (R330). Planes past the container's bits are zero (DESIGN CHOICE,
log 22). -/
def copyToPlanes (s : State) (c : Command) : Eng UnitOut := do
  let eb := 2 ^ fld (c.w 0) 4 2
  let cols := fld (c.w 3) 32 32
  let pw := fld (c.w 0) 6 5
  let n := fld (c.w 3) 0 32 * cols
  if n = 0 then endWith 0 0
  else
    let i := 32768 * c.unit
    let j := min n (i + 32768)
    let rows ← (rowSpans cols i j).mapM (fun p => copySource s c (p.1 * c.w 4 + p.2.1 * eb) (p.2.2 * eb))
    let vals := (chunks eb (j - i) rows.flatten).map leNat
    let bs := (upto 0 pw).flatMap (fun q => packBits 4096 (vals.map (fun v => bitOf v q)))
    pure (c.after (ceilDiv n 32768) (c.count + 4096 * pw) (deal c.copyDests bs))

/-- The bits of a byte, lowest first. -/
def byteBits (b : Byte) : List Bool := (upto 0 8).map (fun k => b.getLsbD k)

/-- Element values from their planes, lowest plane first: n elements. -/
def fromPlanes : Nat → List (List Bool) → List Nat
  | 0, _ => []
  | n + 1, ps => bitsNat (ps.map (fun p => p.headD false)) :: fromPlanes n (ps.map List.tail)

/-- A unit of `xcopy` with lay 3: the elements of one segment (R330). Planes past the container's bits are dropped (DESIGN CHOICE,
log 22). -/
def copyFromPlanes (s : State) (c : Command) : Eng UnitOut := do
  let eb := 2 ^ fld (c.w 0) 4 2
  let cols := fld (c.w 3) 32 32
  let pw := fld (c.w 0) 6 5
  let n := fld (c.w 3) 0 32 * cols
  if n = 0 then endWith 0 0
  else
    let i := 32768 * c.unit
    let j := min n (i + 32768)
    let planes ← (upto 0 pw).mapM (fun q => copySource s c ((c.unit * pw + q) * 4096) (ceilDiv (j - i) 8))
    let vals := fromPlanes (j - i) (planes.map (fun p => p.flatMap byteBits))
    let wide := vals.map (fun v => leBytes (if bitOf (c.w 0) 11 then truncN (sext v pw) (8 * eb) else v) eb)
    pure (c.after (ceilDiv n 32768) (c.count + (j - i) * eb) (deal c.copyDests wide.flatten))

/-- A unit of `xcopy` (R330, R333). -/
def copyUnit (s : State) (c : Command) : Eng UnitOut :=
  match fld (c.w 0) 2 2 with
  | 2 => copyToPlanes s c
  | 3 => copyFromPlanes s c
  | _ => copyRows s c

/-! ### xzip and xexp -/

/-- The line mask of a dense block: bit j says that line j is not zero (R334). -/
def lineMask : Nat → List Byte → Nat
  | 0, _ => 0
  | n + 1, bs => bNat ((bs.take 64).any (fun b => b != 0)) + 2 * lineMask n (bs.drop 64)

/-- The lines that are not zero (R334). -/
def nonzeroLines (bs : List Byte) : List Byte :=
  ((chunks 64 64 bs).filter (fun l => l.any (fun b => b != 0))).flatten

/-- A unit of `xzip` (R334): the blocks are measured, then written, then the table and the header. `aux` holds the size
measured so far, or the offsets of the blocks, latest first, the offset of the next one in front; `count` the size measured. Of 2^32
blocks or more the header holds the number modulo 2^32, and an offset of 2^40 or more is written whole (DESIGN CHOICE, log 22). -/
def zipUnit (s : State) (c : Command) : Eng UnitOut := do
  let nblk := c.w 3 / 4096
  let base := 64 + 8 * nblk
  let dst := w64 (c.w 2)
  if nblk = 0 then endWith 0 base
  else if c.phase = 2 then
    let size := c.aux.headD base
    let hdr := leBytes (fld (c.w 0) 2 2 + nblk % 2 ^ 32 * 2 ^ 8) 8 ++ leBytes size 8 ++ zeros 48
    pure { writes := [(dst + 64, (c.aux.tail.reverse.flatMap (fun o => leBytes o 8))), (dst, hdr)]
           phase := 2, unit := 1, count := size, ended := some 0 }
  else
    let bs ← engKey s c (w64 (c.w 1) + w64 (4096 * c.unit)) 4096 []
    let m := lineMask 64 bs
    let len := 8 + 64 * popCount m 64
    let last := c.unit + 1 = nblk
    if c.phase = 0 then
      let need := c.aux.headD base + len
      if last then
        if c.w 4 < need then endWith 2 need
        else pure { phase := 1, unit := 0, count := need, aux := [base] }
      else pure { phase := 0, unit := c.unit + 1, count := need, aux := [need] }
    else
      let o := c.aux.headD base
      if c.w 4 < o + len then endWith 2 (o + len)
      else
        pure { writes := [(dst + w64 o, leBytes m 8 ++ nonzeroLines bs)]
               phase := if last then 2 else 1
               unit := if last then 0 else c.unit + 1
               count := c.count
               aux := (o + len) :: o :: c.aux.tail }

/-- A unit of `xexp`: one block (R334). -/
def expUnit (s : State) (c : Command) : Eng UnitOut := do
  let h := w64 (c.w 1)
  let p ← readHeader s c h
  if p.nblk = 0 then endWith 0 0
  else
    let bs ← readBlock s { c with count := p.nblk * 4096 } h p c.unit
    pure (c.after p.nblk (p.nblk * 4096) [(w64 (c.w 2) + w64 (4096 * c.unit), bs)])

/-! ### xconv -/

/-- Bits of the container of a format code (R329). -/
def containerBits (c : Nat) : Nat :=
  if c = 5 then 4
  else if c = 0 ∨ c = 11 ∨ c = 14 then 32
  else if c = 1 ∨ c = 2 ∨ c = 10 ∨ c = 13 then 16
  else 8

/-- The element codes in n containers of a format (R329). -/
def codesOf (c n : Nat) (bs : List Byte) : List Nat :=
  if c = 5 then (bs.flatMap (fun b => [b.toNat % 16, b.toNat / 16])).take n
  else (chunks (containerBits c / 8) n bs).map (fun l => if c = 6 ∨ c = 7 then leNat l % 64 else leNat l)

/-- An exact value scaled by a scale factor, with the flags of the product (R335). The sign of a NaN is the model's choice
(DESIGN CHOICE, log 36): that of the first NaN operand, and plus where no operand has one. -/
def scaledNum (x y : Num) : Num × BitVec 5 × BitVec 4 :=
  let nv := when (anySig [x, y]) fNv
  let mn := when (x == .badScale || y == .badScale) qMn
  if x.isNan || y.isNan then (.nan (if x.isNan then x.neg else y.neg) false, nv, mn)
  else if zeroTimesInf x y then (.nan false false, fNv, 0)
  else if x.isInf || y.isInf then (.inf (x.neg != y.neg), 0, 0)
  else
    let p := mulExact x.exact y.exact
    (.fin p.neg p.m p.e, 0, 0)

/-- `Cvt` into a destination code of `xconv` with mx = 0 (R335). An element clamped into E2M1, E2M3 or E3M2 sets of and nx and
no sf (05_numbers.md R128, R139: DESIGN CHOICE, log 36). -/
def convElem (d : Nat) (mode : Rounding) (sat : Bool) (x : Num) : Flagged :=
  if d ≤ 4 then cvtFp (fmtOf d) mode sat x
  else if d = 5 ∨ d = 6 ∨ d = 7 ∨ d = 15 then
    match x with
    | .fin neg m e =>
      let r := packElem d mode ⟨neg, m, e, false⟩
      r.1.and (when r.2 (fOf ||| fNx)) 0
    | .inf neg =>
      ⟨if d = 15 then (if neg then 0x80 else 0x7F) else signBit (fmtOf d) neg + (fmtOf d).maxMag, fOf ||| fNx, 0⟩
    | .nan _ _ => ⟨0, fNv, 0⟩
    | .badScale => ⟨0, fNv, qMn⟩
  else cvtInt (intFmtOf d) mode sat x

/-- Element i converted, with its scale when there is one (R335). -/
def convScaled (d : Nat) (mode : Rounding) (sat : Bool) (x : Num) (scale : Option Num) : Flagged :=
  match scale with
  | none => convElem d mode sat x
  | some y =>
    let p := scaledNum x y
    (convElem d mode sat p.1).and p.2.1 p.2.2

/-- The bytes of element codes in their containers (R329); an odd last nibble is left to `UnitOut.nibble`. -/
def codeBytes (d : Nat) (cs : List Nat) : List Byte :=
  if d = 5 then
    (chunks 2 (cs.length / 2) cs).map (fun l => BitVec.ofNat 8 (l.headD 0 % 16 + (l.getD 1 0) % 16 * 16))
  else cs.flatMap (fun x => leBytes x (containerBits d / 8))

/-- The scale factors of elements i to i + n - 1 (R335). -/
def readScales (s : State) (c : Command) (i n : Nat) : Eng (List (Option Num)) := do
  let sk := fld (c.w 0) 13 2
  let g := c.w 5
  if sk = 0 then pure ((upto i n).map (fun _ => none))
  else
    let b := if sk = 1 then 4 else 1
    let lo := i / g
    let k := (i + n - 1) / g + 1 - lo
    let bs ← engRead s c (w64 (c.w 4) + w64 (lo * b)) (k * b)
    let ys := (chunks b k bs).map (fun l => if sk = 1 then valFp fp32 (leNat l) else valScale (leNat l))
    pure ((upto i n).map (fun x => some (ys.getD (x / g - lo) .badScale)))

/-- A unit of `xconv`: 4,096 elements (R335). -/
def convUnit (s : State) (c : Command) : Eng UnitOut := do
  let n := c.w 3
  if n = 0 then endWith 0 0
  else
    let sf := fld (c.w 0) 5 4
    let df := fld (c.w 0) 9 4
    let mode := Rounding.ofCode (fld (c.w 0) 1 3)
    let i := 4096 * c.unit
    let k := min 4096 (n - i)
    let bs ← engRead s c (w64 (c.w 1) + w64 (i * containerBits sf / 8)) (ceilDiv (k * containerBits sf) 8)
    let xs := (codesOf sf k bs).map (valOf sf)
    let at_ := w64 (c.w 2) + w64 (i * containerBits df / 8)
    let done := c.after (ceilDiv n 4096) n []
    if bitOf (c.w 0) 15 then
      let ps := (chunks 32 (k / 32) xs).map (packBlock df mode)
      pure { done with
        writes := [(at_, codeBytes df (ps.flatMap (·.codes))),
          (w64 (c.w 6) + w64 (i / 32), ps.map (fun p => BitVec.ofNat 8 p.scale))]
        f := ps.foldl (fun a p => a ||| p.f) 0
        q := ps.foldl (fun a p => a ||| p.q) 0 }
    else
      let ys ← readScales s c i k
      let rs := (xs.zip ys).map (fun p => convScaled df mode (bitOf (c.w 0) 4) p.1 p.2)
      pure { done with
        writes := [(at_, codeBytes df (rs.map (·.val)))]
        nibble := if df = 5 ∧ k % 2 = 1 then some (at_ + w64 (k / 2), (rs.getLast?.map (·.val)).getD 0) else none
        f := rs.foldl (fun a r => a ||| r.f) 0
        q := rs.foldl (fun a r => a ||| r.q) 0 }

/-! ### xfmt -/

/-- A dense element counts as zero (R336). -/
def zeroElem (fp : Bool) (eb v : Nat) : Bool := if fp then v % 2 ^ (8 * eb - 1) == 0 else v == 0

/-- Rows and columns of `xfmt` (R336). -/
def Command.fmtRows (c : Command) : Nat := fld (c.w 2) 0 32
/-- Rows and columns of `xfmt` (R336). -/
def Command.fmtCols (c : Command) : Nat := fld (c.w 2) 32 32
/-- Bytes of an element of `xfmt` (R336). -/
def Command.fmtBytes (c : Command) : Nat := 2 ^ fld (c.w 0) 2 2

/-- A unit of `xfmt` with dir 0: a row, or 4,096 bytes of the row pointers. `aux` holds the count of entries before each
row done, latest first; `count` the entries so far (R336). -/
def toRowsUnit (s : State) (c : Command) : Eng UnitOut := do
  let rows := c.fmtRows
  let eb := c.fmtBytes
  if c.phase = 0 then
    let bs ← engKey s c (w64 (c.w 1) + w64 (c.unit * c.w 3)) (c.fmtCols * eb) []
    let vs := (chunks eb c.fmtCols bs).map leNat
    let es := ((upto 0 c.fmtCols).zip vs).filter (fun p => !zeroElem (bitOf (c.w 0) 4) eb p.2)
    let kept := es.take (c.w 7 - c.count)
    let total := c.count + es.length
    let last := c.unit + 1 = rows
    pure { writes := [(w64 (c.w 5) + w64 (4 * c.count), kept.flatMap (fun p => leBytes p.1 4)),
             (w64 (c.w 6) + w64 (eb * c.count), kept.flatMap (fun p => leBytes p.2 eb))]
           phase := if last then 1 else 0
           unit := if last then 0 else c.unit + 1
           count := total
           aux := c.count :: c.aux
           ended := if last && decide (c.w 7 < total) then some 2 else none }
  else
    let ps := (c.count :: c.aux).reverse
    let lo := 1024 * c.unit
    let part := (ps.drop lo).take 1024
    pure { c.after (ceilDiv (4 * (rows + 1)) 4096) c.count
             [(w64 (c.w 4) + w64 (4096 * c.unit), part.flatMap (fun p => leBytes p 4))] with aux := c.aux }

/-- Where the row pointers of R336 stand: entry r. -/
def rowPtrAt (c : Command) (r : Nat) : Word := w64 (c.w 4) + w64 (4 * r)

/-- The result of `xfmt` with dir 1: rp[rows] - rp[0] (R336); a negative one is recorded modulo 2^64 (DESIGN CHOICE, log 22). -/
def rowsResult (s : State) (c : Command) : Eng Nat := do
  let a ← engNum s c (rowPtrAt c c.fmtRows) 4 [(false, rowPtrAt c 0, 4)]
  let b ← engNum s c (rowPtrAt c 0) 4
  pure (truncN ((a : Int) - b) 64)

/-- A unit of `xfmt` with dir 1: a row is cleared, or a row's entries are placed (R336). `count` is the number of entries
placed. A row that is not placed ends the command before the pages of its values and of its dense row are translated (DESIGN
CHOICE, log 22). -/
def toDenseUnit (s : State) (c : Command) : Eng UnitOut := do
  let rows := c.fmtRows
  let eb := c.fmtBytes
  let row := w64 (c.w 1) + w64 (c.unit * c.w 3)
  let last := c.unit + 1 = rows
  if c.phase = 0 then
    pure { writes := [(row, zeros (c.fmtCols * eb))]
           phase := if last then 1 else 0
           unit := if last then 0 else c.unit + 1
           count := 0 }
  else
    let ends := if last then [(false, rowPtrAt c rows, 4), (false, rowPtrAt c 0, 4)] else []
    let lo ← engNum s c (rowPtrAt c c.unit) 4 ((false, rowPtrAt c (c.unit + 1), 4) :: ends)
    let hi ← engNum s c (rowPtrAt c (c.unit + 1)) 4 ends
    if hi < lo then do
      let r ← rowsResult s c
      endWith 3 r
    else
      let n := hi - lo
      let cb ← engKey s c (w64 (c.w 5) + w64 (4 * lo)) (4 * n) ((false, w64 (c.w 6) + w64 (eb * lo), eb * n) :: ends)
      let cols := (chunks 4 n cb).map leNat
      if cols.any (fun k => decide (c.fmtCols ≤ k)) then do
        let r ← rowsResult s c
        endWith 3 r
      else
        let vb ← engRead s c (w64 (c.w 6) + w64 (eb * lo)) (eb * n)
        let r ← if last then rowsResult s c else pure (c.count + n)
        pure (c.after rows r ((cols.zip (chunks eb n vb)).map (fun p => (row + w64 (p.1 * eb), p.2))))

/-- A unit of `xfmt` (R336). -/
def fmtUnit (s : State) (c : Command) : Eng UnitOut :=
  if c.fmtRows = 0 ∨ c.fmtCols = 0 then endWith 0 0
  else if bitOf (c.w 0) 1 then toDenseUnit s c
  else toRowsUnit s c

/-! ### xtile -/

/-- A unit of `xtile`: tile j = unit. `aux` holds the position in the stream (R337). A reference reads the destination's bytes
as they stand in memory (DESIGN CHOICE, log 37). Where slen = 0 the first record runs past it: status 3, not the status 0 of a
command with a zero length (R329; DESIGN CHOICE, log 22). -/
def tileUnit (s : State) (c : Command) : Eng UnitOut := do
  let size := c.tileSize
  let nt := c.w 3
  let dst := w64 (c.w 2)
  let pos := c.aux.headD 0
  if nt = 0 then endWith 0 0
  else if c.w 4 < pos + 8 then endWith 3 nt
  else
    let h ← engNum s c (w64 (c.w 1) + w64 pos) 8
    let ref := fld h 8 32
    if fld h 2 6 ≠ 0 ∨ fld h 40 24 ≠ 0 then endWith 3 nt
    else
      let out (bs : List Byte) (next : Nat) : UnitOut :=
        { c.after nt nt [(dst + w64 (c.unit * size), bs)] with aux := [next] }
      match fld h 0 2 with
      | 0 =>
        if c.w 4 < pos + 8 + size then endWith 3 nt
        else do
          let bs ← engRead s c (w64 (c.w 1) + w64 (pos + 8)) size
          pure (out bs (pos + 8 + size))
      | 1 =>
        if c.unit ≤ ref then endWith 3 nt
        else do
          let bs ← engRead s c (dst + w64 (ref * size)) size
          pure (out bs (pos + 8))
      | 2 => pure (out (zeros size) (pos + 8))
      | _ => endWith 3 nt

/-! ### xput and xget -/

/-- Word k of peer entry p (18_platform.md R465). -/
def State.peerWord (s : State) (p k : Nat) : Nat := (mapGet s.hub.peers (2 * p + k)).toNat

/-- The address-table entry of a peer on a port serves that port: valid, and of the family the port runs (18_platform.md
R462). -/
def addressedOn (s : State) (p port : Nat) : Bool :=
  let e := (s.port port (256 + 4 * fld (s.peerWord p 1) 0 6 + 3)).toNat
  bitOf e 0 && (bitOf e 1 == bitOf (s.port port 1).toNat 1)

/-- The connection with an id that has not failed. A connection is known by its id alone: two peer entries with one id, and a host
that uses such an id, share the connection and its numbers (18_platform.md R465: DESIGN CHOICE, log 19). -/
def findConn (s : State) (id : BitVec 32) : Option Conn := s.hub.conns.find? (fun c => c.id == id && !c.failed)

/-- The connection of a peer, a failed one when it has no other (18_platform.md R465). -/
def peerConn (s : State) (p : Nat) : Option Conn :=
  let id := BitVec.ofNat 32 (fld (s.peerWord p 0) 32 32)
  (findConn s id).or (s.hub.conns.find? (fun c => c.id == id))

/-- The port that carries a peer's packets: its connection's, or the preferred one when it has no connection (18_platform.md
R465, R466). -/
def peerPort (s : State) (p : Nat) : Nat :=
  match peerConn s p with
  | some c => c.port.toNat
  | none => fld (s.peerWord p 0) 0 2

/-- A packet to the peer can be sent: the peer exists and is enabled, its address entry serves the port in use, and its
connection has not failed (18_platform.md R462, R465). -/
def peerOpen (s : State) (p : Nat) : Bool :=
  decide (p < 4096) && bitOf (s.peerWord p 0) 3 && addressedOn s p (peerPort s p) && !(peerConn s p).any (·.failed)

/-- The connection of an id that came after so many others, failed or not. -/
def anyConn (s : State) (id epoch : Nat) : Option Conn :=
  s.hub.conns.find? (fun c => c.id.toNat == id && c.epoch == epoch)

/-- The number of an enabled peer-table entry with a connection id (18_platform.md R465). -/
def peerOf (s : State) (id : BitVec 32) : Option Nat :=
  (upto 0 4096).find? (fun p => bitOf (s.peerWord p 0) 3 && fld (s.peerWord p 0) 32 32 == id.toNat)

/-- A packet can be sent on a connection: it has not failed, and the address entry of its peer, when it is a peer's, serves
the port (18_platform.md R462, R465). -/
def connOpen (s : State) (c : Conn) : Bool := !c.failed && (peerOf s c.id).all (fun k => addressedOn s k c.port.toNat)

/-- A unit of `xput` or `xget`: 4,096 bytes. `aux` holds the number of the packet sent and not yet answered, and its connection
(R338). The local bytes of an `xget` are translated before its packet is sent (R320). A unit that has been answered counts, whatever
has become of the connection, and one that a failed connection has not answered ends the command, whatever connection has followed
it (18_platform.md R465). -/
def remoteUnit (s : State) (c : Command) : Eng UnitOut := do
  let len := c.w 3
  let p := c.w 4
  let off := 4096 * c.unit
  let n := min 4096 (len - off)
  let put := c.fn = 6
  let loc := w64 (c.w 1) + w64 off
  let rem := w64 (c.w 2) + w64 off
  let total := ceilDiv len 4096
  if len = 0 then endWith 0 0
  else match c.aux with
    | [] =>
      if !peerOpen s p then endWith 4 c.count
      else if put then do
        let bs ← engRead s c loc n
        pure { phase := 0, unit := c.unit, count := c.count, aux := [0], send := some ⟨7, rem, bs⟩ }
      else do
        engSpace s c loc n
        pure { phase := 0, unit := c.unit, count := c.count, aux := [0], send := some ⟨8, rem, leBytes n 8⟩ }
    | q :: id =>
      let x := anyConn s (id.headD 0) (id.getD 1 0)
      let wait : Eng UnitOut := if x.any (connOpen s) then fun _ => .error .idle else endWith 4 c.count
      if x.all (fun k => k.refused.contains q) then endWith 4 c.count
      else if put then
        if x.any (fun k => k.pending.any (fun d => d.1.seq.toNat == q)) then wait
        else pure { c.after total (c.count + n) [] with aux := [] }
      else
        match ((x.map (·.replies)).getD []).lookup q with
        | none => wait
        | some bs => pure { c.after total (c.count + n) [(loc, bs)] with aux := [], took := some q }

/-- The unit that comes next (R320). -/
def unitOf (s : State) (c : Command) : Eng UnitOut :=
  match c.fn with
  | 0 => copyUnit s c
  | 1 => convUnit s c
  | 2 => zipUnit s c
  | 3 => expUnit s c
  | 4 => fmtUnit s c
  | 5 => tileUnit s c
  | _ => remoteUnit s c

/-! ### Descriptors -/

/-- The descriptor is one that the command's table admits: no reserved bit set, and every value listed (R329 to R338). -/
def descriptorOk (fn : Nat) (d : List Nat) : Bool :=
  let w (k : Nat) : Nat := d.getD k 0
  let w0 := w 0
  match fn with
  | 0 =>
    let lay := fld w0 2 2
    let pw := fld w0 6 5
    w0 < 2 ^ 12 && fld w0 4 2 != 3 && (if 2 ≤ lay then 1 ≤ pw && pw ≤ 16 else pw == 0) &&
      !(lay == 3 && w 1 % 64 != 0) && !(lay == 2 && w 2 % 64 != 0) && w 6 == 0 && w 7 == 0
  | 1 =>
    let df := fld w0 9 4
    let sk := fld w0 13 2
    w0 < 2 ^ 16 && fld w0 1 3 ≤ 4 && df != 8 && sk != 3 && w 3 < 2 ^ 40 && w 5 < 2 ^ 32 && w 7 == 0 &&
      (sk == 0 || w 5 != 0) &&
      (!bitOf w0 15 || ((df == 5 || df == 6 || df == 7 || df == 15) && sk == 0 && w 3 % 32 == 0))
  | 2 => w0 < 2 ^ 4 && fld w0 1 1 == 0 && w 2 % 64 == 0 && w 3 % 4096 == 0 && w 5 == 0 && w 6 == 0 && w 7 == 0
  | 3 => w0 < 2 && w 3 == 0 && w 4 == 0 && w 5 == 0 && w 6 == 0 && w 7 == 0
  | 4 => w0 < 2 ^ 5 && fld w0 2 2 != 3
  | 5 => w0 < 2 ^ 5 && w 3 < 2 ^ 32 && w 5 == 0 && w 6 == 0 && w 7 == 0
  | _ => w0 < 2 && w 3 < 2 ^ 40 && w 4 < 2 ^ 16 && w 5 == 0 && w 6 == 0 && w 7 == 0

end Sys2Proof.Machine
end

