-- ==== Sys2Proof/Machine/Engines.lean ====
section
/-!
DEFINITION. Engine commands: their issue, their queues, their faults and completions, and the user-level interrupt
(12_engines.md R312 to R328). The queue header and the entries in the activation block show what hardware keeps there;
which command comes next stands in `sched.commands`.
-/

namespace Sys2Proof.Machine

/-- The address of the queue header of context t of the activation block b (17_system.md R453). -/
def queueHeader (b t : Nat) : Nat := b + 64 * t

/-- The capacity exponent of a queue, as published: the queue's hardware reads its header (R318, 11_sync.md R287). -/
def queueCap (s : State) (b t : Nat) : Nat := s.pubNum (queueHeader b t + 40) 8 % 16

/-- The state field of a queue header, as published (R318, 11_sync.md R287). -/
def queueState (s : State) (b t : Nat) : Nat := s.pubNum (queueHeader b t + 16) 8 % 4

/-- The abort bit, as published (R318, R323, 11_sync.md R287). -/
def queueAbort (s : State) (b t : Nat) : Bool := (s.pubByte (queueHeader b t + 16)).getLsbD 2

/-- A reserved bit of a queue header is set, as published (R318, 11_sync.md R287). -/
def headerReserved (s : State) (hdr : Nat) : Bool :=
  s.pubNum (hdr + 16) 8 &&& 0xFFFFFFFFFFFFF0F8 != 0 || fld (s.pubNum (hdr + 40) 8) 4 60 != 0 ||
    fld (s.pubNum (hdr + 56) 8) 8 56 != 0

/-- Set the state field and the context number of a queue header. The abort bit is cleared where hardware acts on it, and is
otherwise left to the kernel, published or not (R318, R323, 11_sync.md R287). Reserved bits become zero, at a `tret` and at a
context save too, where the model takes no fault for them (R318; 00_scope.md R15: DESIGN CHOICE, log 33). -/
def setQueueState (s : State) (b t st : Nat) (clear : Bool) : State :=
  let a := queueHeader b t + 16
  let u := editByte s a (fun old => BitVec.ofNat 8 st + (if clear then 0 else old &&& 4))
  agentNum u (a + 1) 7 t

/-- The phase and the count of completed units that a command's entry shows: `xfmt` counts its phases from 1 (R336); the
blocks of an `xzip` and its final unit are units of one phase, and measuring completes none (R334, log 33). -/
def Command.progress (c : Command) : Nat × Nat :=
  if c.fn = 4 then (c.phase + 1, c.unit)
  else if c.fn = 2 then (0, if c.phase = 0 then 0 else if c.phase = 1 then c.unit else c.w 3 / 4096 + c.unit)
  else (c.phase, c.unit)

/-- Write a command's queue entry (R318). -/
def writeEntry (s : State) (c : Command) : State :=
  let cap := queueCap s c.block c.ctx
  let a := c.block + 0x1000 + c.ctx * 2 ^ cap * 128 + (c.num - 1) % 2 ^ cap * 128
  let bs := c.words.flatMap (fun w => leBytes w.toNat 8) ++ leBytes c.num 8 ++ leBytes (c.record.getD 0).toNat 8 ++
    leBytes c.progress.1 8 ++ leBytes c.progress.2 8 ++ zeros 32
  storeAll agentByte s (upto a 128) bs

/-- Two commands are the same accepted command. -/
def Command.same (c d : Command) : Bool := c.block == d.block && c.ctx == d.ctx && c.num == d.num

/-- Replace an accepted command by its new form, and show its progress in its entry. -/
def putCommand (s : State) (c : Command) : State :=
  writeEntry { s with sched.commands := s.sched.commands.map (fun d => if c.same d then c else d) } c

/-- The activation block of the activation at hand. -/
def State.block (s : State) : Option Nat := s.sched.act.bind (·.block)

/-- The oldest accepted command of context t of the activation block b. -/
def oldest (s : State) (b t : Nat) : Option Command := s.sched.commands.find? (fun c => c.block == b && c.ctx == t)

/-! ### Issue -/

/-- The translations of a command instruction: the descriptor as a load, the record as a store; the failure at the lowest
address is raised (R316, 17_system.md R439). -/
def commandHits (s : State) (sa : Word) (record : Option Word) : Run Hit :=
  let load : Run Hit := do
    let h ← orTrap 3 (translate s .load sa)
    if h.type = .control then violation sa else pure h
  match record with
  | none => load
  | some r => (both load (orTrap 4 (translate s .store r))).map (·.1)

/-- What a command instruction checks, in the order of R316: the state after the descriptor's read, and its words. Where both
addresses are misaligned, eaddr holds sA (DESIGN CHOICE, log 22). -/
def readDescriptor (s : State) (fn : Nat) (sa : Word) (record : Option Word) : Run (State × List Word) := do
  if sa.toNat % 64 ≠ 0 then misaligned sa
  else if record.any (fun r => r.toNat % 32 != 0) then misaligned (record.getD 0)
  else
    let h ← commandHits s sa record
    checkPoison s sa (upto h.loc 64)
    let u := markLeaf (accessOrder s (h.type == .sync) (upto h.loc 64)) h false
    let ws := (upto 0 8).map (fun k => w64 (u.num (h.loc + 8 * k) 8))
    if descriptorOk fn (ws.map (·.toNat)) then pure (u, ws) else rejected sa

/-- The context takes the command (R316, R318). -/
def acceptCommand (s : State) (b t fn : Nat) (sa : Word) (record : Option Word) (ws : List Word) : State × Nat :=
  let n := (s.pubNum (queueHeader b t) 8 + 1) % 2 ^ 64
  let c : Command :=
    { block := b, ctx := t, num := n, fn := fn, desc := sa, words := ws, record := record, level := s.level
      root := s.root.getD 0, phase := 0, unit := 0, fflags := 0, qflags := 0, count := 0, aux := [], ended := none
      shown := false, view := [], behind := s.memory.arrivals.length }
  let s := agentNum s (queueHeader b t) 8 n
  let st := queueState s b t
  let s := setQueueState s b t (if st = 0 then 1 else st) false
  (writeEntry { s with sched.commands := s.sched.commands ++ [c] } c, n)

/-- A command instruction with function fn on context t (R314 to R317). A header with an unlisted cap is rejected (R318), and
so is one with a reserved bit set (00_scope.md R15, log 33). Where several of these hold, the descriptor is rejected before the
header, and the header before the wait for a full queue (R316 to R318 give no order: DESIGN CHOICE, log 22). -/
def issue (fn : Nat) (ok : Bool) (d a b : BitVec 5) (t : BitVec 4) (s : State) : Out :=
  finish s (do
    legalIf ok
    let record := if b = 0 then none else some (s.rd b)
    let r ← readDescriptor s fn (s.rd a) record
    match s.block with
    | none => rejected 0
    | some k =>
      let cap := queueCap r.1 k t.toNat
      let hdr := queueHeader k t.toNat
      if cap < 4 ∨ 12 < cap ∨ headerReserved r.1 hdr then rejected (w64 hdr)
      else if r.1.pubNum (hdr + 8) 8 + 2 ^ cap ≤ r.1.pubNum hdr 8 then pure (waitHere s .queue)
      else
        let u := acceptCommand r.1 k t.toNat fn (s.rd a) record r.2
        pure (retire (u.1.wr d (w64 u.2))))

/-- `xcopy` (R314, R330). -/
def execXcopy (d a b : BitVec 5) (t : BitVec 4) (s : State) : Out := issue 0 (contextOk 0 7 t) d a b t s
/-- `xconv` (R314, R335). -/
def execXconv (d a b : BitVec 5) (t : BitVec 4) (s : State) : Out := issue 1 (contextOk 0 7 t) d a b t s
/-- `xzip` (R314, R334). -/
def execXzip (d a b : BitVec 5) (t : BitVec 4) (s : State) : Out := issue 2 (contextOk 0 7 t) d a b t s
/-- `xexp` (R314, R334). -/
def execXexp (d a b : BitVec 5) (t : BitVec 4) (s : State) : Out := issue 3 (contextOk 0 7 t) d a b t s
/-- `xfmt` (R314, R336). -/
def execXfmt (d a b : BitVec 5) (t : BitVec 4) (s : State) : Out := issue 4 (contextOk 0 7 t) d a b t s
/-- `xtile` (R314, R337). -/
def execXtile (d a b : BitVec 5) (t : BitVec 4) (s : State) : Out := issue 5 (contextOk 4 7 t) d a b t s
/-- `xput` (R314, R338). -/
def execXput (d a b : BitVec 5) (t : BitVec 4) (s : State) : Out := issue 6 (contextOk 8 9 t) d a b t s
/-- `xget` (R314, R338). -/
def execXget (d a b : BitVec 5) (t : BitVec 4) (s : State) : Out := issue 7 (contextOk 8 9 t) d a b t s

/-! ### Running a unit -/

/-- Translate everything a unit writes (R320). -/
def planWrites (s : State) (c : Command) (ws : List (Word × List Byte)) : Eng (List (List Nat × List Byte)) :=
  ws.mapM (fun w => do
    let ls ← engLocs s c true w.1 w.2.length
    pure (ls, w.2))

/-- Translate everything a unit writes: where its bytes go, and the byte whose low nibble it writes (R320, R329). -/
def planUnit (s : State) (c : Command) (u : UnitOut) : Eng (List (List Nat × List Byte) × Option (Nat × Nat)) := do
  let ps ← planWrites s c u.writes
  match u.nibble with
  | none => pure (ps, none)
  | some x => do
    let ls ← engLocs s c true x.1 1
    pure (ps, some (ls.headD 0, x.2))

/-- Write the nibble that a unit writes (R329). -/
def doNibble (s : State) (x : Option (Nat × Nat)) : State :=
  match x with
  | none => s
  | some p => nibbleByte s p.1 p.2

/-- Write what a unit writes, set the reference and dirty bits of its pages, and clear the poison of the lines it fills
(R320, 06_memory.md R150, 18_platform.md R475). -/
def doWrites (s : State) (ps : List (List Nat × List Byte)) (hs : List (Hit × Bool)) : State :=
  let s := hs.foldl (fun s h => markLeaf s h.1 h.2) s
  let s := ps.foldl (fun s p => storeAll agentByte s p.1 p.2) s
  clearPoison s (if s.memory.poison = [] then [] else ps.flatMap (·.1))

/-- Send a packet on a peer's connection, opening the connection when there is none: it takes the next number and stays
pending until it is acknowledged (18_platform.md R464, R465). With it, the packet's number and its connection. -/
def sendToPeer (s : State) (p : Nat) (x : Sending) : State × List Nat :=
  let e := s.peerWord p 0
  let port : BitVec 1 := BitVec.ofNat 1 e
  let fresh : Conn := ⟨BitVec.ofNat 32 (fld e 32 32), port, port, 0, 0, [], [], [], [], false, false, 0⟩
  let k := (peerConn s p).getD fresh
  let n := k.sent + 1
  let pkt : Packet := ⟨x.kind, k.id, n, k.got, x.addr, x.data⟩
  let k' := { k with
    sent := n
    pending := k.pending ++ [(pkt, 0)]
    gets := if x.kind = 8 then k.gets ++ [(n.toNat, x.addr, leNat x.data)] else k.gets }
  let s := { s with hub.conns := if (peerConn s p).isSome then s.hub.conns.map (fun c => if c.same k then k' else c)
                                 else s.hub.conns ++ [k'] }
  (sendPacket s k.port.toNat pkt, [n.toNat, k.id.toNat, k.epoch])

/-- The reply to the GET with number q on a connection has been taken. -/
def takeReply (s : State) (id epoch q : Nat) : State :=
  { s with hub.conns := s.hub.conns.map (fun c =>
      if c.id.toNat = id ∧ c.epoch = epoch then { c with replies := c.replies.filter (fun r => r.1 != q) } else c) }

/-- The transport's part of a unit (R338). -/
def doTransport (s : State) (c : Command) (u : UnitOut) : State × List Nat :=
  let s := match u.took with
    | none => s
    | some q => takeReply s (c.aux.getD 1 0) (c.aux.getD 2 0) q
  match u.send with
  | none => (s, u.aux)
  | some x => sendToPeer s (c.w 4) x

/-- Perform the next unit of a command: the new state, or why it is not performed (R320). Poison that it has read
is raised once all its pages are translated. When several of its pages fail, the failure reported is the first in the order in
which the unit reads and then writes them (DESIGN CHOICE, log 37). -/
def performUnit (s : State) (c : Command) : Except Halt State := do
  let r ← ((do
    let u ← unitOf s c
    let ps ← planUnit s c u
    engSure s c []
    pure (u, ps)) : Eng _).run {}
  let u := r.1.1
  let t := doTransport (doNibble (doWrites s r.1.2.1 r.2.used) r.1.2.2) c u
  let c' := { (t.1.sched.commands.find? c.same).getD c with
    phase := u.phase
    unit := u.unit
    count := u.count
    aux := t.2
    fflags := c.fflags ||| u.f
    qflags := c.qflags ||| u.q
    ended := u.ended }
  pure (putCommand t.1 c')

/-- The context stops with state 3, and the fault is pending (R321). -/
def stopContext (s : State) (c : Command) (f : EngineFault) : State :=
  let hdr := queueHeader c.block c.ctx
  let s := setQueueState s c.block c.ctx 3 false
  let s := agentNum (agentNum s (hdr + 24) 8 f.addr.toNat) (hdr + 32) 8 c.num
  { s with ctl.engPend := s.ctl.engPend ++ [f] }

/-- The reference bits of the pages that a unit has read before it was given up; it has written none (06_memory.md R150). -/
def markUsed (s : State) (hs : List (Hit × Bool)) : State :=
  (hs.filter (fun h => !h.2)).foldl (fun s h => markLeaf s h.1 false) s

/-- A unit of `xget` whose bytes cannot be written keeps nothing of the answer: restarted, it reads its source again (R322). -/
def forgetAnswer (s : State) (c : Command) : State :=
  if c.fn ≠ 7 then s
  else
    let s := match c.aux with
      | [] => s
      | q :: id => takeReply s (id.headD 0) (id.getD 1 0) q
    { s with sched.commands := s.sched.commands.map (fun d => if c.same d then { d with aux := [] } else d) }

/-- A unit that is not performed: the context faults, the command ends, or nothing happens (R321, R324). -/
def haltUnit (s : State) (c : Command) : Halt → State
  | .fault a k w hs => stopContext (forgetAnswer (markUsed s hs) c) c ⟨c.ctx, a, k, w, false⟩
  | .poison sub hs => stopContext (markUsed s hs) c ⟨c.ctx, 0, sub, false, true⟩
  | .status n k hs => putCommand (markUsed s hs) { c with ended := some n, count := k }
  | .idle => s

/-! ### Completion -/

/-- A context without commands is idle (R318). -/
def settleContext (s : State) (b t : Nat) : State :=
  if (oldest s b t).isNone ∧ queueState s b t = 1 then setQueueState s b t 0 false else s

/-- A command that needs no more is forgotten. -/
def dropCommand (s : State) (c : Command) : State :=
  settleContext { s with sched.commands := s.sched.commands.filter (fun d => !c.same d) } c.block c.ctx

/-- The result a record carries (R325): the count that the command's rule defines, whatever the status; of a command that is
aborted, the count of the units done (log 18). -/
def Command.result (c : Command) : Nat :=
  if c.fn = 1 then c.w 3 else if c.fn = 5 then c.w 3
  else if c.fn = 2 then max c.count (64 + 8 * (c.w 3 / 4096))
  else c.count

/-- The completion record of a command (R325). -/
def recordBytes (c : Command) : List Byte :=
  let w := c.ended.getD 0 + c.ctx * 2 ^ 8 + c.fn * 2 ^ 12 + c.fflags.toNat * 2 ^ 32 + c.qflags.toNat * 2 ^ 37
  leBytes c.num 8 ++ leBytes w 8 ++ leBytes c.result 8 ++ leBytes c.desc.toNat 8

/-- Write the completion record, after the counter shows the number; a failure is a unit's fault (R321, R325). -/
def writeRecord (s : State) (c : Command) : State :=
  match c.record with
  | none => dropCommand s c
  | some va =>
    match (planWrites s c [(va, recordBytes c)]).run {} with
    | .error h => haltUnit s c h
    | .ok r => dropCommand (doWrites s r.1 r.2.used) c

/-- The counter shows an ended command, its signal is raised, and its record is written (R299, R302, R324 to R326). -/
def completeCommand (s : State) (c : Command) : State :=
  let hdr := queueHeader c.block c.ctx
  let st := c.ended.getD 0
  let s := agentNum s (hdr + 8) 8 c.num
  let s := if st = 0 then s else agentNum (agentNum s (hdr + 48) 8 c.num) (hdr + 56) 8 st
  let s := if bitOf (c.w 0) 0 then { s with ctl.ustat := s.ctl.ustat ||| BitVec.ofNat 17 (2 ^ c.ctx) } else s
  let c := { c with shown := true }
  writeRecord (putCommand s c) c

/-- The command has sent the packet of a unit that is not yet answered (R338). -/
def Command.inFlight (c : Command) : Bool := 6 ≤ c.fn && !c.aux.isEmpty && c.ended.isNone

/-- A running context of the activation is inside a unit: a context save stops it at the end of the unit (R313, R320). -/
def unitInFlight (s : State) : Bool :=
  match s.block with
  | none => false
  | some b => (upto 0 10).any (fun t => queueState s b t == 1 && (oldest s b t).any Command.inFlight)

/-- The core waits to save a context (R313). -/
def State.savesContext (s : State) : Bool := s.wait == some .save || s.wait == some .park

/-- The command whose unit or completion context t of the activation comes to: the context must run, and the `vfence`
arrivals older than the command must have been performed (R313, R318, 11_sync.md R301). While a context save waits for a unit to
end, no other unit begins (R313). -/
def runnable (s : State) (t : Nat) : Option Command :=
  s.block.bind (fun b => if queueState s b t = 1 then
    (oldest s b t).filter (fun c => c.behind == 0 && (!s.savesContext || c.inFlight)) else none)

/-- ENGINE_UNIT: the context performs one unit, or writes the record that an earlier fault held back (R320 to R322). -/
def execEngineUnit (t : BitVec 4) (s : State) : Out :=
  match runnable s t.toNat with
  | none => .next s
  | some c =>
    if c.shown then .next (writeRecord s c)
    else if c.ended.isSome then .next s
    else match performUnit s c with
      | .ok u => .next u
      | .error h => .next (haltUnit s c h)

/-- COMMAND_COMPLETE: the context's command that has ended counts as complete (R324). -/
def execCommandComplete (t : BitVec 4) (s : State) : Out :=
  match runnable s t.toNat with
  | none => .next s
  | some c =>
    if c.shown then .next (writeRecord s c)
    else if c.ended.isSome then .next (completeCommand s c)
    else match performUnit s c with
      | .error (.status n k hs) => .next (completeCommand (markUsed s hs) { c with ended := some n, count := k })
      | _ => .next s

/-- An asynchronous engine fault may be taken: at program level, and not right after the `tret` that led there (R321,
17_system.md R445). -/
def State.engineBoundary (s : State) : Bool := s.level == .program && s.atBoundary && s.commit != some .ret

/-- The trap of a context's fault (R321, 18_platform.md R475). -/
def EngineFault.trap (f : EngineFault) : Trap :=
  if f.poison then { code := 11, sub := f.kind }
  else { code := 10, ctx := f.ctx, eaddr := f.addr, eremain := w64 (f.kind * 2 ^ 20 + bNat f.write * 2 ^ 23) }

/-- The pending fault of the activation's contexts that is taken next: an integrity error comes before an engine fault, and
the oldest of its kind first (17_system.md R439, log 15). -/
def nextFault (l : List EngineFault) : Option EngineFault := (l.find? (·.poison)).or l.head?

/-- ENGINE_FAULT: the activation takes a pending fault of its contexts (R321, 17_system.md R439, R445). -/
def execEngineFault (s : State) : Out :=
  match nextFault s.ctl.engPend with
  | none => .next s
  | some f =>
    if s.engineBoundary then .next (takeTrap { s with ctl.engPend := s.ctl.engPend.erase f } f.trap) else .next s

/-- A stopped context goes on from where it stopped (R313). -/
def resumeContext (s : State) (b t : Nat) : State :=
  if queueState s b t = 2 then settleContext (setQueueState s b t 1 false) b t else s

/-- A context at a `tret`: a faulted one starts again, unless abort is set, which ends the faulted command with status 1; a
stopped one starts again (R322, R323, 17_system.md R448). A faulted context whose own fault is still pending starts again,
and its fault is forgotten, only at the `tret` from an engine-fault trap, which restarts each (`each`; log 15). An abort of
a command whose record write faulted drops the record, and the status stays what it was (DESIGN CHOICE, log 37). A reserved
bit of the header takes no fault here and becomes zero (DESIGN CHOICE, log 33). -/
def restartContext (s : State) (each : Bool) (b t : Nat) : State :=
  let st := queueState s b t
  if st = 2 then resumeContext s b t
  else if st = 3 ∧ (each ∨ !(s.ctl.engPend.any (fun f => f.ctx == t))) then
    let abort := queueAbort s b t
    let u := setQueueState { s with ctl.engPend := s.ctl.engPend.filter (fun f => f.ctx != t) } b t 1 abort
    match oldest u b t with
    | none => settleContext u b t
    | some c =>
      if !abort then u
      else if c.shown then dropCommand u c
      else putCommand u { c with ended := some 1 }
  else s

/-- Every context of the activation at a `tret` (R322, 17_system.md R448). -/
def restartContexts (s : State) (each : Bool) : State :=
  match s.block with
  | none => s
  | some b => (upto 0 10).foldl (fun s t => restartContext s each b t) s

/-- Every stopped context of the activation goes on, when a save was not needed (R313, 13_work.md R355). -/
def resumeContexts (s : State) : State :=
  match s.block with
  | none => s
  | some b => (upto 0 10).foldl (fun s t => resumeContext s b t) s

/-- A context save stops every running context at a unit boundary (R313). -/
def stopContexts (s : State) : State :=
  match s.block with
  | none => s
  | some b => (upto 0 10).foldl (fun s t =>
      if queueState s b t = 1 then setQueueState s b t (if (oldest s b t).isSome then 2 else 0) false else s) s

/-! ### User-level interrupts -/

/-- An `mmac` has stopped at a row boundary and is the next instruction (10_matrix.md R261, R267). -/
def mmacInProgress (s : State) : Bool :=
  fld s.lanes.acst.toNat 16 5 != 0 && (match fetchWord s s.pc with
    | .ok r => isMmac r.1
    | .error _ => false)

/-- The conditions for the delivery of a user-level interrupt, at an instruction boundary or a waiting instruction (R327): never
while a frame is active, be it suspended (02_encoding.md R59). -/
def userInterruptDue (s : State) : Bool :=
  s.atBoundary && !mmacInProgress s && s.ctl.uvec.getLsbD 0 && !s.inHandler && (s.ctl.ustat &&& 0x7FF) != 0 && s.level == .program && s.mode == .running &&
    !s.frame.live && !s.strip.live && s.ctl.preReq.isNone

/-- USER_LEVEL_INTERRUPT: a pending signal is delivered (R327). The low two bits of `uepc` read zero (R326). -/
def execUserLevelInterrupt (s : State) : Out :=
  if userInterruptDue s then
    .next { s with
      ctl.uepc := s.pc &&& ~~~3#64
      ctl.ustat := s.ctl.ustat ||| 0x10000
      pc := s.ctl.uvec &&& ~~~3#64
      wait := none }
  else .next s

/-- `uret` (R328). -/
def execUret (s : State) : Out :=
  finish s (do
    legalIf (s.level == .program && s.inHandler && !s.atLoopEnd)
    pure (goto { s with ctl.ustat := s.ctl.ustat &&& 0xFFFF } s.ctl.uepc false))

end Sys2Proof.Machine
end

