-- ==== Sys2Proof/Machine/Frame.lean ====
section
/-!
DEFINITION. Repeat frames and strip threads (02_encoding.md R54 to R60; 04_control.md R109 to R115).
-/

namespace Sys2Proof.Machine

/-- The `rpt` word of its fields (R54). -/
def rptWord (l : BitVec 4) (n : BitVec 8) (g : BitVec 3) (st : BitVec 2) (r : BitVec 5) : Nat :=
  0x7F + l.toNat * 2 ^ 10 + n.toNat * 2 ^ 14 + g.toNat * 2 ^ 22 + st.toNat * 2 ^ 25 + r.toNat * 2 ^ 27

/-- The place of an `rpt` with k body words is legal (R55). -/
def rptPlaceOk (s : State) (k : Nat) : Bool :=
  s.loops.all (fun e => !(decide (s.pc.toNat ≤ e.last.toNat) && decide (e.last.toNat ≤ s.pc.toNat + 4 * k))) &&
    !s.inStrip && !s.inFrame && !(s.level != .program && s.frame.live)

/-- `rpt` (R54 to R57): capture, whatever the count, check, and start replay 0, or skip the body when the count is 0. -/
def execRpt (l : BitVec 4) (n : BitVec 8) (g : BitVec 3) (st : BitVec 2) (r : BitVec 5) (s : State) : Out :=
  finish s (do
    let k := l.toNat + 1
    let count := if r = 0 then n.toNat + 1 else (s.rd r).toNat
    legalIf (stepOk st && countOk n r)
    let ws ← fetchWords s (s.pc + 4) k
    legalIf (rptPlaceOk s k && decide (count ≤ 65535) && (firstBad s 0 0 0 (s.pc + 4) ws.1).isNone)
    checkSound ws.1
    if count = 0 then pure (goto ws.2 (s.pc + w64 (4 * (k + 1))) false)
    else
      let f : Frame := ⟨true, 0, BitVec.ofNat 16 count, 0, true, s.level, 0, BitVec.ofNat 32 (rptWord l n g st r), asBuffer ws.1⟩
      pure (goto { ws.2 with frame := f } (s.pc + 4) false))

/-! ### Strip threads -/

/-- The length of thread t (04_control.md R111). -/
def threadLength (s : State) (t : Nat) : Nat := min 128 (s.lanes.vl.toNat - 128 * t)

/-- The positions at `sfork`: a thread without elements has arrived (04_control.md R111). -/
def startPositions (s : State) (l : Nat) : SMap 8 :=
  mapBuild (fun t => if threadLength s t = 0 then BitVec.ofNat 8 l else 0) 0 256

/-- Strip-thread state at the start (04_control.md R109 to R111, R115): the threads read the scalar registers, NR and the
width registers as they stand now. -/
def stripStart (s : State) (ws : List Nat) : Strip :=
  let l := ws.length
  ⟨true, BitVec.ofNat 8 l, startPositions s l, true, s.level, 0, mapBuild s.reg 0 32, s.lanes.vcfg, s.lanes.ewa, s.lanes.ewb,
    s.lanes.ewd, ws.map (BitVec.ofNat 32)⟩

/-- `sfork` (04_control.md R109): the program counter stays at its address while the threads run (R115). An `sjoin` directly
after it is accepted: every thread has arrived (log 32). Of a body with a poisoned word, what its earlier words and the place
make illegal comes first, and then the integrity error (17_system.md R439, 18_platform.md R475). -/
def execSfork (s : State) : Out :=
  finish s (do
    legalIf (!s.strip.live && !s.atLoopEnd)
    let b ← fetchBody s (s.pc + 4) 256
    let ws := b.1.1
    match b.1.2 with
    | .missing => illegal
    | .poisoned e => do
      legalIf (ws.all (fun w => stripWordOk w && bodyWordNow s w) && stripPlaceOk s s.pc ws.length)
      let _ ← e
      pure s
    | .join =>
      let l := ws.length
      legalIf ((firstStripBad s l s.pc 0 ws).isNone && stripPlaceOk s s.pc l)
      pure { counted b.2 with strip := stripStart s ws, commit := some .plain })

/-- The bits of a mask for the thread in hand, for its elements below its vector length (04_control.md R112). -/
def threadBits (s : State) (m : BitVec 3) : List Bool :=
  (upto s.window.lo s.window.n).map (fun i => s.maskBit m.toNat i)

/-- The test of `sbra` and `sloop` (04_control.md R112). -/
def stripTest (s : State) (m : BitVec 3) (c : BitVec 2) : Bool :=
  let bs := threadBits s m
  if c = 0 then bs.any id else if c = 1 then !bs.any id else bs.all id

/-- A strip branch: legal only in strip-thread mode (04_control.md R112). Every word that a thread executes counts in `instret`,
for each thread, and no `sjoin` counts (03_scalar.md R85: DESIGN CHOICE, log 37). -/
def stripBranch (m : BitVec 3) (c : BitVec 2) (o : BitVec 18) (s : State) : Out :=
  finish s (do
    legalIf (s.inStrip && conditionOk c)
    let i := s.stripPos s.thread
    pure (stripGoto (counted s) (if stripTest s m c then ((i : Int) + o.toInt).toNat else i + 1)))

/-- `sbra` (04_control.md R112). -/
def execSbra (m : BitVec 3) (c : BitVec 2) (o : BitVec 18) (s : State) : Out := stripBranch m c o s
/-- `sloop` (04_control.md R112). -/
def execSloop (m : BitVec 3) (c : BitVec 2) (o : BitVec 18) (s : State) : Out := stripBranch m c o s

/-- The `sjoin` of the strip threads stands at the E of the top loop entry, where R98 allows no `sjoin` (04_control.md). -/
def State.joinAtLoopEnd (s : State) : Bool :=
  match s.loops with
  | [] => false
  | e :: _ => e.last == s.pc + w64 (4 * (s.strip.len.toNat + 1))

/-- `sjoin` (04_control.md R113): the thread in hand has arrived; illegal outside strip-thread mode (R112) and at the E of the
top loop entry (R98). It counts nothing in `instret`, for the thread or at the end of the mode (DESIGN CHOICE, log 37). -/
def execSjoin (s : State) : Out :=
  finish s (do
    legalIf (s.inStrip && !s.joinAtLoopEnd)
    pure (stripGoto s s.strip.len.toNat))

/-- The end of strip-thread mode, when every thread has arrived: execution resumes at the `sjoin`, at a + 4 (L + 1) (04_control.md
R113), which completes (R114), so that the next word is the one after it, as the example of R116 shows (DEDUCED, log 13). An `sjoin` at the E of the top loop entry is illegal (R98). The `sjoin` counts nothing in
`instret` (DESIGN CHOICE, log 37). Before that it changes nothing. -/
def execStripThreadModeEnd (s : State) : Out :=
  if s.inStrip && s.thread == 256 then
    if s.joinAtLoopEnd then finish s illegal
    else .next { s with strip := Strip.none, pc := s.pc + w64 (4 * (s.strip.len.toNat + 2)), commit := some .plain }
  else .next s

end Sys2Proof.Machine
end

