-- ==== Sys2Proof/Machine/Sync.lean ====
section
/-!
DEFINITION. Publication, acquisition, barriers and timelines (11_sync.md R292 to R300, R310; 06_memory.md R480). The core
never reads a stale byte, so an acquisition changes nothing but what waits for it.
-/

namespace Sys2Proof.Machine

/-- An acquisition completes when the publications begun before it and the queued arrivals, synchronising reads, are
complete (R293, R296). -/
def acquire (s : State) : State := syncOrder s

/-- `pub` (R293). -/
def execPub (c : BitVec 2) (s : State) : Out :=
  finish s (do
    legalIf (scopeOk c)
    pure (retire (beginPublish s c.toNat)))
/-- `acq` (R293). -/
def execAcq (c : BitVec 2) (s : State) : Out :=
  finish s (do
    legalIf (scopeOk c)
    pure (retire (acquire s)))
/-- `phase` (R293). -/
def execPhase (c : BitVec 2) (s : State) : Out :=
  finish s (do
    legalIf (scopeOk c)
    pure (retire (acquire (beginPublish s c.toNat))))
/-- `fence` (R293): every earlier access is complete, the queued arrivals included. -/
def execFence (c : BitVec 2) (s : State) : Out :=
  finish s (do
    legalIf (scopeOk c)
    pure (retire (syncOrder (beginPublish s c.toNat))))

/-- An object of a hardware structure lies on a normal or synchronisation page, not in the window (06_memory.md R480). -/
def objectHit (s : State) (k : Access) (pageCode : Nat) (va : Word) : Run Hit := do
  if windowBase ≤ va.toNat then violation va
  else
    let h ← orTrap pageCode (translate s k va)
    if h.type = .control then violation va else pure h

/-- The translation of a barrier object (R295 to R297). -/
def barrierHit (s : State) (k : Access) (pageCode : Nat) (va : Word) : Run Hit :=
  if va.toNat % 64 ≠ 0 then misaligned va else objectHit s k pageCode va

/-- `vfence` (R296): publish, and queue the arrival. -/
def execVfence (a : BitVec 5) (c : BitVec 2) (s : State) : Out :=
  finish s (do
    legalIf (scopeOk c)
    let h ← barrierHit s .atomic 4 (s.rd a)
    checkPoison s (s.rd a) (upto h.loc 8)
    let u := beginPublish (markLeaf s h true) c.toNat
    pure (retire { u with memory.arrivals := u.memory.arrivals ++ [⟨h.loc, c.toNat⟩] }))

/-- `bar` (R297): a round not yet reached waits, and the instruction executes again from its start (R310). -/
def execBar (a b : BitVec 5) (c : BitVec 2) (s : State) : Out :=
  finish s (do
    legalIf (scopeOk c)
    let h ← barrierHit s .load 3 (s.rd a)
    checkPoison s (s.rd a) (upto h.loc 16)
    let u := syncOrder (beginPublish (markLeaf s h false) c.toNat)
    let arrived := u.num h.loc 8
    let count := u.num (h.loc + 8) 8
    if count = 0 ∨ 2 ^ 32 ≤ count then violation (s.rd a)
    else if count * (s.rd b).toNat ≤ arrived then pure (retire (acquire u))
    else pure (waitHere u .bar))

/-- `tlwait` (R300). -/
def execTlwait (n : BitVec 4) (b : BitVec 5) (s : State) : Out :=
  finish s (
    if (s.rd b).toNat ≤ (s.tc n.toNat).toNat then pure (retire (syncOrder s))
    else pure (waitHere s .timeline))
/-- `tlpoll` (R300): a passing one observes the counter and acquires. -/
def execTlpoll (d : BitVec 5) (n : BitVec 4) (b : BitVec 5) (s : State) : Out :=
  finish s (
    if (s.rd b).toNat ≤ (s.tc n.toNat).toNat then pure (retire ((syncOrder s).wr d 1))
    else pure (retire (s.wr d 0)))
/-- `tlrd` (R300). -/
def execTlrd (d : BitVec 5) (n : BitVec 4) (s : State) : Out := finish s (pure (retire (s.wr d (s.tc n.toNat))))

/-- PUBLICATION: the publications begun are complete (R293, R294). -/
def execPublication (s : State) : Out := .next (endPublish s)

/-- No publication is under way (R296). -/
def publicationDone (s : State) : Bool :=
  s.memory.pubq == [] && s.memory.pubCore == 0 && s.memory.pubDie == 0 && s.memory.pubPkg == 0

/-- The pending-byte counter of a scope (R294). -/
def pendingOf (s : State) (scope : Nat) : BitVec 48 :=
  if scope = 0 then s.memory.pendCore else if scope = 1 then s.memory.pendDie else s.memory.pendPkg

/-- An arrival is performed now: the publication before it is complete and its scope's counter is zero (R296). -/
def arrivalDue (s : State) (x : Arrival) : Bool := publicationDone s && pendingOf s x.scope == 0

/-- ARRIVAL: the oldest queued arrival is performed, when it is due (R296). -/
def execArrival (s : State) : Out :=
  match s.memory.arrivals with
  | [] => .next s
  | x :: t => if arrivalDue s x then .next { arrive s x with memory.arrivals := t } else .next s

/-- Execute the waiting instruction at the pc again, when its word is one that f reads (R310). -/
def retryWord (s : State) (f : Nat → Option Out) : Out :=
  match fetchWord s s.pc with
  | .error _ => .next { s with wait := none }
  | .ok r => (f r.1).getD (.next { s with wait := none })

/-- BAR_PASS: a waiting `bar` reads its object again (R297, R310). -/
def execBarPass (s : State) : Out :=
  if s.wait = some .bar then
    retryWord s (fun w =>
      if fld w 0 6 = 0x11 ∧ fld w 21 5 = 5 then
        some (execBar (BitVec.ofNat 5 (w / 2 ^ 11)) (BitVec.ofNat 5 (w / 2 ^ 16)) (BitVec.ofNat 2 (w / 2 ^ 26)) s)
      else none)
  else .next s

/-- TLWAIT_PASS: a waiting `tlwait` reads its counter again (R300, R310). -/
def execTlwaitPass (s : State) : Out :=
  if s.wait = some .timeline then
    retryWord s (fun w =>
      if fld w 0 6 = 0x11 ∧ fld w 21 5 = 6 then
        some (execTlwait (BitVec.ofNat 4 (w / 2 ^ 11)) (BitVec.ofNat 5 (w / 2 ^ 16)) s)
      else none)
  else .next s

end Sys2Proof.Machine
end

