-- ==== Sys2Proof/Machine/Kv.lean ====
section
/-!
DEFINITION. The KV cache and the Barchan engine (16_kv.md R405 to R436, 06_memory.md R480).
-/

namespace Sys2Proof.Machine

/-! ### What Barchan reads and writes -/

/-- Why an operation is not performed as its rule says: it ends with a status (R416), an access fails (R415), or it waits
for the pager (R435). -/
inductive KvHalt where
  | status (v : Int)
  | failed
  | pager
  deriving DecidableEq, Repr

/-- The computation of an operation. What it wrote is discarded when it halts: nothing changes then (R415, R416), but that the
translations it read through, which the list collects, are marked (06_memory.md R150). -/
abbrev Kvm (α : Type) := StateT State (ExceptT KvHalt (StateM (List Hit))) α

/-- What an operation gives in a state: its value and the state after it, or why it halts. -/
def Kvm.result {α : Type} (m : Kvm α) (s : State) : Except KvHalt (α × State) := ((m s).run []).1

/-- The translations through which an operation has read. -/
def Kvm.reads {α : Type} (m : Kvm α) (s : State) : List Hit := ((m s).run []).2

/-- The byte an operation reads at a location, with what is hidden from it by now (R415, 11_sync.md R301). -/
def kvByte (s : State) (op : BarOp) (loc : Nat) : Byte :=
  s.seenByte ((s.kv.barOps.find? (fun o => o.num == op.num)).getD op).view loc

/-- The reference bits of what an operation that halts has read (06_memory.md R150). An entry that the operation had made
valid, and that is not valid once its effects are discarded, is left as it is, by what the operation reads (11_sync.md R287). -/
def keepReads (s : State) (op : BarOp) (hs : List Hit) : State :=
  hs.foldl (fun s h => if h.leaf.all (fun p => (kvByte s op p).getLsbD 0) then markLeaf s h false else s) s

/-- The state after a computation of which, when it halts, nothing remains but the marks of what it read. -/
def Kvm.attempt {α : Type} (m : Kvm α) (op : BarOp) (s : State) : State :=
  match m.result s with
  | .ok (_, t) => t
  | .error _ => keepReads s op (m.reads s)

/-- End without an effect. -/
def kvStop {α : Type} (h : KvHalt) : Kvm α := fun _ => throw h

/-- Go on without a value, and with nothing done but the marks of what it read, when a computation fails to reach its
bytes. -/
def kvTry {α : Type} (op : BarOp) (m : Kvm α) : Kvm (Option α) := fun s => ExceptT.mk (fun l =>
  match (m s).run l with
  | (.ok (a, t), l') => (.ok (some a, t), l')
  | (.error .failed, l') => (.ok (none, keepReads s op (l'.drop l.length)), l')
  | (.error h, l') => (.error h, l'))

/-- End with a status unless a condition holds. -/
def kvNeed (c : Bool) (v : Int) : Kvm Unit := if c then pure () else kvStop (.status v)

/-- The number an operation reads in n bytes at a location. -/
def kvSeen (s : State) (op : BarOp) (loc n : Nat) : Nat := leNat ((upto loc n).map (kvByte s op))

/-- Translate one piece for Barchan: never the window or a control page (R415, 06_memory.md R480). -/
def kvHit (op : BarOp) (write : Bool) (va : Word) : Kvm Hit := do
  let s ← get
  if windowBase ≤ va.toNat then kvStop .failed
  else match translateAt s (kvByte s op) op.root op.level (if write then .store else .load) va with
    | .error _ => kvStop .failed
    | .ok h =>
      if h.type = .control then kvStop .failed
      else do
        set (markLeaf s h write)
        pure h

/-- Translate n bytes at va: their locations. -/
def kvLocs (op : BarOp) (write : Bool) (va : Word) (n : Nat) : Kvm (List Nat) := do
  let hs ← (pageRuns (n / 65536 + 2) va n).mapM (fun p => do
    let h ← kvHit op write p.1
    pure (h, p.2))
  if write then pure () else modifyThe (List Hit) (fun l => l ++ hs.map (·.1))
  pure (hs.flatMap (fun h => upto h.1.loc h.2))

/-- Read n bytes at va; a poisoned byte is a memory fault (18_platform.md R475). -/
def kvRead (op : BarOp) (va : Word) (n : Nat) : Kvm (List Byte) := do
  let ls ← kvLocs op false va n
  let s ← get
  if ls.any (fun l => (poisonAt s l).isSome) then kvStop .failed else pure (ls.map (kvByte s op))

/-- Read a number of n bytes. -/
def kvNum (op : BarOp) (va : Word) (n : Nat) : Kvm Nat := do
  let bs ← kvRead op va n
  pure (leNat bs)

/-- Write bytes at va, published at `pkg` (R417). -/
def kvStore (op : BarOp) (va : Word) (bs : List Byte) : Kvm Unit := do
  let ls ← kvLocs op true va bs.length
  modify (fun s => clearPoison (storeAll agentByte s ls bs) (if s.memory.poison = [] then [] else ls))

/-- Write a number of n bytes. -/
def kvPut (op : BarOp) (va : Word) (n v : Nat) : Kvm Unit := kvStore op va (leBytes v n)

/-! ### Structures -/

/-- A cache descriptor: its address and its sixteen words (R405), and the layer groups, base and block size, by which an
operation knows the units of its pools (R406, R432). -/
structure Cache where
  va : Word
  words : List Nat
  groups : List (Nat × Nat) := []
  deriving DecidableEq, Repr

/-- Word k of the descriptor. -/
def Cache.w (k : Cache) (i : Nat) : Nat := k.words.getD i 0
/-- Block ids 0 to nids − 1 (R405). -/
def Cache.nids (k : Cache) : Nat := fld (k.w 0) 0 25
/-- Layer groups (R405). -/
def Cache.ng (k : Cache) : Nat := fld (k.w 0) 25 6 + 1
/-- Nodes in the pool (R405). -/
def Cache.ncap (k : Cache) : Nat := fld (k.w 6) 0 32
/-- The root of the address space of the pools (R405). -/
def Cache.root (k : Cache) : Nat := fld (k.w 13) 16 30 * 2 ^ 16
/-- The address of the block word of an id (R407). -/
def Cache.blockAddr (k : Cache) (b : Nat) : Word := w64 (k.w 2 + 8 * b)
/-- The address of a node (R411). -/
def Cache.nodeAddr (k : Cache) (i : Nat) : Word := w64 (k.w 4 + 64 * i)
/-- The address of the key of a node (R411). -/
def Cache.keyAddr (k : Cache) (i : Nat) : Word := w64 (k.w 5 + 256 * i)

/-- A reserved bit of the descriptor is set (R405). -/
def Cache.reserved (k : Cache) : Bool :=
  fld (k.w 0) 31 33 != 0 || fld (k.w 3) 25 7 != 0 || fld (k.w 3) 57 7 != 0 || fld (k.w 8) 25 7 != 0 ||
    fld (k.w 10) 32 32 != 0 || fld (k.w 12) 32 32 != 0 || fld (k.w 13) 46 18 != 0 || k.w 14 != 0 || k.w 15 != 0

/-- The descriptor is valid: nids and ncap in their ranges, every address aligned, every reserved bit zero (R405). -/
def Cache.ok (k : Cache) : Bool :=
  !k.reserved && 1 ≤ k.nids && k.nids ≤ 2 ^ 24 && k.w 1 % 16 == 0 && k.w 2 % 8 == 0 && k.w 4 % 64 == 0 && k.w 5 % 64 == 0 &&
    k.ncap != 0 && k.w 7 % 8 == 0

/-- The words of n bytes, eight bytes each. -/
def kvWords (n : Nat) (bs : List Byte) : List Nat := (chunks 8 (n / 8) bs).map leNat

/-- Read a cache descriptor; an invalid one gives −3 (R416). -/
def readCache (op : BarOp) (va : Word) : Kvm Cache := do
  kvNeed (va.toNat % 64 == 0) (-3)
  let bs ← kvRead op va 128
  let k : Cache := { va := va, words := kvWords 128 bs }
  kvNeed k.ok (-3)
  pure k

/-- A sequence descriptor: its address and its eight words (R409). -/
structure Sequence where
  va : Word
  words : List Nat
  deriving DecidableEq, Repr

/-- Word k of the descriptor. -/
def Sequence.w (q : Sequence) (i : Nat) : Nat := q.words.getD i 0
/-- The cache descriptor's address (R409). -/
def Sequence.cache (q : Sequence) : Word := w64 (q.w 0)
/-- Entries the table can hold (R409). -/
def Sequence.bcap (q : Sequence) : Nat := fld (q.w 2) 0 32
/-- Entries in use (R409). -/
def Sequence.nb (q : Sequence) : Nat := fld (q.w 2) 32 32
/-- Committed length in tokens (R409). -/
def Sequence.lc (q : Sequence) : Nat := fld (q.w 3) 0 32
/-- Tentative entries (R409). -/
def Sequence.nt (q : Sequence) : Nat := fld (q.w 3) 32 32
/-- The score table (R409). -/
def Sequence.score (q : Sequence) : Nat := q.w 4
/-- Entries of the score table (R409). -/
def Sequence.scap (q : Sequence) : Nat := fld (q.w 5) 0 32
/-- The first append error (R409). -/
def Sequence.ecode (q : Sequence) : Nat := fld (q.w 6) 0 8
/-- The address of table entry j (R409). -/
def Sequence.entryAddr (q : Sequence) (j : Nat) : Word := w64 (q.w 1 + 4 * j)

/-- A reserved bit of the descriptor is set (R409). -/
def Sequence.reserved (q : Sequence) : Bool := fld (q.w 5) 32 32 != 0 || fld (q.w 6) 8 56 != 0

/-- The descriptor is valid (R409). -/
def Sequence.ok (q : Sequence) : Bool :=
  q.nt ≤ q.nb && q.nb ≤ q.bcap && q.lc ≤ 64 * (q.nb - q.nt) && !q.reserved && q.w 0 % 64 == 0 && q.w 1 % 4 == 0 && q.w 4 % 4 == 0

/-- Read the sequence descriptor at sA; an invalid one gives −3 (R416), also where its ecode is not zero, for which `kvcommit`
and `kvcompact` give −5 (R425, R431: DESIGN CHOICE, log 21). -/
def readSequence (op : BarOp) : Kvm Sequence := do
  let bs ← kvRead op op.a 64
  let q : Sequence := ⟨op.a, kvWords 64 bs⟩
  kvNeed q.ok (-3)
  pure q

/-- A layer group: pool base and block size (R406); an invalid entry gives −3. -/
def readGroup (op : BarOp) (k : Cache) (g : Nat) : Kvm (Nat × Nat) := do
  let bs ← kvRead op (w64 (k.w 1 + 16 * g)) 16
  let base := leNat (bs.take 8)
  let w := leNat (bs.drop 8)
  kvNeed (base % 65536 == 0 && w ≤ 4) (-3)
  pure (base, 16384 * 2 ^ w)

/-- Every layer group. -/
def readGroups (op : BarOp) (k : Cache) : Kvm (List (Nat × Nat)) := (upto 0 k.ng).mapM (readGroup op k)

/-- The address of slot b of a group (R406). -/
def slotVa (g : Nat × Nat) (b : Nat) : Word := w64 (g.1 + b * g.2)

/-! ### Tiers -/

/-- The place of the lowest-level entry for an address, when the entries, as `rd` reads them, lead to one and none that is
valid is malformed (06_memory.md R147, R149). -/
def leafPlace (s : State) (rd : Nat → Byte) (va : Word) : Nat → Nat → Option Nat
  | 0, _ => none
  | lev + 1, t =>
    let at_ := t + 8 * fld va.toNat (16 + 13 * lev) 13
    if !(isMemory at_ && s.populated at_) then none
    else
      let e := leNat ((upto at_ 8).map rd)
      if lev = 0 then (if bitOf e 0 && (badEntry e || !bitOf e 5) then none else some at_)
      else if !bitOf e 0 || badEntry e || bitOf e 5 || badPointer lev e then none
      else leafPlace s rd va lev (fld e 16 30 * 2 ^ 16)

/-- The entry marks a page of a demoted or moving unit (R433). -/
def demotedEntry (e : Nat) : Bool := !bitOf e 0 && fld e 58 6 == 0x22

/-- U, the ids of a unit (R432). -/
def unitIds (gs : List (Nat × Nat)) : Nat := max 1 (65536 / (gs.map (·.2)).foldl min 262144)

/-- The pages of unit u (R432). -/
def unitPages (gs : List (Nat × Nat)) (u : Nat) : List Word :=
  gs.flatMap (fun g => (upto 0 (unitIds gs * g.2 / 65536)).map (fun p => w64 (g.1 + u * unitIds gs * g.2 + 65536 * p)))

/-- The entries of the pages of a unit, in the address space of the pools (R432, R405). -/
def unitEntries (op : BarOp) (k : Cache) (ps : List Word) : Kvm (List Nat) := do
  let s ← get
  match ps.mapM (fun va => leafPlace s (kvByte s op) va 3 k.root) with
  | none => kvStop .failed
  | some es => pure es

/-- Pop a frame of the stack whose address and count stand at two words of the descriptor (R405). Bits [31:30] of the entry are not
looked at (DESIGN CHOICE, log 21). -/
def popFrame (op : BarOp) (k : Cache) (stack : Nat) : Kvm Nat := do
  let n ← kvNum op (k.va + w64 (8 * stack + 8)) 4
  if n = 0 then kvStop .failed
  else
    let e ← kvNum op (w64 (k.w stack + 4 * (n - 1))) 4
    kvPut op (k.va + w64 (8 * stack + 8)) 4 (n - 1)
    pure (fld e 0 30 * 2 ^ 16)

/-- Push a frame on a frame stack (R405). -/
def pushFrame (op : BarOp) (k : Cache) (stack pa : Nat) : Kvm Unit := do
  let n ← kvNum op (k.va + w64 (8 * stack + 8)) 4
  kvPut op (w64 (k.w stack + 4 * n)) 4 (fld pa 16 30)
  kvPut op (k.va + w64 (8 * stack + 8)) 4 (n + 1)

/-- The state st of unit u as it now stands; a location word with a reserved bit set is rejected with −3 (R433, R416,
00_scope.md R15). -/
def unitState (op : BarOp) (k : Cache) (u : Nat) : Kvm Nat := do
  let w ← kvNum op (w64 (k.w 7 + 8 * u)) 8
  kvNeed (w < 4) (-3)
  pure w

/-- The `atcas` at `pkg` that changes st of unit u: nothing is stored unless st is the value expected (R433). -/
def changeState (op : BarOp) (k : Cache) (u old new : Nat) : Kvm Unit := do
  let st ← unitState op k u
  if st = old then kvPut op (w64 (k.w 7 + 8 * u)) 8 new else kvStop .pager

/-- Copy the 64 KiB of one frame to another, whose lines it fills (18_platform.md R475). -/
def copyFrame (op : BarOp) (old new : Nat) : Kvm Unit := do
  let s ← get
  if !(isMemory old && isMemory new) ∨ (upto (old / 64) 1024).any (fun l => (poisonAt s (64 * l)).isSome) then kvStop .failed
  else set (clearPoison (storeAll agentByte s (upto new 65536) ((upto old 65536).map (kvByte s op)))
    (if s.memory.poison = [] then [] else upto new 65536))

/-- Write a page-table entry. -/
def putPte (place v : Nat) : Kvm Unit := modify (fun s => agentNum s place 8 v)

/-- Replace a valid page-table entry and remove the translations of it, as a completed `tlbinv` does (R434, 11_sync.md R304). -/
def replacePte (place v : Nat) : Kvm Unit := modify (fun s => dropLeaf (agentNum s place 8 v) place)

/-- The frame an entry holds (06_memory.md R148). -/
def pteFrame (e : Nat) : Nat := fld e 16 30 * 2 ^ 16

/-- The entry of a demoted page: its frame is an LPDDR6 frame (R433). -/
def demotedPte (e lpddr : Nat) : Nat := fld e 1 10 * 2 - fld e 6 2 * 2 ^ 6 + lpddr + 0x22 * 2 ^ 58

/-- The entry of a promoted page (R435). -/
def promotedPte (e frame : Nat) : Nat := 1 + fld e 1 10 * 2 + frame

/-- Promote a demoted unit, as the pager does (R435). -/
def promoteUnit (op : BarOp) (k : Cache) (gs : List (Nat × Nat)) (u : Nat) : Kvm Unit := do
  changeState op k u 2 3
  let places ← unitEntries op k (unitPages gs u)
  for p in places do
    let s ← get
    let e := kvSeen s op p 8
    let frame ← popFrame op k 9
    copyFrame op (pteFrame e) frame
    putPte p (promotedPte e frame)
    pushFrame op k 11 (pteFrame e)
  changeState op k u 3 0

/-- The ids that the units of a cache cover: all pages of the last unit are its own, also those of ids at and above nids
(R432). -/
def unitSlots (k : Cache) : Nat := ceilDiv k.nids (unitIds k.groups) * unitIds k.groups

/-- The unit of the cache that holds an address of its pools (R406, R432). -/
def unitAt (k : Cache) (va : Nat) : Option Nat :=
  (k.groups.find? (fun g => g.1 ≤ va && va < g.1 + unitSlots k * g.2)).map (fun g => (va - g.1) / g.2 / unitIds k.groups)

/-- The page at va belongs to a demoted or moving unit (R433). -/
def demotedPage (s : State) (op : BarOp) (va : Word) : Bool :=
  match op.root.bind (fun r => leafPlace s (kvByte s op) va 3 r) with
  | some p => demotedEntry (kvSeen s op p 8)
  | none => false

/-- Before an operation reads or writes bytes of the page at va: a demoted unit that holds it is promoted, and a unit the
pager promotes is waited for, whichever of its entries the pager has written (R415, R435). A page of no unit is left as it
is; a demoted page of no unit of this cache, one of another cache's pools among them, ends the operation with −4, because its
location table is not known (DESIGN CHOICE, log 21). -/
def ensurePage (op : BarOp) (k : Cache) (va : Word) : Kvm Unit := do
  let s ← get
  let away := demotedPage s op va
  match unitAt k va.toNat with
  | none => if away then kvStop .failed else pure ()
  | some u =>
    match ← kvTry op (unitState op k u) with
    | some 3 => kvStop .pager
    | some 2 => promoteUnit op k k.groups u
    | _ => if away then kvStop .failed else pure ()

/-- The same for every page of the n bytes at va. -/
def ensureRange (op : BarOp) (k : Cache) (va : Word) (n : Nat) : Kvm Unit := do
  for p in pageRuns (n / 65536 + 2) va n do
    ensurePage op k p.1

/-- Read n bytes at va that a demoted unit may hold (R415). -/
def kvFetch (op : BarOp) (k : Cache) (va : Word) (n : Nat) : Kvm (List Byte) := do
  ensureRange op k va n
  kvRead op va n

/-- The same before an operation reads or writes block b of a group. -/
def ensureBlock (op : BarOp) (k : Cache) (g : Nat × Nat) (b : Nat) : Kvm Unit := ensureRange op k (slotVa g b) g.2

/-- Read a number of n bytes at va that a demoted unit may hold (R415). -/
def kvGet (op : BarOp) (k : Cache) (va : Word) (n : Nat) : Kvm Nat := do
  ensureRange op k va n
  kvNum op va n

/-- Write bytes at va that a demoted unit may hold (R415). -/
def kvWrite (op : BarOp) (k : Cache) (va : Word) (bs : List Byte) : Kvm Unit := do
  ensureRange op k va bs.length
  kvStore op va bs

/-- Write a number of n bytes at va that a demoted unit may hold (R415). -/
def kvSet (op : BarOp) (k : Cache) (va : Word) (n v : Nat) : Kvm Unit := kvWrite op k va (leBytes v n)

/-- The cache of an operation, with the layer groups by which its units are known; without them no unit is promoted, as in
`pfxmatch` (R405, R415, R418). -/
def openCache (op : BarOp) (va : Word) : Kvm Cache := do
  let k ← readCache op va
  if op.op = .pfxmatch then pure k
  else
    let gs ← kvTry op (readGroups op k)
    let k := { k with groups := gs.getD [] }
    ensureRange op k va 128
    pure k

/-- The cache of a sequence whose descriptor the operation has read (R409, R415). It is opened before the operation's own tests
for −3, so that a cache which cannot be translated gives −4 also where one of them fails (R416: DESIGN CHOICE, log 21); the
tests for −5 come before it (R425, R431). -/
def openFor (op : BarOp) (q : Sequence) : Kvm Cache := do
  let k ← openCache op q.cache
  ensureRange op k q.va 64
  pure k

/-! ### Table entries and block words -/

/-- Write nb, Lc and nt (R409). -/
def writeSequence (op : BarOp) (q : Sequence) (nb lc nt : Nat) : Kvm Unit := do
  kvPut op (q.va + 16) 8 (q.bcap + nb * 2 ^ 32)
  kvPut op (q.va + 24) 8 (lc + nt * 2 ^ 32)

/-- The block id of table entry j (R409). -/
def entryOf (op : BarOp) (k : Cache) (q : Sequence) (j : Nat) : Kvm Nat := do
  let x ← kvGet op k (q.entryAddr j) 4
  pure (fld x 0 24)

/-- Write table entry j (R409). -/
def putEntry (op : BarOp) (k : Cache) (q : Sequence) (j b : Nat) : Kvm Unit := kvSet op k (q.entryAddr j) 4 b

/-- The block word of an id (R407); one with a reserved bit set is rejected with −3 (00_scope.md R15, R416). -/
def blockWord (op : BarOp) (k : Cache) (b : Nat) : Kvm Nat := do
  let w ← kvGet op k (k.blockAddr b) 8
  kvNeed (fld w 58 6 == 0) (-3)
  pure w

/-- Write the block word of an id (R407). -/
def putBlock (op : BarOp) (k : Cache) (b v : Nat) : Kvm Unit := kvSet op k (k.blockAddr b) 8 v

/-- One reference more (R407). A count of 2^32 - 1 wraps to 0: the spec names no such case (DESIGN CHOICE, log 21). -/
def addReference (op : BarOp) (k : Cache) (b : Nat) : Kvm Unit := do
  let w ← blockWord op k b
  putBlock op k b (setFld w 0 32 (fld w 0 32 + 1))

/-- fhead and nfree as they stand (R405). -/
def freeList (op : BarOp) (k : Cache) : Kvm (Nat × Nat) := do
  let w ← kvNum op (k.va + 24) 8
  pure (fld w 0 25, fld w 32 25)

/-- Write fhead and nfree (R405). An nfree of 2^25 - 1 that grows carries into the reserved bit above it, because the spec names no
such case (DESIGN CHOICE, log 21). -/
def putFreeList (op : BarOp) (k : Cache) (head n : Nat) : Kvm Unit := kvPut op (k.va + 24) 8 (head + n * 2 ^ 32)

/-- Decrement(b): whether the count reached 0 (R407). -/
def decrementBlock (op : BarOp) (k : Cache) (b : Nat) : Kvm Bool := do
  let w ← blockWord op k b
  if fld w 0 32 = 0 then pure false
  else if 1 < fld w 0 32 then
    putBlock op k b (w - 1)
    pure false
  else
    let f ← freeList op k
    putBlock op k b (setFld (setFld (setFld w 0 32 0) 57 1 0) 32 25 f.1)
    putFreeList op k b (f.2 + 1)
    pure true

/-- Decrement the blocks of table entries: how many counts reached 0. -/
def decrementAll (op : BarOp) (k : Cache) (q : Sequence) (js : List Nat) : Kvm Nat :=
  js.foldlM (fun n j => do
    let b ← entryOf op k q j
    let z ← decrementBlock op k b
    pure (n + bNat z)) 0

/-- Pop, with rc := 1 and the given tent; an empty free list gives the status (R407). A list whose head is 0x1FF_FFFF counts as
empty, whatever nfree says, and the block that a copy-on-write pops has its tent set to 0, where R424 names rc alone (R405, R424:
DESIGN CHOICE, log 21). -/
def popBlock (op : BarOp) (k : Cache) (tent : Nat) (status : Int) : Kvm Nat := do
  let f ← freeList op k
  kvNeed (f.2 != 0 && f.1 != 0x1FFFFFF) status
  let w ← blockWord op k f.1
  putFreeList op k (fld w 32 25) (f.2 - 1)
  putBlock op k f.1 (setFld (setFld w 0 32 1) 57 1 tent)
  pure f.1

/-! ### The clock -/

/-- The clock's step on a unit (R434): whether it demoted, and whether the clock goes on. A hand at or past the last unit is a unit
without ids, and goes to 0 (DESIGN CHOICE, log 21). -/
def clockUnit (op : BarOp) (k : Cache) : Kvm (Bool × Bool) := do
  let gs ← readGroups op k
  let n := unitIds gs
  let h ← kvNum op (k.va + 64) 4
  let u := fld h 0 25
  let next := kvPut op (k.va + 64) 4 (if (u + 1) * n < k.nids then u + 1 else 0)
  let st ← unitState op k u
  let bs ← (upto (u * n) (min n (k.nids - u * n))).mapM (blockWord op k)
  if st ≠ 0 ∨ bs.all (fun b => fld b 0 32 == 0) ∨ bs.any (fun b => bitOf b 57) then
    next
    pure (false, true)
  else
    let places ← unitEntries op k (unitPages gs u)
    let s ← get
    if places.any (fun p => !bitOf (kvSeen s op p 8) 0) then kvStop .failed
    else if places.any (fun p => bitOf (kvSeen s op p 8) 6) then
      for p in places do
        let t ← get
        replacePte p (setFld (kvSeen t op p 8) 6 1 0)
      modify publishAll
      next
      pure (false, true)
    else
      let free ← kvNum op (k.va + 96) 4
      if free < places.length then pure (false, false)
      else
        changeState op k u 0 1
        modify publishAll
        for p in places do
          let t ← get
          let e := kvSeen t op p 8
          let frame ← popFrame op k 11
          copyFrame op (pteFrame e) frame
          replacePte p (demotedPte e frame)
          pushFrame op k 9 (pteFrame e)
        changeState op k u 1 2
        next
        pure (true, true)

/-! ### The prefix tree -/

/-- No node and no child (R411). -/
def noNode : Nat := 0xFFFFFFFF

/-- A node of the tree, by its 4-byte words (R411). -/
structure Node where
  words : List Nat
  deriving DecidableEq, Repr

/-- Word j of the node. -/
def Node.w (x : Node) (j : Nat) : Nat := x.words.getD j 0
/-- The block id (R411). -/
def Node.bid (x : Node) : Nat := fld (x.w 0) 0 24
/-- The node is in the tree (R411). -/
def Node.live (x : Node) : Bool := bitOf (x.w 0) 24
/-- The hash of the node's key (R411). -/
def Node.hash (x : Node) : Nat := x.w 1
/-- The parent (R411). -/
def Node.parent (x : Node) : Nat := x.w 2
/-- The first child (R411). -/
def Node.child (x : Node) : Nat := x.w 3
/-- The next sibling, or the next free node (R411). -/
def Node.sib (x : Node) : Nat := x.w 4
/-- The number of children (R411). -/
def Node.nchild (x : Node) : Nat := x.w 5
/-- Every reserved bit is zero (R411). -/
def Node.ok (x : Node) : Bool := fld (x.w 0) 25 7 == 0 && (x.words.drop 8).all (· == 0)

/-- Read a node; one with a reserved bit set is rejected with −3 (R411, R416, 00_scope.md R15). -/
def readNode (op : BarOp) (k : Cache) (i : Nat) : Kvm Node := do
  let bs ← kvFetch op k (k.nodeAddr i) 64
  let x : Node := ⟨(chunks 4 16 bs).map leNat⟩
  kvNeed x.ok (-3)
  pure x

/-- The hash of a token block (R411). -/
def tokenHash (ts : List Nat) : Nat :=
  ((upto 0 64).map (fun j =>
    let x := BitVec.ofNat 32 (ts.getD j 0 * 0x9E3779B1)
    (x.rotateLeft (j % 32)).toNat)).foldl (· ^^^ ·) 0

/-- The tokens of block j of a token list (R412). -/
def tokenBlock (op : BarOp) (k : Cache) (list : Word) (j : Nat) : Kvm (List Byte) :=
  kvFetch op k (list + w64 (4 + 256 * j)) 256

/-- The number at the head of a token list or a keep list (R412, R431). -/
def listLength (op : BarOp) (k : Cache) (list : Word) : Kvm Nat := do
  let bs ← kvFetch op k list 4
  pure (leNat bs)

/-- The tokens in 256 bytes. -/
def tokensOf (bs : List Byte) : List Nat := (chunks 4 64 bs).map leNat

/-- The child that matches a token block, along a list of at most f siblings (R411). -/
def findChild (op : BarOp) (k : Cache) (key : List Byte) (h : Nat) : Nat → Nat → Kvm (Option Nat)
  | 0, _ => pure none
  | f + 1, c =>
    if c = noNode then pure none
    else do
      let x ← readNode op k c
      let same ← if x.hash = h then do
          let bs ← kvFetch op k (k.keyAddr c) 256
          pure (bs == key)
        else pure false
      if same then pure (some c)
      else findChild op k key h f x.sib

/-- The child of a node that matches block j of a token list, with the block's bytes and hash (R411). -/
def matchChild (op : BarOp) (k : Cache) (node : Nat) (list : Word) (j : Nat) : Kvm (Option Nat × List Byte × Nat) := do
  let key ← tokenBlock op k list j
  let h := tokenHash (tokensOf key)
  let x ← readNode op k node
  let r ← findChild op k key h k.ncap x.child
  pure (r, key, h)

/-- The loop of `pfxmatch` from block m on, at most f blocks: the final m (R418). -/
def matchFrom (op : BarOp) (k : Cache) (q : Sequence) : Nat → Nat → Nat → Kvm Nat
  | 0, _, m => pure m
  | f + 1, node, m => do
    let r ← matchChild op k node op.b m
    match r.1 with
    | none => pure m
    | some c => do
      let x ← readNode op k c
      putEntry op k q m x.bid
      addReference op k x.bid
      kvSet op k (k.nodeAddr c + 24) 8 op.num
      matchFrom op k q f c (m + 1)

/-- `pfxmatch` (R418). -/
def opMatch (op : BarOp) : Kvm Int := do
  let q ← readSequence op
  let k ← openFor op q
  kvNeed (q.nb == 0 && q.lc == 0 && q.ecode == 0) (-3)
  let n ← listLength op k op.b
  let m ← matchFrom op k q (min (n / 64) q.bcap) 0 0
  writeSequence op q m (64 * m) q.nt
  pure m

/-- A new node for block j under a node (R419). -/
def newNode (op : BarOp) (k : Cache) (q : Sequence) (node j : Nat) (key : List Byte) (h i : Nat) : Kvm Unit := do
  let free ← readNode op k i
  kvPut op (k.va + 52) 4 free.sib
  kvWrite op k (k.keyAddr i) key
  let b ← entryOf op k q j
  let x ← readNode op k node
  kvWrite op k (k.nodeAddr i) (leBytes (b + 2 ^ 24) 4 ++ leBytes h 4 ++ leBytes node 4 ++ leBytes noNode 4 ++ leBytes x.child 4 ++
    leBytes 0 4 ++ leBytes op.num 8 ++ zeros 32)
  kvSet op k (k.nodeAddr node + 12) 4 i
  kvSet op k (k.nodeAddr node + 20) 4 (x.nchild + 1)
  addReference op k b

/-- The loop of `pfxins` from block j on, at most f blocks: c + x × 2^32 (R419). -/
def insertFrom (op : BarOp) (k : Cache) (q : Sequence) : Nat → Nat → Nat → Nat → Kvm Nat
  | 0, _, _, c => pure c
  | f + 1, node, j, c => do
    let r ← matchChild op k node op.b j
    match r.1 with
    | some i => do
      kvSet op k (k.nodeAddr i + 24) 8 op.num
      insertFrom op k q f i (j + 1) c
    | none => do
      let i ← kvNum op (k.va + 52) 4
      if i = noNode then pure (c + 2 ^ 32)
      else
        newNode op k q node j r.2.1 r.2.2 i
        insertFrom op k q f i (j + 1) (c + 1)

/-- `pfxins` (R419). -/
def opInsert (op : BarOp) : Kvm Int := do
  let q ← readSequence op
  let k ← openFor op q
  let n ← listLength op k op.b
  let r ← insertFrom op k q (min (n / 64) (q.lc / 64)) 0 0 0
  pure r

/-- Take node i out of a child list of at most f siblings whose first index stands in the 4 bytes at `at_` (R420). -/
def unlink (op : BarOp) (k : Cache) (i next : Nat) : Nat → Word → Kvm Unit
  | 0, _ => pure ()
  | f + 1, at_ => do
    let c ← kvGet op k at_ 4
    if c = i then kvSet op k at_ 4 next
    else if c = noNode then pure ()
    else
      let _ ← readNode op k c
      unlink op k i next f (k.nodeAddr c + 16)

/-- The node form of `pfxrel` (R420). The parent's nchild counts modulo 2^32, here and where a child is added (DESIGN CHOICE, log
21). -/
def releaseNode (op : BarOp) : Kvm Int := do
  let k ← openCache op op.a
  kvNeed (op.b.toNat < k.ncap) (-3)
  let i := op.b.toNat
  let x ← readNode op k i
  kvNeed x.live (-3)
  if x.nchild ≠ 0 then pure 0
  else
    unlink op k i x.sib (k.ncap + 1) (k.nodeAddr x.parent + 12)
    let y ← readNode op k x.parent
    kvSet op k (k.nodeAddr x.parent + 20) 4 (y.nchild + 2 ^ 32 - 1)
    let _ ← decrementBlock op k x.bid
    kvSet op k (k.nodeAddr i) 4 (setFld (x.w 0) 24 1 0)
    let h ← kvNum op (k.va + 52) 4
    kvSet op k (k.nodeAddr i + 16) 4 h
    kvPut op (k.va + 52) 4 i
    pure 1

/-- The sequence form of `pfxrel` (R420). -/
def releaseSequence (op : BarOp) : Kvm Int := do
  let q ← readSequence op
  let k ← openFor op q
  let n ← decrementAll op k q (upto 0 q.nb)
  writeSequence op q 0 0 0
  kvPut op (q.va + 48) 1 0
  pure n

/-- `pfxrel` (R420). -/
def opRelease (op : BarOp) : Kvm Int := if op.b = 0 then releaseSequence op else releaseNode op

/-! ### Blocks -/

/-- The block `kvalloc` appends: by its mode, after the checks of −3 and −2 (R421). -/
def allocBlock (op : BarOp) (k : Cache) (q : Sequence) (mode : Nat) : Kvm Nat := do
  let id := fld op.b.toNat 32 25
  if mode = 2 then
    kvNeed (q.nt == 0 && id < k.nids) (-3)
    let w ← blockWord op k id
    kvNeed (fld w 0 32 != 0 && !bitOf w 57) (-3)
    kvNeed (q.nb != q.bcap) (-2)
    addReference op k id
    pure id
  else
    kvNeed (mode == 1 || q.nt == 0) (-3)
    kvNeed (q.nb != q.bcap) (-2)
    popBlock op k mode (-1)

/-- `kvalloc` (R421). -/
def opAlloc (op : BarOp) : Kvm Int := do
  let q ← readSequence op
  let k ← openFor op q
  let mode := op.b.toNat % 4
  kvNeed (mode != 3) (-3)
  let b ← allocBlock op k q mode
  putEntry op k q q.nb b
  writeSequence op q (q.nb + 1) q.lc (if mode = 1 then q.nt + 1 else q.nt)
  pure b

/-- `kvreject` (R422). -/
def opReject (op : BarOp) : Kvm Int := do
  let q ← readSequence op
  let k ← openFor op q
  let _ ← decrementAll op k q (upto (q.nb - q.nt) q.nt)
  writeSequence op q (q.nb - q.nt) q.lc 0
  pure q.nt

/-- `kvcommit` (R425). -/
def opCommit (op : BarOp) : Kvm Int := do
  let q ← readSequence op
  kvNeed (q.ecode == 0) (-5)
  let k ← openFor op q
  let lc := q.lc + op.b.toNat
  kvNeed (decide (lc ≤ min (64 * q.nb) (2 ^ 32 - 1))) (-3)
  let c := ceilDiv lc 64
  for j in upto (q.nb - q.nt) (c - (q.nb - q.nt)) do
    let b ← entryOf op k q j
    let w ← blockWord op k b
    putBlock op k b (setFld w 57 1 0)
  writeSequence op q q.nb lc (min q.nt (q.nb - c))
  pure lc

/-- Set ecode and enum (R409, R424). -/
def setEcode (op : BarOp) (code : Nat) : Kvm Unit := do
  kvPut op (op.a + 48) 1 code
  kvPut op (op.a + 56) 8 op.num

/-- Copy slot b to slot c in every layer group (R424). -/
def copySlots (op : BarOp) (k : Cache) (gs : List (Nat × Nat)) (b c : Nat) : Kvm Unit := do
  for g in gs do
    ensureBlock op k g b
    ensureBlock op k g c
    let bs ← kvRead op (slotVa g b) g.2
    kvStore op (slotVa g c) bs

/-- Step n hands the group, the offset o and the sources to step n + 1 (R424). -/
def handOn (num : Nat) (args : List Nat) : Kvm Unit :=
  modify (fun s => { s with kv.barOps := s.kv.barOps.map (fun o => if o.num = num then { o with args := args } else o) })

/-- Step n of `kvappend`: the copy-on-write (R424). -/
def opCow (op : BarOp) : Kvm Int := do
  let q ← readSequence op
  if q.ecode ≠ 0 then pure 0
  else
    let k ← openFor op q
    let bs ← kvFetch op k op.b 32
    let ws := kvWords 32 bs
    let w0 := ws.getD 0 0
    let g := fld w0 0 6
    let p := q.lc + fld w0 16 10
    let j := p / 64
    if fld w0 6 10 ≠ 0 ∨ fld w0 26 38 ≠ 0 ∨ ws.getD 3 0 ≠ 0 ∨ k.ng ≤ g then
      setEcode op 3
      pure 0
    else if q.nb ≤ j then
      setEcode op 1
      pure 0
    else
      let b ← entryOf op k q j
      let w ← blockWord op k b
      let f ← freeList op k
      if 1 < fld w 0 32 ∧ (f.2 = 0 ∨ f.1 = 0x1FFFFFF) then
        setEcode op 2
        pure 0
      else
        if 1 < fld w 0 32 then
          let gs ← readGroups op k
          let c ← popBlock op k 0 (-1)
          copySlots op k gs b c
          putEntry op k q j c
          let _ ← decrementBlock op k b
        handOn (op.num + 1) [g, fld w0 16 10, ws.getD 1 0, ws.getD 2 0]
        pure 0

/-- Step n + 1 of `kvappend`: the write, at Lc + o with Lc and the table as they stand (R424). After a step n that handed nothing
on, because of an ecode that a core has cleared in between, it does nothing; where Lc or the table has changed so that the position
lies past nb it sets ecode 1, and where it lies in a shared block, which is never written (11_sync.md R303), ecode 4 (DESIGN
CHOICE, log 21). -/
def opAppend (op : BarOp) : Kvm Int := do
  match op.args with
  | [g, o, ks, vs] => do
    let q ← readSequence op
    let p := q.lc + o
    if q.ecode ≠ 0 then pure 0
    else
      let k ← openFor op q
      let x ← readGroup op k g
      let kb := x.2 / 128
      ensureRange op k (w64 ks) kb
      ensureRange op k (w64 vs) kb
      let kd ← kvRead op (w64 ks) kb
      let vd ← kvRead op (w64 vs) kb
      if q.nb ≤ p / 64 then
        setEcode op 1
        pure 0
      else
        let b ← entryOf op k q (p / 64)
        let w ← blockWord op k b
        if 1 < fld w 0 32 then
          setEcode op 4
          pure 0
        else
          ensureBlock op k x b
          let at_ := slotVa x b + w64 (p % 64 * kb)
          kvStore op at_ kd
          kvStore op (at_ + w64 (x.2 / 2)) vd
          pure 0
  | _ => pure 0

/-! ### Compaction -/

/-- The numbers are strictly ascending. -/
def ascending : List Nat → Bool
  | [] => true
  | [_] => true
  | x :: y :: t => decide (x < y) && ascending (y :: t)

/-- Move the key and value of each kept position in one group (R431). -/
def moveTokens (op : BarOp) (k : Cache) (g : Nat × Nat) (old new : List Nat) (keep : List Nat) : Kvm Unit := do
  let kb := g.2 / 128
  for b in (old.zip (upto 0 old.length)).filter (fun b => keep.any (fun p => p / 64 == b.2)) do
    ensureBlock op k g b.1
  for b in new do
    ensureBlock op k g b
  for e in keep.zip (upto 0 keep.length) do
    let src := slotVa g (old.getD (e.1 / 64) 0) + w64 (e.1 % 64 * kb)
    let dst := slotVa g (new.getD (e.2 / 64) 0) + w64 (e.2 % 64 * kb)
    let kd ← kvRead op src kb
    let vd ← kvRead op (src + w64 (g.2 / 2)) kb
    kvStore op dst kd
    kvStore op (dst + w64 (g.2 / 2)) vd

/-- Rewrite the score table (R431): read in full before any entry is written. -/
def moveScores (op : BarOp) (k : Cache) (q : Sequence) (keep : List Nat) : Kvm Unit := do
  if q.score = 0 then pure ()
  else
    ensureRange op k (w64 q.score) (4 * min q.lc q.scap)
    let xs ← (keep.take (min keep.length q.scap)).mapM (fun p =>
      if p < q.scap then kvRead op (w64 (q.score + 4 * p)) 4 else pure (zeros 4))
    kvStore op (w64 q.score) (xs.flatten ++ zeros (4 * (min q.lc q.scap - keep.length)))

/-- `kvcompact` (R431). The head of the keep list is read before nt is tested, so that a list which cannot be translated gives
−4 also where nt is not 0 (DESIGN CHOICE, log 21). -/
def opCompact (op : BarOp) : Kvm Int := do
  let q ← readSequence op
  kvNeed (q.ecode == 0) (-5)
  let k ← openFor op q
  let n ← listLength op k op.b
  kvNeed (q.nt == 0 && n ≤ q.lc) (-3)
  let bs ← kvFetch op k (op.b + 4) (4 * n)
  let keep := (chunks 4 n bs).map leNat
  kvNeed (ascending keep && keep.all (fun p => p < q.lc)) (-3)
  let m := ceilDiv n 64
  let f ← freeList op k
  kvNeed (decide (m ≤ f.2)) (-1)
  let gs ← readGroups op k
  let old ← (upto 0 q.nb).mapM (entryOf op k q)
  let new ← (upto 0 m).mapM (fun _ => popBlock op k 0 (-1))
  for g in gs do
    moveTokens op k g old new keep
  moveScores op k q keep
  for b in old do
    let _ ← decrementBlock op k b
  for e in new.zip (upto 0 m) do
    putEntry op k q e.2 e.1
  writeSequence op q m n 0
  pure m

/-! ### The engine -/

/-- What an operation does (R415). -/
def kvPerform (op : BarOp) : Kvm Int :=
  match op.op with
  | .pfxmatch => opMatch op
  | .pfxins => opInsert op
  | .pfxrel => opRelease op
  | .kvalloc => opAlloc op
  | .cow => opCow op
  | .append => opAppend op
  | .kvcommit => opCommit op
  | .kvreject => opReject op
  | .kvcompact => opCompact op

/-- The operation is a step of a `kvappend`, which delivers no result (R414). -/
def BarOp.isStep (op : BarOp) : Bool := op.op == .cow || op.op == .append

/-- Step of a `kvappend` ends in error: ecode and enum are set unless the sequence has an ecode (R409, R424). -/
def stepError (op : BarOp) (code : Nat) : Kvm Unit := do
  let e ← kvNum op (op.a + 48) 1
  if e = 0 then setEcode op code else pure ()

/-- The cache on which the operation acted (R434): what the operation read is found again in the state it leaves. -/
def cacheOf (s : State) (op : BarOp) : Option Word :=
  if op.op = .pfxrel ∧ op.b ≠ 0 then some op.a
  else match (readSequence op).result s with
    | .ok (q, _) => some q.cache
    | .error _ => none

/-- A step of the clock as an operation with a number: it reads what is published (R434, 11_sync.md R287). -/
def clockOp (s : State) (c : Clock) (n : Nat) : BarOp :=
  ⟨n, .kvalloc, 0, 0, c.level, c.root, [], s.memory.pubq ++ s.memory.unpub, 0⟩

/-- Two clocks run on one cache of one address space. -/
def Clock.same (c d : Clock) : Bool := c.cache == d.cache && c.level == d.level && c.root == d.root

/-- The clocks once an operation is complete: that of its cache starts anew, and every other goes on (R434). -/
def clocksAfter (s : State) (op : BarOp) : List Clock :=
  match cacheOf s op with
  | none => s.kv.clocks
  | some va =>
    let c : Clock := ⟨va, op.level, op.root, 0⟩
    s.kv.clocks.filter (fun d => !d.same c) ++ [c]

/-- The oldest operation is complete with a result: its writes are published, `tc10` shows it, and the clock may run
(R299, R414, R417, R434). -/
def completeOp (s : State) (op : BarOp) (r : Int) : State :=
  { s with
    kv.barOps := s.kv.barOps.tail
    kv.barResults := if op.isStep then s.kv.barResults else s.kv.barResults ++ [(op.num, wrap64 r)]
    kv.tc10 := w64 op.num
    kv.clocks := clocksAfter s op }

/-- The operation halts: with its status, −4 for an access that fails, or, in a step of a `kvappend`, with ecode 3 or 4 (R409,
R415, R416, R424). That a step sets ecode 3 for a structure that another operation rejects with −3 is the model's choice
(log 21). -/
def haltedOp (s : State) (op : BarOp) (v : Int) : State :=
  if op.isStep then completeOp ((stepError op (if v = -4 then 4 else 3)).attempt op s) op 0 else completeOp s op v

/-- A computation that waits for the pager leaves the state t, with only the marks of what it read; none when it has left them
before (R435, 06_memory.md R150). -/
def pagerWait (s t : State) : Option State := if t.memory = s.memory then none else some t

/-- Perform the oldest operation (R415): none while it waits for the pager (R435), or for the `vfence` arrivals before it, which
it reads (11_sync.md R301). -/
def performOp (s : State) (op : BarOp) : Option State :=
  let hs := (kvPerform op).reads s
  if op.behind ≠ 0 then none
  else match (kvPerform op).result s with
    | .ok (r, t) => some (completeOp t op r)
    | .error (.status v) => some (haltedOp (keepReads s op hs) op v)
    | .error .failed => some (haltedOp (keepReads s op hs) op (-4))
    | .error .pager => pagerWait s (keepReads s op hs)

/-- BARCHAN_OPERATION: the next accepted operation is performed (R415). -/
def execBarchanOperation (s : State) : Out :=
  match s.kv.barOps with
  | [] => .next s
  | op :: _ => .next ((performOp s op).getD s)

/-- BARCHAN_RESULT: the waiting instruction receives its result, acquires at `pkg` and commits (R414). -/
def execBarchanResult (s : State) : Out :=
  match s.wait with
  | some (.result n d) =>
    match s.kv.barResults.find? (fun r => r.1 == n) with
    | none => .next s
    | some r =>
      let t := { s with kv.barResults := s.kv.barResults.filter (fun x => x.1 != n) }
      .next (retire ((acquire t).setReg d r.2))
  | _ => .next s

/-- Fewer free HBM4E frames than the low mark: the clock is to run (R434). -/
def readDue (op : BarOp) (va : Word) : Kvm Bool := do
  let k ← readCache op va
  pure (decide (fld (k.w 10) 0 32 < fld (k.w 8) 32 32))

/-- The clock is to run, by what is published (R434, 11_sync.md R287). -/
def clockDue (s : State) (c : Clock) : Bool :=
  match (readDue (clockOp s c 0) c.cache).result s with
  | .ok (b, _) => b
  | .error _ => false

/-- A step of the clock (R434): whether it demoted, whether the clock goes on, and the units of the cache. -/
def clockStep (op : BarOp) (c : Clock) : Kvm (Bool × Bool × Nat) := do
  let k ← openCache op c.cache
  let gs ← readGroups op k
  let x ← clockUnit op k
  pure (x.1, x.2, ceilDiv k.nids (unitIds gs))

/-- The state after a numbered step of a clock, with the clocks that go on (R299, R434). -/
def clockDone (s : State) (n : Nat) (cs : List Clock) : State :=
  { s with kv.barIssued := n, kv.tc10 := w64 n, kv.clocks := cs }

/-- The first clock acts when no operation waits (R434): it stops when it is not to run; none while it waits for the pager. -/
def clockAct (s : State) : Option State :=
  match s.kv.clocks, s.kv.barOps with
  | c :: rest, [] =>
    let u := (readDue (clockOp s c 0) c.cache).attempt (clockOp s c 0) s
    if clockDue s c then
      let n := s.kv.barIssued + 1
      let op := clockOp s c n
      let m := clockStep op c
      match m.result u with
      | .error .pager => pagerWait s (keepReads u op (m.reads u))
      | .error _ => some (clockDone (keepReads u op (m.reads u)) n rest)
      | .ok ((demoted, on, units), t) =>
        let idle := if demoted then 0 else c.idle + 1
        some (clockDone t n (if on && decide (idle < units) && clockDue t c then { c with idle := idle } :: rest else rest))
    else some { u with kv.clocks := rest }
  | _, _ => none

/-- CLOCK_STEP: one numbered step of the clock, when no operation waits (R434). -/
def execClockStep (s : State) : Out := .next ((clockAct s).getD s)

/-! ### Instructions -/

/-- Misalignment at an address unless it is a multiple (R414). -/
def alignedTo (n : Nat) (va : Word) : Run Unit := if va.toNat % n = 0 then .ok () else misaligned va

/-- An operation with the next number (R414). -/
def nextOp (s : State) (op : KvOp) (a b : Word) (k : Nat) : BarOp :=
  ⟨s.kv.barIssued + k, op, a, b, s.level, s.root, [], [], s.memory.arrivals.length⟩

/-- A Barchan instruction that waits for its result (R414); `n` is the alignment of sB. -/
def barchan (op : KvOp) (n : Nat) (d : BitVec 5) (sa sb : Word) (s : State) : Out :=
  finish s (do
    alignedTo 64 sa
    alignedTo n sb
    if 1024 ≤ s.kv.barOps.length then pure (waitHere s .queue)
    else
      let u := { s with kv.barOps := s.kv.barOps ++ [nextOp s op sa sb 1], kv.barIssued := s.kv.barIssued + 1 }
      pure (waitHere u (.result (s.kv.barIssued + 1) d.toNat)))

/-- `pfxmatch` (R414, R418). -/
def execPfxmatch (d a b : BitVec 5) (s : State) : Out := barchan .pfxmatch 4 d (s.rd a) (s.rd b) s
/-- `pfxins` (R414, R419). -/
def execPfxins (d a b : BitVec 5) (s : State) : Out := barchan .pfxins 4 d (s.rd a) (s.rd b) s
/-- `pfxrel` (R414, R420). -/
def execPfxrel (d a b : BitVec 5) (s : State) : Out := barchan .pfxrel 1 d (s.rd a) (s.rd b) s
/-- `kvalloc` (R414, R421). -/
def execKvalloc (d a b : BitVec 5) (s : State) : Out := barchan .kvalloc 1 d (s.rd a) (s.rd b) s
/-- `kvcommit` (R414, R425). -/
def execKvcommit (d a b : BitVec 5) (s : State) : Out := barchan .kvcommit 1 d (s.rd a) (s.rd b) s
/-- `kvreject` (R414, R422). -/
def execKvreject (d a : BitVec 5) (s : State) : Out := barchan .kvreject 1 d (s.rd a) 0 s
/-- `kvcompact` (R414, R431). -/
def execKvcompact (d a b : BitVec 5) (s : State) : Out := barchan .kvcompact 4 d (s.rd a) (s.rd b) s

/-- `kvappend` (R414, R424): it takes two numbers and does not wait for them. -/
def execKvappend (d a b : BitVec 5) (s : State) : Out :=
  finish s (do
    alignedTo 64 (s.rd a)
    alignedTo 32 (s.rd b)
    let h ← objectHit s .store 4 (s.rd a)
    if 1022 < s.kv.barOps.length then pure (waitHere s .queue)
    else
      let t := markLeaf s h true
      let u := { t with
        kv.barOps := t.kv.barOps ++ [nextOp t .cow (s.rd a) (s.rd b) 1, nextOp t .append (s.rd a) (s.rd b) 2]
        kv.barIssued := t.kv.barIssued + 2 }
      pure (retire (u.wr d (w64 (t.kv.barIssued + 2)))))

/-- A load of n bytes of a structure: never the window or a control page, whose lowest address is reported (06_memory.md R154,
R480). A page fault has the given code. -/
def objectLoad (s : State) (va : Word) (n : Nat) (code : Nat := 3) : Run (Nat × State) := do
  if va.toNat % min n 8 ≠ 0 ∧ (pieces va n).any (fun p => pageType s p.1 != .normal) then misaligned va
  else
    let hs ← (pieces va n).mapM (fun p => (objectHit s .load code p.1).map (fun h => (h, p.2)))
    checkPoison s va (hitLocs hs)
    let u := accessOrder s (hs.any (fun h => h.1.type == .sync)) (hitLocs hs)
    pure (leNat ((hitLocs hs).map u.byte), markAll u .load (hs.map (·.1)))

/-- A synchronising read at `pkg` of n bytes of a structure (11_sync.md R285). -/
def objectSync (s : State) (va : Word) (n : Nat) : Run (Nat × State) := objectLoad (syncOrder s) va n

/-- Go on unless a structure has a reserved bit set: the engine fault with the address of the sequence (00_scope.md R15, log
33). -/
def unreserved (c : Bool) (sa : Word) : Run Unit := if c then rejected sa else .ok ()

/-- The words of n bytes that a core instruction loads from a structure. -/
def objectWords (s : State) (va : Word) (n : Nat) (code : Nat := 3) : Run (List Nat × State) := do
  let r ← objectLoad s va n code
  pure ((upto 0 (n / 8)).map (fun k => fld r.1 (64 * k) 64), r.2)

/-- The sequence descriptor at sA as a core instruction loads it (R427, R428). -/
def loadSequence (s : State) (sa : Word) : Run (Sequence × State) := do
  let r ← objectWords s sa 64
  unreserved (Sequence.mk sa r.1).reserved sa
  pure (⟨sa, r.1⟩, r.2)

/-- The address of a token's key or value, and the state after the reads (R427). Where the table entry and the cache descriptor,
whose addresses the sequence descriptor gives, both fail, the lower address is reported (R480, 17_system.md R439). The cache
descriptor is loaded also where p is at or above 64 nb, so that one that cannot be loaded faults there too (DESIGN CHOICE, log
21). -/
def kvAddress (s : State) (sa sb : Word) : Run (Word × State) := do
  alignedTo 64 sa
  let p := fld sb.toNat 0 32
  let g := fld sb.toNat 32 6
  let _ ← objectHit s .load 3 sa
  let (nb, s) ← objectSync s (sa + 20) 4
  let (q, s) ← loadSequence s sa
  let entry := if p < 64 * nb then objectSync s (q.entryAddr (p / 64)) 4 else pure (0, s)
  let ((b, s), _) ← both entry (objectWords s q.cache 128)
  let s := acquire s
  let (ws, s) ← objectWords s q.cache 128
  let k : Cache := { va := q.cache, words := ws }
  unreserved k.reserved sa
  if 64 * nb ≤ p ∨ k.ng ≤ g then pure (0, s)
  else
    let (e, s) ← objectWords s (w64 (k.w 1 + 16 * g)) 16
    let z := e.getD 1 0
    unreserved (4 < z) sa
    let size := 16384 * 2 ^ z
    pure (w64 (e.getD 0 0 + fld b 0 24 * size + bNat (bitOf sb.toNat 38) * (size / 2) + p % 64 * (size / 128)), s)

/-- `kvxlat` (R427). -/
def execKvxlat (d a b : BitVec 5) (s : State) : Out :=
  finish s (do
    let r ← kvAddress s (s.rd a) (s.rd b)
    pure (retire (r.2.wr d r.1)))

/-- The tokens of a run (R428). -/
def runLength (lc p : Nat) : Nat := if p < lc then min (64 - p % 64) (lc - p) else 0

/-- `setvlrun` (R428); illegal in strip-thread code (04_control.md R110). -/
def execSetvlrun (d a b : BitVec 5) (s : State) : Out :=
  finish s (do
    legalIf (!s.inStrip)
    alignedTo 64 (s.rd a)
    let _ ← objectHit s .load 3 (s.rd a)
    let r ← objectSync s (s.rd a + 24) 4
    let sb := (s.rd b).toNat
    let per := if fld sb 32 8 = 0 then 1 else fld sb 32 8
    let q ← loadSequence r.2 (s.rd a)
    let t := requestLength (acquire q.2) (runLength r.1 (fld sb 0 32) * per)
    pure (retire (t.wr d (t.lanes.vl.setWidth 64))))

/-- The additions of `kvscore` at locations, in order; they set no flag (R429). -/
def addScores (s : State) : List (Nat × Nat) → State
  | [] => s
  | e :: t => addScores (atomicAt s e.1 4 (fun old => (add32 .rne old e.2).val)).2 t

/-- `kvscore` (R429): every page is translated first, and one that cannot be raises the store page fault. The misalignment of the
score table comes before the rejection of a reserved bit (17_system.md R439). -/
def execKvscore (d a b : BitVec 5) (s : State) : Out :=
  finish s (do
    alignedTo 64 (s.rd a)
    let (ws, u) ← objectWords s (s.rd a) 64 4
    let q : Sequence := ⟨s.rd a, ws⟩
    let score := q.score
    alignedTo 4 (w64 score)
    unreserved q.reserved (s.rd a)
    let sb := (s.rd b).toNat
    let p0 := fld sb 0 32
    let n := min (min (fld sb 32 11) 1024) (q.scap - p0)
    if score = 0 then pure (retire u)
    else
      let at_ (k : Nat) : Word := w64 (score + 4 * (p0 + k))
      let hs ← (upto 0 n).mapM (fun k => objectHit u .atomic 4 (at_ k))
      let _ ← (hs.zip (upto 0 n)).mapM (fun e => checkPoison u (at_ e.2) (upto e.1.loc 4))
      let t := markAll u .atomic hs
      pure (retire (addScores t ((hs.map (·.loc)).zip ((upto 0 n).map (u.word d.toNat))))))

end Sys2Proof.Machine
end

