-- ==== Sys2Proof/Machine/MlDsa.lean ====
section
/-!
DEFINITION. ML-DSA-65 of FIPS 204 (18_platform.md R477 to R479, 00_scope.md R16): key generation, signing and verification
in the pure form, written out from the standard, which the spec cites (log 9). The loops that draw samples run as often as the
standard's Appendix C lets an implementation bound them; beyond that a result is `none`.
-/

namespace Sys2Proof.Machine

/-! ### The ring: polynomials of degree below 256 modulo q -/

/-- The modulus q. -/
def ringQ : Nat := 8380417

/-- A polynomial by its 256 coefficients, or its transform by its 256 values, below q. -/
abbrev Poly := List Nat

/-- The sum, coefficient by coefficient. -/
def polyAdd (a b : Poly) : Poly := List.zipWith (fun x y => (x + y) % ringQ) a b
/-- The difference, coefficient by coefficient. -/
def polySub (a b : Poly) : Poly := List.zipWith (fun x y => (x + ringQ - y) % ringQ) a b
/-- The product of two transforms. -/
def polyMul (a b : Poly) : Poly := List.zipWith (fun x y => x * y % ringQ) a b
/-- A multiple of a polynomial. -/
def polyScale (z : Nat) (a : Poly) : Poly := a.map (fun x => z * x % ringQ)

/-- The zero polynomial. -/
def polyZero : Poly := List.replicate 256 0

/-- An integer as a residue modulo q. -/
def residue (x : Int) : Nat := (x % (ringQ : Int)).toNat

/-- The representative of x modulo m that lies nearest to zero: above -m/2, at most m/2. -/
def centred (m x : Nat) : Int := if m < 2 * (x % m) then (x % m : Int) - m else (x % m : Int)

/-- The bits of an 8-bit number in the reverse order. -/
def reverse8 (m : Nat) : Nat := (upto 0 8).foldl (fun r k => 2 * r + m / 2 ^ k % 2) 0

/-- The powers of the root of unity 1753. -/
def rootPower (e : Nat) : Nat := 1753 ^ e % ringQ

/-- The transform of a block of 2^n coefficients; block m of the m-th power of two goes with the root 1753^reverse8 m
(FIPS 204, algorithm 41). -/
def nttBlock : Nat → Nat → Poly → Poly
  | 0, _, w => w
  | n + 1, m, w =>
    let a := w.take (2 ^ n)
    let t := polyScale (rootPower (reverse8 m)) (w.drop (2 ^ n))
    nttBlock n (2 * m) (polyAdd a t) ++ nttBlock n (2 * m + 1) (polySub a t)

/-- The transform of a block of 2^n values back, 2^n times too large (FIPS 204, algorithm 42). -/
def nttBack : Nat → Nat → Poly → Poly
  | 0, _, w => w
  | n + 1, m, w =>
    let a := nttBack n (2 * m) (w.take (2 ^ n))
    let b := nttBack n (2 * m + 1) (w.drop (2 ^ n))
    polyAdd a b ++ polyScale (rootPower (512 - reverse8 m)) (polySub a b)

/-- The number-theoretic transform. -/
def ntt (w : Poly) : Poly := nttBlock 8 1 w
/-- Its inverse. -/
def nttInverse (w : Poly) : Poly := polyScale 8347681 (nttBack 8 1 w)

/-- The product of a matrix and a vector of transforms. -/
def matrixTimes (rows : List (List Poly)) (v : List Poly) : List Poly :=
  rows.map (fun row => (List.zipWith polyMul row v).foldl polyAdd polyZero)

/-! ### Samples -/

/-- The first 256 of some samples. -/
def firstSamples (xs : List Nat) : Option Poly := if 256 ≤ xs.length then some (xs.take 256) else none

/-- A polynomial of uniform values, from SHAKE128 (FIPS 204, algorithm 30). -/
def uniformPoly (seed : List Byte) : Option Poly :=
  let bs := shake 168 seed 894
  firstSamples (((upto 0 298).map (fun i => leNat ((bs.drop (3 * i)).take 3) % 2 ^ 23)).filter (fun z => decide (z < ringQ)))

/-- A polynomial whose coefficients lie from -4 to 4 (FIPS 204, algorithm 31). -/
def shortPoly (seed : List Byte) : Option Poly :=
  firstSamples ((((shake256 seed 481).flatMap (fun b => [b.toNat % 16, b.toNat / 16])).filter (fun b => decide (b < 9))).map
    (fun b => (4 + ringQ - b) % ringQ))

/-- The matrix of the public seed (FIPS 204, algorithm 32). -/
def expandMatrix (rho : List Byte) : Option (List (List Poly)) :=
  (upto 0 6).mapM (fun r => (upto 0 5).mapM (fun s => uniformPoly (rho ++ leBytes s 1 ++ leBytes r 1)))

/-- n short polynomials from number k on (FIPS 204, algorithm 33). -/
def expandShort (seed : List Byte) (k n : Nat) : Option (List Poly) :=
  (upto k n).mapM (fun r => shortPoly (seed ++ leBytes r 2))

/-- Numbers of b bits as bytes, and back: 256 of them (FIPS 204, algorithms 16 and 18). -/
def packPoly (b : Nat) (a : List Nat) : List Byte := leBytes (a.foldr (fun x r => x + 2 ^ b * r) 0) (32 * b)
/-- The 256 numbers of b bits that some bytes hold. -/
def unpackPoly (b : Nat) (bs : List Byte) : List Nat := (upto 0 256).map (fun i => fld (leNat bs) (b * i) b)

/-- Half the range of the mask. -/
def maskRange : Nat := 2 ^ 19

/-- The polynomial of coefficients from 1 - 2^19 to 2^19 that 640 bytes hold (FIPS 204, algorithm 19). -/
def unpackMask (bs : List Byte) : Poly := (unpackPoly 20 bs).map (fun x => (maskRange + ringQ - x) % ringQ)

/-- The mask of an attempt (FIPS 204, algorithm 34). -/
def expandMask (seed : List Byte) (k : Nat) : List Poly :=
  (upto k 5).map (fun r => unpackMask (shake256 (seed ++ leBytes r 2) 640))

/-- Place the signs of a challenge from position i on, at n positions: the next byte that is at most i says which coefficient
goes to i, and takes the sign (FIPS 204, algorithm 29). -/
def placeSigns (signs : Nat) : Nat → Nat → List Byte → Poly → Option Poly
  | 0, _, _, c => some c
  | n + 1, i, bs, c =>
    match bs.dropWhile (fun b => decide (i < b.toNat)) with
    | [] => none
    | j :: rest =>
      placeSigns signs n (i + 1) rest
        ((c.set i (c.getD j.toNat 0)).set j.toNat (if bitOf signs (i - 207) then ringQ - 1 else 1))

/-- The challenge of a commitment: 49 coefficients are 1 or -1 (FIPS 204, algorithm 29). -/
def challenge (c : List Byte) : Option Poly :=
  let bs := shake256 c 129
  placeSigns (leNat (bs.take 8)) 49 207 (bs.drop 8) polyZero

/-! ### Rounding and hints -/

/-- Twice gamma2. -/
def roundStep : Nat := 523776

/-- The high part of a coefficient, and its low part (FIPS 204, algorithm 36). -/
def decomposed (r : Nat) : Nat × Int :=
  let low := centred roundStep r
  if (r : Int) - low = ringQ - 1 then (0, low - 1) else (((r : Int) - low).toNat / roundStep, low)

/-- The high part that a hint corrects (FIPS 204, algorithm 40). -/
def hinted (h : Bool) (r : Nat) : Nat :=
  let d := decomposed r
  if !h then d.1 else if 0 < d.2 then (d.1 + 1) % 16 else (d.1 + 15) % 16

/-- Every coefficient lies within a bound. -/
def within (bound : Nat) (a : Poly) : Bool := a.all (fun x => decide ((centred ringQ x).natAbs < bound))

/-- The bytes of six vectors of hints, by the positions of their ones (FIPS 204, algorithm 20). -/
def packHints (hs : List (List Nat)) : List Byte :=
  let ones := hs.flatten
  let ends := (upto 1 6).map (fun k => ((hs.take k).map List.length).sum)
  (ones ++ List.replicate (55 - ones.length) 0 ++ ends).map (fun x => BitVec.ofNat 8 x)

/-- Numbers that rise strictly. -/
def rising : List Nat → Bool
  | x :: y :: l => decide (x < y) && rising (y :: l)
  | _ => true

/-- The positions of the ones that 61 bytes hold; none when they are malformed (FIPS 204, algorithm 21). -/
def unpackHints (bs : List Byte) : Option (List (List Nat)) :=
  let ys := bs.map (·.toNat)
  let ends := 0 :: ys.drop 55
  let hs := (upto 0 6).map (fun k => (ys.take (ends.getD (k + 1) 0)).drop (ends.getD k 0))
  if (upto 0 6).all (fun k => decide (ends.getD k 0 ≤ ends.getD (k + 1) 0 ∧ ends.getD (k + 1) 0 ≤ 55)) && hs.all rising &&
    ((ys.take 55).drop (ends.getD 6 0)).all (· == 0) then some hs else none

/-! ### Keys, signatures and verification -/

/-- What key generation makes of a seed: the parts of the private key, and the public key. -/
structure DsaKey where
  matrix : List (List Poly)
  secret : List Byte
  s1 : List Poly
  s2 : List Poly
  t0 : List Poly
  pk : List Byte

/-- The key pair of a 32-byte seed (FIPS 204, algorithm 6). -/
def dsaKey (seed : List Byte) : Option DsaKey := do
  let h := shake256 (seed ++ [6, 5]) 128
  let rho := h.take 32
  let m ← expandMatrix rho
  let s1 ← expandShort ((h.drop 32).take 64) 0 5
  let s2 ← expandShort ((h.drop 32).take 64) 5 6
  let t := List.zipWith polyAdd ((matrixTimes m (s1.map ntt)).map nttInverse) s2
  let low (x : Nat) : Int := centred 8192 x
  pure
    { matrix := m
      secret := h.drop 96
      s1 := s1
      s2 := s2
      t0 := t.map (fun a => a.map (fun x => residue (low x)))
      pk := rho ++ t.flatMap (fun a => packPoly 10 (a.map (fun x => (Int.ofNat x - low x).toNat / 8192))) }

/-- What is signed for a message in the pure form, with no context, under a public key (FIPS 204, algorithms 2, 3 and 7). -/
def messageHash (pk msg : List Byte) : List Byte := shake256 (shake256 pk 64 ++ [0, 0] ++ msg) 64

/-- The commitment hash of high parts (FIPS 204, algorithms 7 and 28). -/
def commitment (mu : List Byte) (w1 : List (List Nat)) : List Byte := shake256 (mu ++ w1.flatMap (packPoly 4)) 48

/-- One attempt to sign: none when sampling fails, no signature when the attempt is rejected (FIPS 204, algorithm 7). -/
def signAttempt (x : DsaKey) (mu seed : List Byte) (k : Nat) : Option (Option (List Byte)) := do
  let y := expandMask seed k
  let w := (matrixTimes x.matrix (y.map ntt)).map nttInverse
  let c := commitment mu (w.map (fun a => a.map (fun r => (decomposed r).1)))
  let ch ← challenge c
  let times (v : List Poly) : List Poly := v.map (fun a => nttInverse (polyMul (ntt ch) (ntt a)))
  let z := List.zipWith polyAdd y (times x.s1)
  let r := List.zipWith polySub w (times x.s2)
  let ct0 := times x.t0
  let hints := (List.zipWith (fun a b => (upto 0 256).filter (fun i =>
    (decomposed ((a.getD i 0 + b.getD i 0) % ringQ)).1 != (decomposed (a.getD i 0)).1)) r ct0)
  pure (if z.all (within (maskRange - 196)) && r.all (fun a => a.all (fun v => decide ((decomposed v).2.natAbs < 261888 - 196))) &&
      ct0.all (within 261888) && decide (hints.flatten.length ≤ 55) then
    some (c ++ z.flatMap (fun a => packPoly 20 (a.map (fun v => ((maskRange : Int) - centred ringQ v).toNat))) ++ packHints hints)
  else none)

/-- At most n attempts to sign. -/
def signLoop (x : DsaKey) (mu seed : List Byte) : Nat → Nat → Option (List Byte)
  | 0, _ => none
  | n + 1, k =>
    match signAttempt x mu seed k with
    | none => none
    | some (some sig) => some sig
    | some none => signLoop x mu seed n (k + 5)

/-- The signature of a message with 32 random bytes (FIPS 204, algorithms 2 and 7). -/
def dsaSign (seed rnd msg : List Byte) : Option (List Byte) := do
  let x ← dsaKey seed
  let mu := messageHash x.pk msg
  signLoop x mu (shake256 (x.secret ++ rnd ++ mu) 64) 814 0

/-- A message's signature is that of the public key (FIPS 204, algorithms 3 and 8). -/
def dsaVerify (pk msg sig : List Byte) : Option Bool :=
  if pk.length ≠ 1952 ∨ sig.length ≠ 3309 then some false
  else match unpackHints (sig.drop 3248) with
  | none => some false
  | some hs => do
    let c := sig.take 48
    let z := (upto 0 5).map (fun i => unpackMask ((sig.drop (48 + 640 * i)).take 640))
    let t1 := (upto 0 6).map (fun i => unpackPoly 10 ((pk.drop (32 + 320 * i)).take 320))
    let m ← expandMatrix (pk.take 32)
    let ch ← challenge c
    let w := List.zipWith (fun a t => nttInverse (polySub a (polyMul (ntt ch) (ntt (polyScale 8192 t)))))
      (matrixTimes m (z.map ntt)) t1
    let w1 := List.zipWith (fun h a => (upto 0 256).map (fun i => hinted (h.contains i) (a.getD i 0))) hs w
    pure (z.all (within (maskRange - 196)) && commitment (messageHash pk msg) w1 == c)

/-- Aedpevis accepts the signature; where the bounds of Appendix C are met, whether it does is a free value (log 9). -/
def mlDsaVerify (pk msg sig : List Byte) : Bool := (dsaVerify pk msg sig).getD (Config.verifyBeyond pk msg sig)

/-- The 1,952 bytes of the public key of a seed; free where the bounds of Appendix C are met (log 9). -/
def mlDsaPublicKey (seed : List Byte) : List Byte :=
  ((dsaKey seed).map (·.pk)).getD (leBytes (Config.keyBeyond seed).toNat 1952)

/-- The 3,309 bytes of a signature; free where the bounds of Appendix C are met (log 9). -/
def mlDsaSign (seed rnd msg : List Byte) : List Byte :=
  (dsaSign seed rnd msg).getD (leBytes (Config.signBeyond seed rnd msg).toNat 3309)

end Sys2Proof.Machine
end

