-- ==== Sys2Proof/Machine/Sweep.lean ====
section
/-!
DEFINITION. Element contexts and sweeps (15_sweep.md R383 to R403).
-/

namespace Sys2Proof.Machine

/-! ### Slots and sweep entries -/

/-- Slot n (R383). -/
def State.slot (s : State) (n : Nat) : Slot :=
  match n with
  | 0 => s.lanes.slot0
  | 1 => s.lanes.slot1
  | 2 => s.lanes.slot2
  | _ => s.lanes.slot3

/-- Replace slot n. -/
def setSlot (s : State) (n : Nat) (x : Slot) : State :=
  match n with
  | 0 => { s with lanes.slot0 := x }
  | 1 => { s with lanes.slot1 := x }
  | 2 => { s with lanes.slot2 := x }
  | _ => { s with lanes.slot3 := x }

/-- The number of elements (R384). -/
def Slot.count (x : Slot) : Nat := fld x.shape.toNat 0 32
/-- The element container (R384). -/
def Slot.ct (x : Slot) : Nat := fld x.shape.toNat 32 3
/-- The element width (R384). -/
def Slot.w (x : Slot) : Nat := fld x.shape.toNat 36 5 + 1
/-- Elements are signed (R384). -/
def Slot.sgn (x : Slot) : Bool := bitOf x.shape.toNat 41
/-- The number of context words (R383). -/
def Slot.nw (x : Slot) : Nat := 2 ^ fld x.shape.toNat 42 2
/-- Run elements are written back (R384). -/
def Slot.welem (x : Slot) : Bool := bitOf x.shape.toNat 44
/-- Bits of an element's container (R160). -/
def Slot.bits (x : Slot) : Nat := 2 ^ x.ct

/-- A descriptor meets R384: no reserved bit, every value listed and every address aligned. -/
def slotOk (d : List Nat) : Bool :=
  let w (k : Nat) : Nat := d.getD k 0
  let h := w 3
  let ct := fld h 32 3
  let width := fld h 36 5 + 1
  (ct != 4 || w 0 % 2 == 0) && (ct != 5 || w 0 % 4 == 0) && w 1 % 16 == 0 && w 2 % 8 == 0 && fld h 0 32 != 0 && ct ≤ 5 &&
    fld h 35 1 == 0 && width ≤ min 16 (2 ^ ct) && fld h 42 2 != 3 && fld h 45 19 == 0 &&
    w 4 == 0 && w 5 == 0 && w 6 == 0 && w 7 == 0

/-- Field ts of a sweep entry (R390). -/
def LoopEntry.ts (e : LoopEntry) : Nat := fld e.arg.toNat 0 2
/-- Field e of a sweep entry: the register of vE (R390). -/
def LoopEntry.vE (e : LoopEntry) : Nat := fld e.arg.toNat 2 6
/-- Field cw of a sweep entry (R390). -/
def LoopEntry.cw (e : LoopEntry) : Nat := fld e.arg.toNat 8 5
/-- Field ld of a sweep entry: a chunk is held (R390). -/
def LoopEntry.ld (e : LoopEntry) : Bool := bitOf e.arg.toNat 13
/-- Field d of a sweep entry (R390). -/
def LoopEntry.d (e : LoopEntry) : Nat := fld e.arg.toNat 14 10
/-- Field c of a sweep entry: the chunk length (R390). -/
def LoopEntry.c (e : LoopEntry) : Nat := fld e.arg.toNat 24 11

/-- Set ld and the cursor of a sweep entry (R390). -/
def LoopEntry.at (e : LoopEntry) (ld : Bool) (cursor : Nat) : LoopEntry :=
  { e with arg := w64 (setFld e.arg.toNat 13 1 (bNat ld)), index := w64 cursor, failed := false }

/-- A sweep of slot n is on the loop stack (R388). -/
def sweeping (s : State) (n : Nat) : Bool := s.loops.any (fun e => e.kind == .sweep && e.ts == n)

/-- The address of a context (R384). -/
def Slot.ctxAddr (x : Slot) (i : Nat) : Word := x.ctx + w64 (4 * x.nw * i)
/-- The address of an element's lowest byte (R161, R384). -/
def Slot.elemAddr (x : Slot) (i : Nat) : Word := x.base + w64 (i * x.bits / 8)
/-- The address of awake word k (R386). -/
def Slot.awakeAddr (x : Slot) (k : Nat) : Word := x.skip + w64 (8 * k)
/-- The address of the summary word of group g (R386). -/
def Slot.summaryAddr (x : Slot) (g : Nat) : Word := x.skip + w64 (8 * ceilDiv x.count 64 + 8 * (g / 64))

/-- The awake words that the elements x to x + l - 1 touch. -/
def awakeWords (x l : Nat) : List Nat := upto (x / 64) ((x + l - 1) / 64 + 1 - x / 64)
/-- The groups that the elements x to x + l - 1 touch. -/
def groupsOf (x l : Nat) : List Nat := upto (x / 128) ((x + l - 1) / 128 + 1 - x / 128)

/-! ### Translation -/

/-- A range that a step accesses: kind, address, bytes, and whether it is part of the skip map (R386, R480). -/
structure Range where
  k : Access
  va : Word
  n : Nat
  map : Bool
  deriving DecidableEq, Repr

/-- The trap of a failing access in a range's kind: a load page fault, or a store page fault (R402, R155). -/
def rangeTrap (k : Access) (f : MemFault) : Trap :=
  match f.kind with
  | .page => { code := if k.writes then 4 else 3, eaddr := f.addr }
  | .access => { code := 5, eaddr := f.addr }
  | .misalign => { code := 6, eaddr := f.addr }

/-- The pieces of a range that lie in one page each. -/
def Range.runs (r : Range) : List (Word × Nat) := pageRuns (r.n / 65536 + 2) r.va r.n

/-- Why a range cannot be translated: a failure of translation, or an object on a control page or in the window (06_memory.md
R480). -/
def rangeFault (s : State) (r : Range) : Option Trap :=
  r.runs.findSome? (fun p =>
    if r.map && windowBase ≤ p.1.toNat then some { code := 5, eaddr := p.1 }
    else match translate s r.k p.1 with
      | .error f => some (rangeTrap r.k f)
      | .ok h => if h.type = .control then some { code := 5, eaddr := p.1 } else none)

/-- The first poisoned byte that the access of a range reads (18_platform.md R475). -/
def rangePoison (s : State) (r : Range) : Option Trap :=
  if s.memory.poison = [] ∨ r.k = .store then none
  else r.runs.findSome? (fun p =>
    match translate s r.k p.1 with
    | .error _ => none
    | .ok h => (firstPoison s p.1 (upto h.loc p.2)).map (fun x => { code := 11, sub := x.2, eaddr := x.1 }))

/-- The trap at the lowest address. -/
def lowestTrap (ts : List Trap) : Option Trap :=
  ts.foldl (fun r x => match r with
    | none => some x
    | some y => some (if x.eaddr.toNat < y.eaddr.toNat then x else y)) none

/-- The failure of some ranges: the translation that fails at the lowest address, or else the lowest poisoned byte (R402, R155,
17_system.md R439). -/
def lowestRange (s : State) (rs : List Range) : Option Trap :=
  (lowestTrap (rs.filterMap (rangeFault s))).or (lowestTrap (rs.filterMap (rangePoison s)))

/-- Go on only when every range can be accessed. -/
def checkRanges (s : State) (rs : List Range) : Run Unit :=
  match lowestRange s rs with
  | none => .ok ()
  | some t => .error (.trap t)

/-- The translation of an access that has been checked, with the reference and dirty bits set (06_memory.md R150). -/
def touch (s : State) (k : Access) (va : Word) : Option Hit × State :=
  match translate s k va with
  | .error _ => (none, s)
  | .ok h => (some h, markLeaf s h k.writes)

/-- Read n bytes at an address that has been checked. -/
def readAt (s : State) (va : Word) (n : Nat) : Nat × State :=
  match touch s .load va with
  | (some h, t) => (t.num h.loc n, t)
  | (none, t) => (0, t)

/-- Store n bytes at an address that has been checked: an ordinary store, or a synchronising one by its page. -/
def writeAt (s : State) (va : Word) (n v : Nat) : State :=
  match touch s .store va with
  | (some h, t) => storeAll (if h.type = .sync then syncByte else storeByte) (accessOrder t (h.type == .sync) (upto h.loc n))
      (upto h.loc n) (leBytes v n)
  | (none, t) => t

/-- A synchronising read-modify-write of a 64-bit word at an address that has been checked: the old value (R386). -/
def updateAt (s : State) (va : Word) (f : Nat → Nat) : Nat × State :=
  match touch s .atomic va with
  | (some h, t) => atomicAt t h.loc 8 f
  | (none, t) => (0, t)

/-- The skip-map words of the elements x to x + l - 1 (R392, R394). -/
def mapRanges (x : Slot) (i l : Nat) : List Range :=
  (awakeWords i l).map (fun k => ⟨.atomic, x.awakeAddr k, 8, true⟩) ++
    (groupsOf i l).map (fun g => ⟨.atomic, x.summaryAddr g, 8, true⟩)

/-- Everything that Take translates (R392). The bytes of these ranges are also those whose poison stops Take, whatever it goes on
to read (18_platform.md R475: DESIGN CHOICE, log 38). Where a page that it translates for a load and for a store has no
translation, the load's fault is raised (R402: DESIGN CHOICE, log 38). -/
def takeRanges (x : Slot) (i l : Nat) : List Range :=
  let lo := i * x.bits / 8
  let n := ceilDiv ((i + l) * x.bits) 8 - lo
  let e (k : Access) : Range := ⟨k, x.base + w64 lo, n, false⟩
  let c (k : Access) : Range := ⟨k, x.ctxAddr i, 4 * x.nw * l, false⟩
  mapRanges x i l ++ [e .load] ++ (if x.welem then [e .store] else []) ++ [c .load, c .store]

/-! ### Take -/

/-- The class of an element (R392). -/
inductive Class where
  | none | run | heldAfter | heldCounter
  deriving DecidableEq, Repr

/-- What Take knows of an element: its class, its context words as Load places them, and that its wait is unlisted. -/
structure Taken where
  cls : Class
  words : List Nat
  bad : Bool
  deriving DecidableEq, Repr

/-- The counter value that a COUNTER header waits for; none when the header is unlisted (R385). -/
def counterWait (nw : Nat) (words : List Nat) : Option Nat :=
  let h := words.headD 0
  if nw = 1 ∨ fld h 16 16 ≠ 0 then none
  else if nw = 2 then some (words.getD 1 0)
  else some (words.getD 1 0 + words.getD 2 0 * 2 ^ 32)

/-- Classify a taken element (R385, R392). -/
def classify (s : State) (nw : Nat) (words : List Nat) : Taken :=
  let h := words.headD 0
  let op := fld h 12 20
  match fld h 8 4 with
  | 0 => ⟨.run, words, false⟩
  | 1 => ⟨.run, words, false⟩
  | 2 =>
    if op = 0 then ⟨.run, words, false⟩
    else ⟨.heldAfter, setFld h 12 20 (op - 1) :: words.tail, false⟩
  | 3 =>
    match counterWait nw words with
    | none => ⟨.none, words, true⟩
    | some v => if v ≤ (s.tc (fld h 12 4)).toNat then ⟨.run, words, false⟩ else ⟨.heldCounter, words, false⟩
  | 4 => ⟨.none, words, false⟩
  | _ => ⟨.none, words, true⟩

/-- The context words of element i (R384). -/
def readContext (s : State) (x : Slot) (i : Nat) : List Nat × State :=
  let r := readAt s (x.ctxAddr i) (4 * x.nw)
  ((upto 0 x.nw).map (fun j => fld r.1 (32 * j) 32), r.2)

/-- The mask of the bits of awake word k that belong to the elements i to i + l - 1. -/
def awakeMask (k i l : Nat) : Nat :=
  let lo := max i (64 * k)
  let hi := min (i + l) (64 * k + 64)
  (2 ^ (hi - lo) - 1) * 2 ^ (lo - 64 * k)

/-- Clear the awake bits of a chunk: the elements that were awake (R392). -/
def takeBits (s : State) (x : Slot) (i l : Nat) : List Nat → List Nat × State
  | [] => ([], s)
  | k :: t =>
    let m := awakeMask k i l
    let r := updateAt s (x.awakeAddr k) (fun old => old &&& (2 ^ 64 - 1 - m))
    let got := (upto (64 * k) 64).filter (fun e => bitOf (r.1 &&& m) (e - 64 * k))
    let u := takeBits r.2 x i l t
    (got ++ u.1, u.2)

/-- Read and classify the elements i to i + n - 1; `awake` lists those taken (R392). -/
def classifyAll (s : State) (x : Slot) (awake : List Nat) (i : Nat) : Nat → List Taken × State
  | 0 => ([], s)
  | n + 1 =>
    let c := readContext s x i
    let t := if awake.contains i then classify c.2 x.nw c.1 else ⟨.none, c.1, false⟩
    let r := classifyAll c.2 x awake (i + 1) n
    (t :: r.1, r.2)

/-- Count unlisted waits in the slot (R383, R392). -/
def addBad (s : State) (n k : Nat) : State :=
  let x := s.slot n
  setSlot s n { x with bad := BitVec.ofNat 20 (min (x.bad.toNat + k) (2 ^ 20 - 1)) }

/-- Take(x, L) of slot n, after its translations (R392). -/
def take (s : State) (n i l : Nat) : List Taken × State :=
  let x := s.slot n
  let b := takeBits s x i l (awakeWords i l)
  let r := classifyAll (endPublish b.2) x b.1 i l
  (r.1, addBad r.2 n (r.1.filter (·.bad)).length)

/-! ### Load -/

/-- The value of element i in its register (R393, R162). -/
def loadElem (s : State) (x : Slot) (i : Nat) : Nat × State :=
  let nb := max 1 (x.bits / 8)
  let r := readAt s (x.elemAddr i) nb
  let v := if x.bits < 8 then fld r.1 (i * x.bits % 8) x.bits else r.1
  (v % 2 ^ x.w, r.2)

/-- The values of the elements i to i + n - 1. -/
def loadElems (s : State) (x : Slot) (i : Nat) : Nat → List Nat × State
  | 0 => ([], s)
  | n + 1 =>
    let v := loadElem s x i
    let r := loadElems v.2 x (i + 1) n
    (v.1 :: r.1, r.2)

/-- The map of the elements whose class is k (R393). -/
def classMap (ts : List Taken) (k : Class) : BitVec 1024 := BitVec.ofNat 1024 (bitsNat (ts.map (fun t => t.cls == k)))

/-- Write c elements of the context register w(cw + j): word j of each context, zero beyond the chunk (R393). -/
def loadWords (s : State) (cw c : Nat) (ts : List Taken) (j : Nat) : State :=
  let r := cw + j
  dirtyW { s with lanes.wreg := mapFill s.lanes.wreg (r * 1024) (min c 1024) (fun k =>
    BitVec.ofNat 32 (((ts[k - r * 1024]?).map (fun t => t.words.getD j 0)).getD 0)) } r

/-- Load(x, L) for an entry (R393). -/
def loadChunk (s : State) (e : LoopEntry) (i : Nat) (ts : List Taken) : State :=
  let x := s.slot e.ts
  let vs := loadElems s x i ts.length
  let s := vs.2
  let v := fillReg s.lanes.vreg e.vE ⟨0, e.c, s.vlmax⟩ s.tailDead (fun k => some (vs.1.getD k 0))
  let s := { s with lanes.vreg := v, lanes.vdirty := s.lanes.vdirty ||| w64 (2 ^ e.vE) }
  let s := (upto 0 x.nw).foldl (fun s j => loadWords s e.cw e.c ts j) s
  let s := writeMask s 6 0 e.c (fun k => (ts[k]?).any (fun t => t.cls == .run))
  { s with
    lanes.runSet := classMap ts .run
    lanes.heldAfter := classMap ts .heldAfter
    lanes.heldCounter := classMap ts .heldCounter }

/-! ### Put -/

/-- What Put writes of an element: its class, its context words as they stand, and its value. -/
structure Put where
  idx : Nat
  cls : Class
  words : List Nat
  value : Nat
  deriving DecidableEq, Repr

/-- The wait in a header lets the element stay awake; none when it is unlisted (R385, R394). A COUNTER that R385 calls unlisted (a
context of 4 bytes, or op[19:4] nonzero) sets no bit and counts as bad, though R394 names the kind COUNTER alone (DESIGN CHOICE,
log 38). -/
def staysAwake (nw : Nat) (words : List Nat) : Option Bool :=
  match fld (words.headD 0) 8 4 with
  | 0 => some true
  | 1 => some false
  | 2 => some true
  | 3 => (counterWait nw words).map (fun _ => true)
  | 4 => some false
  | _ => none

/-- The element's awake bit is set by Put (R394). -/
def Put.awake (nw : Nat) (p : Put) : Bool :=
  match p.cls with
  | .run => (staysAwake nw p.words).getD false
  | .heldAfter => true
  | .heldCounter => true
  | .none => false

/-- The awake words of a group (R386). -/
def groupWords (x : Slot) (g : Nat) : List Nat := awakeWords (128 * g) (min 128 (x.count - 128 * g))

/-- The awake words that Put reads: those of the groups in which it sets no bit (R394). -/
def groupRanges (x : Slot) (i l : Nat) (is : List Nat) : List Range :=
  ((groupsOf i l).filter (fun g => !is.any (fun j => j / 128 == g))).flatMap (fun g =>
    (groupWords x g).map (fun k => ⟨.load, x.awakeAddr k, 8, true⟩))

/-- Everything that Put writes, and the skip-map words it reads (R394, 06_memory.md R480). That the words which Put only reads,
and those which it may come not to write, are translated before it too is the model's choice (log 38). -/
def putRanges (x : Slot) (i l : Nat) (ps : List Put) : List Range :=
  mapRanges x i l ++ groupRanges x i l ((ps.filter (Put.awake x.nw)).map (·.idx)) ++ ps.flatMap (fun p => match p.cls with
    | .run => ⟨.store, x.ctxAddr p.idx, 4 * x.nw, false⟩ ::
        (if x.welem then [⟨.store, x.elemAddr p.idx, max 1 (x.bits / 8), false⟩] else [])
    | .heldAfter => [⟨.store, x.ctxAddr p.idx, 4, false⟩]
    | _ => [])

/-- The number in context words. -/
def wordsNum : List Nat → Nat
  | [] => 0
  | w :: t => w + 2 ^ 32 * wordsNum t

/-- Store an element of fewer than 8 bits: the other bits of its byte, which is read through the store's own translation, stay
as they are (R394, R162). -/
def storeBits (s : State) (va : Word) (lo n v : Nat) : State :=
  match touch s .store va with
  | (some h, t) =>
    let t := accessOrder t (h.type == .sync) [h.loc]
    (if h.type = .sync then syncByte else storeByte) t h.loc (BitVec.ofNat 8 (setFld (t.byte h.loc).toNat lo n v))
  | (none, t) => t

/-- Write back one element (R394, R162). -/
def putElem (x : Slot) (s : State) (p : Put) : State :=
  match p.cls with
  | .run =>
    let s := writeAt s (x.ctxAddr p.idx) (4 * x.nw) (wordsNum p.words)
    if !x.welem then s
    else
      let va := x.elemAddr p.idx
      let v := if x.sgn then truncN (sext p.value x.w) x.bits else p.value % 2 ^ x.w
      if x.bits < 8 then storeBits s va (p.idx * x.bits % 8) x.bits v
      else writeAt s va (x.bits / 8) v
  | .heldAfter => writeAt s (x.ctxAddr p.idx) 4 (p.words.headD 0)
  | _ => s

/-- Set the awake bits of some elements, one atomic for each awake word with a bit to set (R394, R397). -/
def setAwake (s : State) (x : Slot) (is : List Nat) (k : Nat) : State :=
  let m := ((upto 0 64).filter (fun b => is.contains (64 * k + b))).foldl (fun m b => m + 2 ^ b) 0
  if m = 0 then s else (updateAt s (x.awakeAddr k) (fun old => old ||| m)).2

/-- Whether every awake bit of the group's elements reads 0, and the state after the reads (R394, 06_memory.md R150). -/
def groupAsleep (s : State) (x : Slot) (g : Nat) : Bool × State :=
  (groupWords x g).foldl (fun r k =>
    let v := readAt r.2 (x.awakeAddr k) 8
    (r.1 && (v.1 &&& awakeMask k (128 * g) (min 128 (x.count - 128 * g)) == 0), v.2)) (true, s)

/-- Maintain the summary bit of a group (R394). -/
def putSummary (s : State) (x : Slot) (is : List Nat) (g : Nat) : State :=
  let b := 2 ^ (g % 64)
  if is.any (fun i => i / 128 == g) then (updateAt s (x.summaryAddr g) (fun old => old ||| b)).2
  else
    let r := groupAsleep s x g
    if r.1 then (updateAt r.2 (x.summaryAddr g) (fun old => old &&& (2 ^ 64 - 1 - b))).2 else r.2

/-- Put(x, L) of slot n, after its translations (R394). -/
def put (s : State) (n i l : Nat) (ps : List Put) : State :=
  let x := s.slot n
  let s := ps.foldl (putElem x) s
  let s := publishAll s
  let is := (ps.filter (Put.awake x.nw)).map (·.idx)
  let s := (awakeWords i l).foldl (fun s k => setAwake s x is k) s
  let s := addBad s n (ps.filter (fun p => p.cls == .run && (staysAwake x.nw p.words).isNone)).length
  (groupsOf i l).foldl (fun s g => putSummary s x is g) s

/-- The held chunk as Put writes it: the classes recorded at Take, the context registers and vE (R393, R394). -/
def heldPuts (s : State) (e : LoopEntry) (l : Nat) : List Put :=
  let x := s.slot e.ts
  (upto 0 l).map (fun k =>
    let cls : Class := if s.lanes.runSet.getLsbD k then .run else if s.lanes.heldAfter.getLsbD k then .heldAfter
      else if s.lanes.heldCounter.getLsbD k then .heldCounter else .none
    ⟨e.index.toNat + k, cls, (upto 0 x.nw).map (fun j => s.word (e.cw + j) k), (mapGet s.lanes.vreg (vkey e.vE k)).toNat⟩)

/-- No chunk is held: the recorded classes are empty (17_system.md R454). -/
def forgetClasses (s : State) : State :=
  { s with lanes.runSet := 0, lanes.heldAfter := 0, lanes.heldCounter := 0 }

/-- The length of the chunk at the cursor (R391, R394). -/
def chunkLen (s : State) (e : LoopEntry) : Nat := min e.c ((s.slot e.ts).hi.toNat - e.index.toNat)

/-- Write back the held chunk when there is one; the cursor that follows (R394, R395). -/
def closeChunk (s : State) (e : LoopEntry) : Run (State × LoopEntry) :=
  if !e.ld then .ok (s, e)
  else do
    let l := chunkLen s e
    let ps := heldPuts s e l
    checkRanges s (putRanges (s.slot e.ts) e.index.toNat l ps)
    pure (forgetClasses (put s e.ts e.index.toNat l ps), e.at false (e.index.toNat + l))

/-! ### Seek -/

/-- Some summary bit of a chunk's groups is set (R391). -/
def summarySet (s : State) (x : Slot) (i l : Nat) : Bool × State :=
  let s := syncOrder s
  ((groupsOf i l).any (fun g => bitOf (readAt s (x.summaryAddr g) 8).1 (g % 64)),
    (groupsOf i l).foldl (fun s g => (readAt s (x.summaryAddr g) 8).2) s)

/-- The summary words that Seek reads (R391). -/
def summaryRanges (x : Slot) (i l : Nat) : List Range :=
  (groupsOf i l).map (fun g => ⟨.load, x.summaryAddr g, 8, true⟩)

/-- The sequencer after a partial seek, or before a chunk whose Take fails (R391, R402). -/
def seekStop (s : State) (e : LoopEntry) (rest : List LoopEntry) : State :=
  { s with loops := e :: rest, pc := e.start + w64 (4 * e.d) }

/-- The sweep has ended (R391). -/
def sweepEnd (s : State) (e : LoopEntry) (rest : List LoopEntry) : State :=
  let x := s.slot e.ts
  { setSlot s e.ts { x with sweeps := x.sweeps + 1 } with loops := rest, pc := e.start + w64 (4 * e.d + 4) }

/-- What Put writes of a chunk whose run set is empty (R391, R394). -/
def idlePuts (i l : Nat) (ts : List Taken) : List Put :=
  (upto i l).zip ts |>.map (fun p => (⟨p.1, p.2.cls, p.2.words, 0⟩ : Put))

/-- What Seek does with the chunk at the cursor (R391): it passes over the chunk, holds it, or meets a failure before it has
taken an awake bit (R402). -/
inductive Chunk where
  | pass (s : State)
  | hold (s : State)
  | fail (s : State) (t : Trap)

/-- Seek at one chunk of l elements from element i on (R391, R402). A failure of the summary read is a load's, at the summary
word's address, and stops Seek as one of Take does (DESIGN CHOICE, log 37). Poison that Take or Load meets stops Seek as a
failing translation does, and so does a failing Put of a chunk with an empty run set, whose Take is undone (DESIGN CHOICE, log
38). -/
def seekChunk (s : State) (e : LoopEntry) (i l : Nat) : Chunk :=
  let x := s.slot e.ts
  match lowestRange s (summaryRanges x i l) with
  | some t => .fail s t
  | none =>
    let g := summarySet s x i l
    if !g.1 then .pass g.2
    else match lowestRange g.2 (takeRanges x i l) with
      | some t => .fail g.2 t
      | none =>
        let t := take g.2 e.ts i l
        if t.1.any (fun y => y.cls == .run) then .hold (loadChunk t.2 e i t.1)
        else match lowestRange t.2 (putRanges x i l (idlePuts i l t.1)) with
          | some f => .fail g.2 f
          | none => .pass (put t.2 e.ts i l (idlePuts i l t.1))

/-- Seek (R391): at most n more chunks. A failure stops it as a partial seek does, with the cursor at the failing chunk
(R402). -/
def seek : Nat → State → LoopEntry → List LoopEntry → State
  | 0, s, e, rest => if e.index.toNat < (s.slot e.ts).hi.toNat then seekStop s e rest else sweepEnd s e rest
  | n + 1, s, e, rest =>
    let i := e.index.toNat
    if (s.slot e.ts).hi.toNat ≤ i then sweepEnd s e rest
    else
      let l := chunkLen s e
      match seekChunk s e i l with
      | .fail t _ => seekStop t { e with failed := true } rest
      | .hold t => { t with loops := e.at true i :: rest, pc := e.start }
      | .pass t => seek n t (e.at false (i + l)) rest

/-- Commit a `sweep` or `snext` with its Seek, a partial one included (R391, R402). -/
def commitSeek (s : State) (e : LoopEntry) (rest : List LoopEntry) (c : Commit) : State :=
  { seek 256 (counted s) e rest with commit := some c }

/-- The failure that a `snext` raises before it performs anything: that of the chunk at the cursor, at which the `sweep` or
`snext` before it has stopped (R402). -/
def cursorFault (s : State) (e : LoopEntry) : Option Trap :=
  if !e.failed ∨ e.ld ∨ (s.slot e.ts).hi.toNat ≤ e.index.toNat then none
  else match seekChunk s e e.index.toNat (chunkLen s e) with
    | .fail _ t => some t
    | _ => none

/-! ### Instructions -/

/-- The eight words of a 64-byte descriptor that an ordinary load of the activation reads (R388, 11_sync.md R153). -/
def loadDescriptor (s : State) (va : Word) : Run (State × List Word) :=
  if va.toNat % 64 ≠ 0 then misaligned va
  else do
    let h ← orTrap 3 (translate s .load va)
    if h.type = .control then violation va
    else
      checkPoison s va (upto h.loc 64)
      let u := markLeaf (accessOrder s (h.type == .sync) (upto h.loc 64)) h false
      pure (u, (upto 0 8).map (fun k => w64 (u.num (h.loc + 8 * k) 8)))

/-- `tdecl` (R388). -/
def execTdecl (a : BitVec 5) (n : BitVec 2) (s : State) : Out :=
  finish s (do
    legalIf (!sweeping s n.toNat)
    let r ← loadDescriptor s (s.rd a)
    if slotOk (r.2.map (·.toNat)) then
      let w (k : Nat) : Word := r.2.getD k 0
      let x : Slot := ⟨true, w 0, w 1, w 2, w 3, 0, (w 3).setWidth 32, 0, 0⟩
      pure (retire (setSlot r.1 n.toNat x))
    else rejected (s.rd a))

/-- Fetch a word that `sweep` searches: one that cannot be fetched raises the fetch page fault (R390). -/
def fetchSearched (s : State) (va : Word) : Run (Fetched × State) :=
  match translate s .fetch va with
  | .error _ => .error (.trap { code := 2, eaddr := va })
  | .ok _ => fetchAny s va

/-- Where the search for a word ends (R390): at the word's index, past the last word, or at a poisoned word, with its
integrity error. -/
inductive Search where
  | at (d : Nat)
  | missing
  | poisoned (e : Run Unit)

/-- The search ended at index d. -/
def Search.isAt (d : Nat) : Search → Bool
  | .at i => i == d
  | _ => false

/-- The search of n words from an address on for the first that equals w (R390). A poisoned word ends it (18_platform.md
R475: DESIGN CHOICE, log 16). -/
def findWord (s : State) (va : Word) (w : Nat) : Nat → Nat → Run (Search × State)
  | 0, _ => .ok (.missing, s)
  | n + 1, i => do
    let r ← fetchSearched s va
    if !r.1.clean then pure (.poisoned r.1.sound, r.2)
    else if r.1.word = w then pure (.at i, r.2) else findWord r.2 (va + 4) w n (i + 1)

/-- `sweep` (R390): the fetch page fault of a searched word comes before every case in which it is illegal, and its integrity
error after them (17_system.md R439). -/
def execSweep (e : BitVec 6) (c : BitVec 5) (n : BitVec 2) (s : State) : Out :=
  let x := s.slot n.toNat
  finish s (do
    let r ← findWord s (s.pc + 4) (0x08000014 + n.toNat * 2 ^ 17) 1024 0
    legalIf (s.vOk e && x.valid && s.loops.all (fun y => y.kind != .sweep) && s.loops.length < 6 && !s.inStrip &&
      !s.inFrame && !s.atLoopEnd && c.toNat % x.nw == 0 && s.lanes.vl != 0 && s.lanes.vl.toNat ≤ 1024)
    match r.1 with
    | .missing => illegal
    | .poisoned e => do
      let _ ← e
      pure s
    | .at d =>
      let arg := n.toNat + e.toNat * 2 ^ 2 + c.toNat * 2 ^ 8 + d * 2 ^ 14 + s.lanes.vl.toNat * 2 ^ 24
      pure (commitSeek r.2 ⟨.sweep, s.pc + 4, 0xFFFFFFFFFFFFFFFC, w64 arg, x.lo.setWidth 64, false⟩ s.loops .plain))

/-- The top loop entry when it is a sweep of slot n; the instruction is illegal otherwise. -/
def topSweep (s : State) (n : BitVec 2) : Run (LoopEntry × List LoopEntry) :=
  match s.loops with
  | [] => illegal
  | e :: rest => if e.kind = .sweep ∧ e.ts = n.toNat then .ok (e, rest) else illegal

/-- `snext` (R394): a sweep chunk boundary (R401). -/
def execSnext (n : BitVec 2) (s : State) : Out :=
  finish s (do
    let t ← topSweep s n
    let e := t.1
    legalIf (!s.atLoopEnd && s.pc == e.start + w64 (4 * e.d) && s.lanes.vl.toNat == e.c && e.vE < s.nr)
    match cursorFault s e with
    | some f => .error (.trap f)
    | none => do
      let r ← closeChunk s e
      pure (commitSeek r.1 r.2 t.2 .boundary))

/-- `swait` (R396). -/
def execSwait (v : BitVec 5) (m : BitVec 3) (n : BitVec 2) (s : State) : Out :=
  finish s (do
    let t ← topSweep s n
    legalIf t.1.ld
    let r := t.1.cw
    let w := mapFill s.lanes.wreg (r * 1024) (min (min s.lanes.vl.toNat t.1.c) 1024) (fun key =>
      let old := mapGet s.lanes.wreg key
      if s.maskBit m.toNat (key - r * 1024) then
        BitVec.ofNat 32 (old.toNat % 256 + fld (s.rd v).toNat 0 24 * 2 ^ 8)
      else old)
    pure (retire (dirtyW { s with lanes.wreg := w } r)))

/-- The ranges of a wake of some elements (R397). -/
def wakeRanges (x : Slot) (is : List Nat) : List Range :=
  is.flatMap (fun i => [⟨.atomic, x.awakeAddr (i / 64), 8, true⟩, ⟨.atomic, x.summaryAddr (i / 128), 8, true⟩])

/-- Wake some elements below the count: publish, set the awake bits, then the summary bits, each in ascending order of
address (R397). -/
def wakeAll (s : State) (x : Slot) (is : List Nat) : State :=
  let s := publishAll s
  let ks := sortedDistinct (is.map (fun i => i / 64))
  let s := ks.foldl (fun s k => setAwake s x is k) s
  let gs := sortedDistinct (is.map (fun i => i / 8192))
  gs.foldl (fun s g =>
    let m := ((upto 0 64).filter (fun b => is.any (fun i => i / 128 == 64 * g + b))).foldl (fun m b => m + 2 ^ b) 0
    (updateAt s (x.summaryAddr (64 * g)) (fun old => old ||| m)).2) s

/-- `wake` (R397). -/
def execWake (v : BitVec 5) (n : BitVec 2) (s : State) : Out :=
  let x := s.slot n.toNat
  let i := (s.rd v).toNat
  finish s (do
    legalIf x.valid
    if x.count ≤ i then pure (retire s)
    else
      checkRanges s (wakeRanges x [i])
      pure (retire (wakeAll s x [i])))

/-- `vwake` (R397). -/
def execVwake (v : BitVec 6) (m : BitVec 3) (n : BitVec 2) (s : State) : Out :=
  let x := s.slot n.toNat
  finish s (do
    legalIf (s.vOk v && x.valid)
    let ks := (upto 0 s.lanes.vl.toNat).filter (fun k => s.maskBit m.toNat k)
    let is := (ks.map (fun k => s.elem v.toNat k (widthOf s.ewa))).filter (fun i => decide (i < x.count))
    checkRanges s (wakeRanges x is)
    pure (retire (wakeAll s x is)))

/-- `sctl.range` (R389). -/
def execSctlRange (v : BitVec 5) (n : BitVec 2) (s : State) : Out :=
  let x := s.slot n.toNat
  let lo := fld (s.rd v).toNat 0 32
  let hi := fld (s.rd v).toNat 32 32
  finish s (do
    legalIf (x.valid && !sweeping s n.toNat)
    if lo ≤ hi ∧ hi ≤ x.count then
      pure (retire ((setSlot s n.toNat { x with lo := BitVec.ofNat 32 lo, hi := BitVec.ofNat 32 hi }).wr v 0))
    else pure (retire (s.wr v 1)))
/-- `sctl.stat` (R389). -/
def execSctlStat (v : BitVec 5) (n : BitVec 2) (s : State) : Out :=
  let x := s.slot n.toNat
  finish s (
    if x.valid then
      pure (retire (s.wr v (w64 (x.sweeps.toNat + x.bad.toNat * 2 ^ 32 + bNat (sweeping s n.toNat) * 2 ^ 52 + 2 ^ 53))))
    else pure (retire (s.wr v 0)))
/-- `sctl.abort` (R389, R395). -/
def execSctlAbort (v : BitVec 5) (n : BitVec 2) (s : State) : Out :=
  finish s (do
    let t ← topSweep s n
    let r ← closeChunk s t.1
    pure (goto ({ r.1 with loops := t.2 }.wr v r.2.index) (s.pc + 4) false))
/-- `sctl.rel` (R389). -/
def execSctlRel (v : BitVec 5) (n : BitVec 2) (s : State) : Out :=
  finish s (do
    legalIf (!sweeping s n.toNat)
    pure (retire ((setSlot s n.toNat Slot.empty).wr v 0)))

end Sys2Proof.Machine
end

