-- ==== Sys2Proof/Machine/Image.lean ====
section
/-!
DEFINITION. Context images: what `ctxsave` writes and `ctxload` reads and checks (17_system.md R454 to R456).
-/

namespace Sys2Proof.Machine

/-! ### The layout -/

/-- The CSRs of the image from offset 0x180 on, in order, with the bits each may hold (17_system.md R454, R15); those of `wfields`
are the bits of a shape (13_work.md R340). Bits [1:0] of `uepc`, which read as zero (12_engines.md R326), count as reserved (DESIGN
CHOICE, log 37). -/
def imageCsrs : List (Nat × Nat) :=
  [(0x220, 2 ^ 19 - 1), (0x221, 15), (0x222, 127), (0x223, 127), (0x224, 127), (0x020, 2 ^ 18 - 1), (0x022, 2 ^ 64 - 1),
   (0x023, 2 ^ 32 - 1), (0x024, 255), (0x025, 0xFFFFFF1F1FFF), (0x026, 0x1FFFFFFFFF07), (0x010, 7), (0x011, 31),
   (0x012, 15), (0x230, 2 ^ 64 - 1), (0x231, 0x77F7F7F7F7F7F), (0x030, 2 ^ 64 - 3), (0x031, 2 ^ 64 - 4), (0x032, 0x107FF)]

/-- The optional sections of an image by its present word, `vdirty`, `wdirty` and NR: offset and length (R454). -/
def imageSections (present vdirty wdirty nr : Nat) : List (Nat × Nat) :=
  ((upto 0 2).filter (fun l => bitOf present (11 + l))).map (fun l => (0x1000 + 0x2000 * l, 0x2000)) ++
  ((upto 0 4).filter (fun t => bitOf present t)).map (fun t => (0x5000 + 0xA000 * t, 0xA000)) ++
  ((upto 0 32).filter (fun k => bitOf wdirty k)).map (fun k => (0x2D000 + 4096 * k, 4096)) ++
  ((upto 1 7).filter (fun k => bitOf present (3 + k))).map (fun k => (0x4D000 + 32768 * (k - 1), 32768)) ++
  ((upto 0 nr).filter (fun k => bitOf vdirty k)).map (fun k => (0x85000 + k * (2 ^ 22 / nr), 2 ^ 22 / nr))

/-- The present word of the activation (R454). -/
def State.presentWord (s : State) : Nat :=
  let banks := bNat s.lanes.bank0.valid * 2 ^ 11 + bNat s.lanes.bank1.valid * 2 ^ 12
  match s.sched.act with
  | none => banks
  | some a => a.tilesPresent.toNat + a.masksPresent.toNat * 2 ^ 4 + banks

/-- The word that describes a bank, as `mstat.bank` (10_matrix.md R273). -/
def Bank.word (b : Bank) : Nat :=
  b.rows + b.klen * 2 ^ 6 + b.w * 2 ^ 17 + bNat b.sgn * 2 ^ 22 + b.cls.toNat * 2 ^ 23 + bNat b.valid * 2 ^ 25

/-- The four words of a loop entry (04_control.md R94). -/
def LoopEntry.words (e : LoopEntry) : List Nat :=
  let k := match e.kind with
    | .counted => 0
    | .vector => 1
    | .sweep => 2
  [e.start.toNat / 4 * 4 + k, e.last.toNat, e.arg.toNat, e.index.toNat]

/-- The frame state word (02_encoding.md R57). Where no frame is active, the whole word is zero, and an image's j, n and p are
then not kept (DESIGN CHOICE, log 37). -/
def Frame.word (f : Frame) : Nat :=
  if f.live then f.j.toNat + f.n.toNat * 2 ^ 16 + f.p.toNat * 2 ^ 32 + 2 ^ 63 else 0

/-- 64-bit numbers as bytes. -/
def wordBytes (ws : List Nat) : List Byte := ws.flatMap (fun w => leBytes w 8)

/-- Bytes filled up with zeros to n. -/
def padTo (n : Nat) (bs : List Byte) : List Byte := bs ++ zeros (n - bs.length)

/-- The 64 bytes of a slot (R454). -/
def slotBytes (x : Slot) : List Byte :=
  padTo 64 (wordBytes [x.base.toNat, x.ctx.toNat, x.skip.toNat, x.shape.toNat, x.lo.toNat + x.hi.toNat * 2 ^ 32,
    x.sweeps.toNat + x.bad.toNat * 2 ^ 32 + bNat x.valid * 2 ^ 63])

/-- The 512 bytes of a bank's header (R454). -/
def bankBytes (b : Bank) : List Byte :=
  padTo 512 (padTo 64 (wordBytes [b.word]) ++ (upto 0 32).flatMap (fun m => leBytes (b.rowScale m) 4) ++
    (upto 0 128).flatMap (fun k => leBytes (mapGet b.rexp k).toNat 2))

/-- The activation's own record in an image at va (R454). -/
def ownRecord (s : State) (va : Word) : List Nat :=
  match s.sched.act with
  | none => [va.toNat, 0, 0, 2 * 2 ^ 55]
  | some a => [va.toNat, a.record.frame.toNat, a.record.wid.toNat, setFld a.record.tag.toNat 55 2 2]

/-- The first 0xC00 bytes of the image of the activation, with its resume address (R454). The bytes that the table does not list are
written as zero (R455), and ctxload does not look at them (R456: DESIGN CHOICE, log 37). -/
def imageHead (s : State) (va resume : Word) : List Byte :=
  let home := (s.sched.act.map (·.home)).getD 0
  let csr (p : Nat × Nat) : Nat :=
    if p.1 = 0x022 then (csrRead s 0x022).toNat % 2 ^ s.nr else (csrRead s p.1).toNat
  let head := wordBytes (ownRecord s va ++ [resume.toNat, home + s.lanes.grantE.toNat * 2 ^ 16, s.block.getD 0,
    s.presentWord])
  let regs := wordBytes ((upto 0 32).map (fun k => (mapGet s.regs k).toNat) ++
    (upto 24 6).map (fun k => (mapGet s.shadow k).toNat))
  let b := padTo 0x180 (head ++ regs)
  let b := padTo 0x240 (b ++ wordBytes (imageCsrs.map csr))
  let b := padTo 0x308 (b ++ wordBytes (s.loops.length :: s.loops.flatMap LoopEntry.words))
  let strip := if s.strip.live then s.strip.len.toNat + 2 ^ 63 else 0
  let b := b ++ wordBytes [s.frame.word, strip] ++
    (upto 0 256).map (fun t => if s.strip.live then mapGet s.strip.pos t else 0)
  let b := padTo 0x420 b ++ (upto 0 4).flatMap (fun n => slotBytes (s.slot n))
  let b := padTo 0x600 b ++ bankBytes s.lanes.bank0 ++ bankBytes s.lanes.bank1
  padTo 0xC00 (b ++ leBytes s.lanes.runSet.toNat 128 ++ leBytes s.lanes.heldAfter.toNat 128 ++
    leBytes s.lanes.heldCounter.toNat 128)

/-- The bits of a plane as bytes: bit k of byte i is f (8 i + k); n bytes. -/
def planeBytes (n : Nat) (f : Nat → Bool) : List Byte := packBits n ((upto 0 (8 * n)).map f)

/-- The data of a bank (R454): physical row r at 256 r, plane q of column k at bit k mod 8 of byte 16 q + k div 8. -/
def bankSection (b : Bank) : List Byte :=
  (upto 0 32).flatMap (fun r => (upto 0 16).flatMap (fun q =>
    planeBytes 16 (fun k => (mapGet b.data (128 * r + k)).getLsbD q)))

/-- The 40 KiB of a tile with its metadata (R454). Those that R454 does not list, from 0x9800 on, are written as zero, and
`ctxload` does not look at them (DESIGN CHOICE, log 37). -/
def tileSection (x : Tile) : List Byte :=
  padTo 0xA000 ((upto 0 8192).flatMap (fun k => leBytes (mapGet x.elem k).toNat 4) ++
  (upto 0 256).flatMap (fun c => leBytes (x.colScale c) 4) ++
  (upto 0 1024).map (fun k => mapGet x.cexp k) ++
  padTo 0x1000 (leBytes (x.entries.length + x.overflow.toNat * 2 ^ 10) 4 ++ x.entries.flatMap (fun e => leBytes e.toNat 4)))

/-- The bytes of a section by its offset (R454). -/
def sectionBytes (s : State) (off : Nat) : List Byte :=
  if off < 0x5000 then bankSection (if off < 0x3000 then s.lanes.bank0 else s.lanes.bank1)
  else if off < 0x2D000 then tileSection (s.tile (BitVec.ofNat 2 ((off - 0x5000) / 0xA000)))
  else if off < 0x4D000 then
    let k := (off - 0x2D000) / 4096
    (upto 0 1024).flatMap (fun i => leBytes (s.word k i) 4)
  else if off < 0x85000 then
    let k := (off - 0x4D000) / 32768 + 1
    planeBytes 32768 (fun i => mapGet s.lanes.mask (vkey k i) == 1#1)
  else
    let k := (off - 0x85000) / (2 ^ 22 / s.nr)
    (upto 0 (1024 / s.nr)).flatMap (fun r =>
      planeBytes 4096 (fun l => (mapGet s.lanes.vreg (vkey k (r / 16 * 32768 + l))).getLsbD (r % 16)))

/-! ### Pages of an image -/

/-- The translated 64 KiB pages of an image: page number and translation. -/
abbrev ImagePages := List (Nat × Hit)

/-- Translate every page of an image's parts, the lowest failing address first (R455, R456). A control page takes scalar
accesses only (06_memory.md R151). -/
def imagePages (tr : Access → Word → Except MemFault Hit) (k : Access) (va : Word) (parts : List (Nat × Nat)) :
    Except MemFault ImagePages :=
  let runs := parts.flatMap (fun p => pageRuns (p.2 / 65536 + 2) (va + w64 p.1) p.2)
  let firsts := runs.foldl (fun (l : List (Nat × Word)) r =>
    if l.any (fun x => x.1 == r.1.toNat / 65536) then l else l ++ [(r.1.toNat / 65536, r.1)]) []
  firsts.mapM (fun p => (tr k p.2).bind (fun h =>
    if h.type = .control then failAt .access p.2 else .ok (p.1, { h with loc := h.loc - p.2.toNat % 65536 })))

/-- The location of byte `off` of an image. -/
def imageLoc (ps : ImagePages) (va : Word) (off : Nat) : Nat :=
  let a := (va + w64 off).toNat
  ((ps.lookup (a / 65536)).map (fun h => h.loc + a % 65536)).getD 0

/-! ### ctxsave -/

/-- The parts of the activation's image: offset and length (R454, R455). -/
def savedParts (s : State) : List (Nat × Nat) :=
  (0, 0xC00) :: imageSections s.presentWord (s.lanes.vdirty.toNat % 2 ^ s.nr) s.lanes.wdirty.toNat s.nr

/-- The checks of `ctxsave`: alignment, and every page to be written translated as a store (R455). -/
def checkSave (s : State) (va : Word) : Run ImagePages :=
  if va.toNat % 4096 ≠ 0 then misaligned va
  else orTrap 4 (imagePages (translate s) .store va (savedParts s))

/-- What the scheduler remembers of the activation saved at va (13_work.md R346, R351). -/
def rememberImage (s : State) (va : Word) : State :=
  match s.sched.act with
  | none => s
  | some a =>
    let unit := (s.sched.coreUnit.map (·.launch)).filter (fun l => a.item == some l)
    let x : Saved := ⟨a.asid, va, a.item, unit, a.isMacro, a.macroG, false⟩
    { s with sched.saved := x :: s.sched.saved.filter (fun y => !(y.asid == a.asid && y.image == va)) }

/-- Write the image of the activation (R455), once it has been checked. -/
def saveImage (s : State) (va resume : Word) (ps : ImagePages) : State :=
  let s := stopContexts (publishAll s)
  let s := ps.foldl (fun s p => markLeaf s p.2 true) s
  let store (t : State) (off : Nat) (bs : List Byte) : State :=
    storeAll storeByte t ((upto off bs.length).map (imageLoc ps va)) bs
  let t := store s 0 (imageHead s va resume)
  let t := (savedParts s).tail.foldl (fun t p => store t p.1 (sectionBytes s p.1)) t
  let t := clearPoison t (if t.memory.poison = [] then [] else
    (savedParts s).flatMap (fun p => (upto p.1 p.2).map (imageLoc ps va)))
  rememberImage t va

/-! ### ctxload -/

/-- An image being read: the state, its address and its pages. -/
structure Image where
  s : State
  va : Word
  ps : ImagePages

/-- n bytes at an offset of the image, as a number. -/
def Image.num (x : Image) (off n : Nat) : Nat := leNat ((upto off n).map (fun k => x.s.byte (imageLoc x.ps x.va k)))
/-- The 64-bit word at an offset of the image. -/
def Image.q (x : Image) (off : Nat) : Nat := x.num off 8
/-- A CSR of the image by its place in the list (R454). -/
def Image.csr (x : Image) (k : Nat) : Nat := x.q (0x180 + 8 * k)
/-- NR under the `vcfg` of the image. -/
def Image.nr (x : Image) : Nat := 8 * 2 ^ (x.csr 1 % 4)

/-- A slot of the image (R454). -/
def Image.slot (x : Image) (n : Nat) : Slot :=
  let o := 0x420 + 64 * n
  let z := x.q (o + 40)
  if bitOf z 63 then
    ⟨true, w64 (x.q o), w64 (x.q (o + 8)), w64 (x.q (o + 16)), w64 (x.q (o + 24)), BitVec.ofNat 32 (x.q (o + 32)),
      BitVec.ofNat 32 (x.q (o + 32) / 2 ^ 32), BitVec.ofNat 32 z, BitVec.ofNat 20 (z / 2 ^ 32)⟩
  else Slot.empty

/-- Loop entry k of the image; none when its kind is never valid (04_control.md R94). The image does not say that a sweep's Take or
Load has failed, so that the `snext` that resumes at such a chunk commits once more before its fault is raised (15_sweep.md R402:
DESIGN CHOICE, log 38). -/
def Image.loopEntry (x : Image) (k : Nat) : Option LoopEntry :=
  let o := 0x248 + 32 * k
  let e (kind : LoopKind) : LoopEntry :=
    ⟨kind, w64 (x.q o / 4 * 4), w64 (x.q (o + 8)), w64 (x.q (o + 16)), w64 (x.q (o + 24)), false⟩
  match x.q o % 4 with
  | 0 => some (e .counted)
  | 1 => some (e .vector)
  | 2 => some (e .sweep)
  | _ => none

/-- The loop entries of the image, top first. -/
def Image.loops (x : Image) : List LoopEntry := (upto 0 (min (x.q 0x240) 6)).filterMap x.loopEntry

/-- A bank of the image; an absent one is invalid, every rscale 1.0 and every rexp 0 (10_matrix.md R256, R454). -/
def Image.bank (x : Image) (l : Nat) : Bank :=
  let o := 0x600 + 0x200 * l
  let h := x.q o
  let klen := fld h 6 11
  if bitOf (x.q 0x38) (11 + l) then
    let base := 0x1000 + 0x2000 * l
    let col (key q : Nat) : Bool := bitOf (x.num (base + 256 * (key / 128) + 16 * q + key % 128 / 8) 1) (key % 8)
    { valid := true, rows := fld h 0 6, klen := klen, p := ceilDiv klen 128, w := fld h 17 5, sgn := bitOf h 22
      cls := BitVec.ofNat 2 (fld h 23 2)
      data := mapBuild (fun key => BitVec.ofNat 16 (bitsNat ((upto 0 16).map (col key)))) 0 4096
      rscale := mapBuild (fun m => BitVec.ofNat 32 (x.num (o + 0x40 + 4 * m) 4) ^^^ 0x3F800000#32) 0 32
      rexp := mapBuild (fun k => BitVec.ofNat 16 (x.num (o + 0xC0 + 2 * k) 2)) 0 128 }
  else Bank.invalid

/-- A tile of the image; an absent one is empty (10_matrix.md R262, R454). -/
def Image.tile (x : Image) (t : Nat) : Tile :=
  if bitOf (x.q 0x38) t then
    let o := 0x5000 + 0xA000 * t
    let h := x.num (o + 0x8800) 4
    { elem := mapBuild (fun k => BitVec.ofNat 32 (x.num (o + 4 * k) 4)) 0 8192
      cscale := mapBuild (fun c => BitVec.ofNat 32 (x.num (o + 0x8000 + 4 * c) 4) ^^^ 0x3F800000#32) 0 256
      cexp := mapBuild (fun k => BitVec.ofNat 8 (x.num (o + 0x8400 + k) 1)) 0 1024
      entries := (upto 1 (fld h 0 10)).map (fun i => BitVec.ofNat 32 (x.num (o + 0x8800 + 4 * i) 4))
      overflow := BitVec.ofNat 22 (fld h 10 22) }
  else Tile.empty

/-! The checks of R456. -/

/-- Reserved bits and fields of the head are zero, and no `vdirty` bit at or above NR is set (R456). -/
def Image.reservedOk (x : Image) : Bool :=
  let csrsOk := ((upto 0 19).zip imageCsrs).all (fun p => (x.csr p.1) &&& (2 ^ 64 - 1 - p.2.2) == 0)
  let tag := x.q 0x18
  let home := x.q 0x28
  csrsOk && fld tag 3 3 == 0 && fld tag 57 7 == 0 && fld home 9 7 == 0 && fld home 25 39 == 0 &&
    fld (x.q 0x38) 13 51 == 0 && x.csr 6 < 2 ^ x.nr && fld (x.q 0x308) 36 27 == 0 && fld (x.q 0x310) 8 55 == 0

/-- R57: the frame state. -/
def Image.frameOk (x : Image) : Bool :=
  let f := x.q 0x308
  !bitOf f 63 || (fld f 16 16 != 0 && fld f 0 16 < fld f 16 16)

/-- R115: the strip state. -/
def Image.stripOk (x : Image) : Bool :=
  let l := fld (x.q 0x310) 0 8
  !bitOf (x.q 0x310) 63 || (l != 0 && (upto 0 256).all (fun t => x.num (0x318 + t) 1 ≤ l))

/-- R94 and R401: one loop entry. -/
def Image.entryOk (x : Image) (e : LoopEntry) : Bool :=
  e.start.toNat ≤ e.last.toNat && e.last.toNat % 4 == 0 &&
  match e.kind with
  | .counted => e.index.toNat < e.arg.toNat
  | .vector => e.arg.toNat < 64
  | .sweep =>
    let y := x.slot e.ts
    e.last == 0xFFFFFFFFFFFFFFFC && y.valid && e.c != 0 && e.c ≤ 1024 && e.cw % y.nw == 0 &&
      y.lo.toNat ≤ e.index.toNat && e.index.toNat ≤ y.hi.toNat && !(e.ld && e.index.toNat == y.hi.toNat) &&
      e.arg.toNat < 2 ^ 35

/-- R94 and R401: the loop stack. -/
def Image.loopsOk (x : Image) : Bool :=
  x.q 0x240 ≤ 6 && x.loops.length == x.q 0x240 && x.loops.all x.entryOk &&
    (x.loops.filter (fun e => e.kind == .vector)).length ≤ 1 && (x.loops.filter (fun e => e.kind == .sweep)).length ≤ 1

/-- R401: the sweep-class maps. -/
def Image.classesOk (x : Image) : Bool :=
  let r := x.num 0xA00 128
  let a := x.num 0xA80 128
  let k := x.num 0xB00 128
  let limit := match x.loops.find? (fun e => e.kind == .sweep) with
    | some e => if e.ld then 2 ^ e.c else 1
    | none => 1
  r < limit && a < limit && k < limit && r &&& a == 0 && r &&& k == 0 && a &&& k == 0

/-- Reserved bits of one slot, valid or not, and R384 for a valid one (R454, R456). The other bytes of an empty slot are not
looked at; of a valid slot, lo and hi outside 0 ≤ lo ≤ hi ≤ count are taken as they are, because R456 does not list R383 among its
checks (DESIGN CHOICE, log 37). -/
def Image.slotOk (x : Image) (n : Nat) : Bool :=
  let o := 0x420 + 64 * n
  let h := x.q (o + 24)
  fld h 35 1 == 0 && fld h 45 19 == 0 && fld (x.q (o + 40)) 52 11 == 0 && x.q (o + 48) == 0 && x.q (o + 56) == 0 &&
    (!(x.slot n).valid || Machine.slotOk [x.q o, x.q (o + 8), x.q (o + 16), h])

/-- R256: one bank. -/
def Image.bankOk (x : Image) (l : Nat) : Bool :=
  let h := x.q (0x600 + 0x200 * l)
  let klen := fld h 6 11
  fld h 26 38 == 0 && (!bitOf (x.q 0x38) (11 + l) ||
    (bitOf h 25 && fld h 0 6 ≤ 32 && klen != 0 && klen ≤ 1024 && fld h 0 6 * ceilDiv klen 128 ≤ 32 && fld h 17 5 != 0 &&
      fld h 17 5 ≤ 16 && fld h 23 2 != 3))

/-- The lane grant in force lies in 1 to 256, and allows `vl` (R456, 07_lanes.md R190). -/
def Image.grantOk (x : Image) : Bool :=
  let e := fld (x.q 0x28) 16 9
  let most := 262144 / 2 ^ (x.csr 1 % 4)
  e != 0 && e ≤ 256 && x.csr 0 ≤ (if e = 256 then most else min most (128 * e))

/-- Every check of R456. -/
def Image.ok (x : Image) : Bool :=
  x.reservedOk && x.frameOk && x.stripOk && x.loopsOk && x.classesOk && x.grantOk &&
    (upto 0 4).all x.slotOk && (upto 0 2).all x.bankOk

/-- A width register's value; one that is not listed gives the reset value (03_scalar.md R78, 07_lanes.md R191). -/
def widthCode (v top : Nat) : BitVec 7 := if 1 ≤ v % 64 ∧ v % 64 ≤ top then BitVec.ofNat 7 v else 0x48

/-- The lanes of an image (R454, R456). Under tail-dead the elements at and above `vl` are zero (07_lanes.md R183). Values that
their registers do not list give the reset values (03_scalar.md R78). -/
def Image.lanes (x : Image) : Lanes :=
  let c := x.csr
  let nr := x.nr
  let segs := 64 / nr
  let vbit (k i p : Nat) : Bool :=
    let o := 0x85000 + k * (2 ^ 22 / nr) + (i / 32768 * 16 + p) * 4096 + i % 32768 / 8
    bitOf (x.num o 1) (i % 8)
  let vregs := ((upto 0 nr).filter (fun k => bitOf (c 6) k)).flatMap (fun k =>
    mapBuild (fun key => BitVec.ofNat 16 (bitsNat ((upto 0 16).map (vbit k (key - vkey k 0))))) (vkey k 0) (32768 * segs))
  let wregs := ((upto 0 32).filter (fun k => bitOf (c 7) k)).flatMap (fun k =>
    mapBuild (fun key => BitVec.ofNat 32 (x.num (0x2D000 + 4 * key) 4)) (1024 * k) 1024)
  let masks := ((upto 1 7).filter (fun k => bitOf (x.q 0x38) (3 + k))).flatMap (fun k =>
    mapBuild (fun key =>
      let i := key - vkey k 0
      if bitOf (x.num (0x4D000 + 32768 * (k - 1) + i / 8) 1) (i % 8) then 1#1 else 0#1) (vkey k 0) 262144)
  { vreg := if bitOf (c 1) 2 then vregs.filter (fun p => decide (p.1 % 262144 < c 0)) else vregs
    mask := masks, wreg := wregs
    tile0 := x.tile 0, tile1 := x.tile 1, tile2 := x.tile 2, tile3 := x.tile 3
    bank0 := x.bank 0, bank1 := x.bank 1
    slot0 := x.slot 0, slot1 := x.slot 1, slot2 := x.slot 2, slot3 := x.slot 3
    runSet := BitVec.ofNat 1024 (x.num 0xA00 128)
    heldAfter := BitVec.ofNat 1024 (x.num 0xA80 128)
    heldCounter := BitVec.ofNat 1024 (x.num 0xB00 128)
    frm := if c 11 ≤ 4 then BitVec.ofNat 3 (c 11) else 0
    fflags := BitVec.ofNat 5 (c 12)
    qflags := BitVec.ofNat 4 (c 13)
    vstart := if c 5 < 32768 * segs then BitVec.ofNat 18 (c 5) else 0
    vdirty := w64 (c 6)
    wdirty := BitVec.ofNat 32 (c 7)
    mcfg := if c 8 % 4 = 3 then BitVec.ofNat 8 (c 8 - 3) else BitVec.ofNat 8 (c 8)
    acst := w64 (c 9)
    smiss := BitVec.ofNat 45 (c 10)
    vl := BitVec.ofNat 19 (c 0)
    vcfg := BitVec.ofNat 4 (c 1)
    ewa := widthCode (c 2) 16
    ewb := widthCode (c 3) 16
    ewd := widthCode (c 4) 32
    grantG := x.s.lanes.grantG
    grantE := BitVec.ofNat 9 (fld (x.q 0x28) 16 9) }

/-- The address space of the activations of a queue: its number and root (13_work.md R350, 06_memory.md R144). -/
def queueSpace (s : State) (dq : Nat) : BitVec 16 × Nat :=
  (BitVec.ofNat 16 (s.queueWord dq 1), fld (s.queueWord dq 1) 16 30 * 2 ^ 16)

/-- The strip positions of an image. -/
def Image.positions (x : Image) : SMap 8 := mapBuild (fun t => BitVec.ofNat 8 (x.num (0x318 + t) 1)) 0 256

/-- The line number with which a tile task starts again from its saved position (10_matrix.md R278). -/
def resumeStep : Nat := 11

/-- Strip state of an image: the threads read the registers that the image restores (04_control.md R110, R115, log 34). -/
def Image.strip (x : Image) (regs : SMap 64) (l : Lanes) : Strip :=
  ⟨true, BitVec.ofNat 8 (x.q 0x310), x.positions, false, .program, 0, regs, l.vcfg, l.ewa, l.ewb, l.ewd, []⟩

/-- The scalar registers of an image, at program level: the shadow bank's names while a handler runs (17_system.md R437). -/
def Image.scalars (x : Image) : SMap 64 :=
  mapBuild (fun k => if k = 0 then 0 else if banked k && bitOf (x.csr 18) 16 then w64 (x.q (0x140 + 8 * (k - 24)))
    else w64 (x.q (0x40 + 8 * k))) 0 32

/-- Everything that a checked image puts into the core (R456): the activation runs from the next `tret`. An image holds no
level for its frame and its strip state: they run at program level (DESIGN CHOICE, log 37). The activation's home is the queue
that the image names, also when its record came from another (13_work.md R350, R351 against R352, R358: DESIGN CHOICE, log 23).
Its item, and that it is a tile task, are what the scheduler has noted of an image at this address of this address space
(DESIGN CHOICE, log 23). A single step that is still due (R448) stays due for it (DESIGN CHOICE, log 15). -/
def Image.install (x : Image) : State :=
  let s := x.s
  let f := x.q 0x308
  let home := x.q 0x28 % 512
  let sp := queueSpace s home
  let known := s.sched.saved.find? (fun y => y.asid == sp.1 && y.image == x.va)
  let a : Activation :=
    { record := ⟨w64 (x.q 0), w64 (x.q 8), w64 (x.q 0x10), w64 (x.q 0x18)⟩
      home := home, asid := sp.1, root := sp.2
      block := some (x.q 0x30)
      item := known.bind (·.item)
      isMacro := (known.map (·.isMacro)).getD false
      macroStep := resumeStep, macroG := (known.map (·.macroG)).getD 0
      tilesPresent := BitVec.ofNat 4 (x.q 0x38)
      masksPresent := BitVec.ofNat 7 (x.q 0x38 / 2 ^ 4) }
  { s with
    regs := mapBuild (fun k => if k = 0 then 0 else w64 (x.q (0x40 + 8 * k))) 0 32
    shadow := mapBuild (fun k => w64 (x.q (0x140 + 8 * (k - 24)))) 24 6
    loops := x.loops
    frame := if bitOf f 63 then
        ⟨true, BitVec.ofNat 16 f, BitVec.ofNat 16 (f / 2 ^ 16), BitVec.ofNat 4 (f / 2 ^ 32), false, .program, 0, 0, []⟩
      else Frame.none
    strip := if bitOf (x.q 0x310) 63 then x.strip x.scalars x.lanes else Strip.none
    lanes := x.lanes
    ctl.wid := w64 (x.csr 14)
    ctl.wfields := w64 (x.csr 15)
    ctl.uvec := w64 (x.csr 16)
    ctl.uepc := w64 (x.csr 17)
    ctl.ustat := BitVec.ofNat 17 (x.csr 18)
    ctl.epc := w64 (x.q 0x20 / 4 * 4)
    ctl.estatus := BitVec.ofNat 5 (s.ctl.estatus.toNat / 4 * 4)
    ctl.engPend := []
    sched.act := some a }

/-- The first poisoned byte of an image that is read (18_platform.md R475). -/
def Image.poisoned (x : Image) : Option (Word × Nat) :=
  if x.s.memory.poison = [] then none
  else ((0, 0xC00) :: imageSections (x.q 0x38) (x.csr 6) (x.csr 7) x.nr).findSome? (fun p =>
    firstPoison x.s (x.va + w64 p.1) ((upto p.1 p.2).map (imageLoc x.ps x.va)))

/-- Read and check the image at va, translated by `tr`: none when a check fails (R456). The whole image is translated before
it is checked: a page fault precedes an engine fault (R439). -/
def readImageAt (s : State) (tr : Access → Word → Except MemFault Hit) (va : Word) : Except MemFault (Option Image) := do
  let ps ← imagePages tr .load va [(0, 0xC00)]
  let x : Image := ⟨s, va, ps⟩
  let qs ← imagePages tr .load va ((0, 0xC00) :: imageSections (x.q 0x38) (x.csr 6) (x.csr 7) x.nr)
  let y : Image := ⟨qs.foldl (fun s p => markLeaf s p.2 false) s, va, qs⟩
  pure (if y.ok then some y else none)

end Sys2Proof.Machine
end

