-- ==== Sys2Proof/Machine/Work.lean ====
section
/-!
DEFINITION. Work identifiers, launches, records, join blocks, queues and the start and end of activations (13_work.md R340
to R362, 17_system.md R453).
-/

namespace Sys2Proof.Machine

/-! ### Work identifiers and launch headers -/

/-- Width k of a shape (R340). -/
def shapeWidth (shape k : Nat) : Nat := fld shape (8 * k) 7
/-- The number of fields of a shape (R340). -/
def shapeFields (shape : Nat) : Nat := fld shape 48 3
/-- The place of field k of a shape (R340). -/
def shapeOffset (shape k : Nat) : Nat := ((upto 0 k).map (shapeWidth shape)).foldl (· + ·) 0

/-- The shape is valid (R340). -/
def shapeOk (shape : Nat) : Bool :=
  let nf := shapeFields shape
  1 ≤ nf && nf ≤ 6 && (upto 0 6).all (fun k => if k < nf then 1 ≤ shapeWidth shape k && shapeWidth shape k ≤ 64
    else shapeWidth shape k == 0) && shapeOffset shape nf ≤ 64 && fld shape 51 13 == 0 &&
    (upto 0 6).all (fun k => !bitOf shape (8 * k + 7))

/-- `widf` (R342). -/
def execWidf (d k b : BitVec 5) (s : State) : Out :=
  let src := if b = 0 then s.ctl.wid else s.rd b
  let shape := s.ctl.wfields.toNat
  finish s (do
    legalIf (k.toNat ≤ 5)
    let v := if shapeFields shape ≤ k.toNat then 0
      else src.toNat / 2 ^ shapeOffset shape k.toNat % 2 ^ shapeWidth shape k.toNat
    pure (retire (s.wr d (w64 v))))

/-- Word k of a launch's header. -/
def Launch.w (l : Launch) (k : Nat) : Nat := (l.words.getD k 0).toNat

/-- The scope of level m in word 4 of a header (R343). -/
def levelScope (w4 m : Nat) : Nat := fld w4 (2 * (m - 1)) 2

/-- The dies a header permits (R343). -/
def permittedDies (w4 : Nat) : List Nat :=
  let m := fld w4 32 8
  if m = 0 then upto 0 Config.dies else (upto 0 Config.dies).filter (fun d => bitOf m d)

/-- A header is valid (R343). -/
def headerOk (ws : List Nat) : Bool :=
  let w (k : Nat) : Nat := ws.getD k 0
  let nf := shapeFields (w 2)
  let w4 := w 4
  shapeOk (w 2) && w 0 % (if bitOf w4 41 then 64 else 4) == 0 &&
    (shapeOffset (w 2) nf == 64 || w 3 < 2 ^ shapeOffset (w 2) nf) &&
    (upto 1 6).all (fun m => m ≤ nf || levelScope w4 m == 0) && fld w4 42 3 ≤ 4 &&
    fld w4 32 8 < 2 ^ Config.dies && w 6 % 8 == 0 && fld w4 12 4 == 0 && fld w4 19 1 == 0 && fld w4 26 6 == 0 &&
    fld w4 45 19 == 0 && w 5 == 0

/-- The count of field k of a launch (R343). -/
def Launch.fieldCount (l : Launch) (k : Nat) : Nat :=
  l.w 3 / 2 ^ shapeOffset (l.w 2) k % 2 ^ shapeWidth (l.w 2) k + 1

/-- The product of the counts of the fields below m: the items of a group at level m (R344). -/
def Launch.groupSize (l : Launch) (m : Nat) : Nat := ((upto 0 m).map l.fieldCount).foldl (· * ·) 1

/-- The number of items (R343). -/
def Launch.items (l : Launch) : Nat := if bitOf (l.w 4) 40 then 0 else l.groupSize (shapeFields (l.w 2))

/-- The identifier of item x, counting in ascending order of identifiers (R340, R345). -/
def Launch.ident (l : Launch) (x : Nat) : Nat :=
  ((upto 0 (shapeFields (l.w 2))).map (fun k =>
    x / l.groupSize k % l.fieldCount k * 2 ^ shapeOffset (l.w 2) k)).foldl (· + ·) 0

/-- The highest level whose scope code satisfies p, 0 when there is none (R344): the levels below it have it as their
effective scope or a narrower one. -/
def Launch.highest (l : Launch) (p : Nat → Bool) : Nat :=
  (upto 1 6).foldl (fun m k => if p (levelScope (l.w 4) k) then k else m) 0

/-- Items of a core-scope group; 1 when no level has core scope (R345). -/
def Launch.unitSize (l : Launch) : Nat := l.groupSize (l.highest (fun c => c == 1))
/-- Items of a die-scope group (R345). -/
def Launch.dieSize (l : Launch) : Nat := l.groupSize (l.highest (fun c => c == 1 || c == 2))
/-- Some level keeps its groups on one die (R344, R345). -/
def Launch.dieScoped (l : Launch) : Bool := l.highest (fun c => c == 1 || c == 2) != 0

/-! ### Queues -/

/-- The queue is bound (R350). -/
def queueBound (s : State) (dq : Nat) : Bool := bitOf (s.queueWord dq 2) 8
/-- The priority with which a record enters a queue (R350). -/
def clampPrio (s : State) (dq p : Nat) : Nat := min p (fld (s.queueWord dq 2) 5 3)
/-- The entries of a queue, oldest first. -/
def queueEntries (s : State) (dq : Nat) : List QEntry := (s.sched.queues.filter (fun e => e.1 == dq)).map (·.2)
/-- The entries of a queue that are kept for tile tasks not yet ready (R359). -/
def keptEntries (s : State) (dq : Nat) : Nat := (s.sched.heldTasks.filter (fun h => h.queue == dq)).length
/-- The queue has no room (R350). -/
def queueFull (s : State) (dq : Nat) : Bool :=
  decide (2 ^ fld (s.queueWord dq 2) 0 5 ≤ (queueEntries s dq).length + keptEntries s dq)

/-- The launch with an acceptance number. -/
def findLaunch (s : State) (id : Nat) : Option Launch := s.sched.launches.find? (fun l => l.id == id)
/-- Replace a launch by its new form. -/
def putLaunch (s : State) (l : Launch) : State :=
  { s with sched.launches := s.sched.launches.map (fun x => if x.id = l.id then l else x) }

/-- The priority of an entry of a queue (R350). That of a launch, and of the items made of it, is clamped to the ceiling as it
stands when the entry is looked at or the item taken (DESIGN CHOICE, log 23). -/
def entryPrio (s : State) (dq : Nat) : QEntry → Nat
  | .record r _ => fld r.tag.toNat 0 3
  | .launch id => clampPrio s dq ((findLaunch s id).map (fun l => fld (l.w 4) 16 3) |>.getD 0)

/-- The priority of a queue: that of its head entry (R350). -/
def queuePrio (s : State) (dq : Nat) : Option Nat :=
  if queueBound s dq then (queueEntries s dq).head?.map (entryPrio s dq) else none

/-- The queue's head is a launch, or a record of no core-scope group, or one of a group on this core. -/
def enqueue (s : State) (dq : Nat) (e : QEntry) : State := { s with sched.queues := s.sched.queues ++ [(dq, e)] }

/-- Remove the first entry of a queue that equals e. -/
def dequeue (dq : Nat) (e : QEntry) : List (Nat × QEntry) → List (Nat × QEntry)
  | [] => []
  | x :: t => if x.1 = dq ∧ x.2 = e then t else x :: dequeue dq e t

/-- Put a record at the tail of a queue, with its priority clamped; a saved context of a core-scope group is recognised
(R350, R351). -/
def enqueueRecord (s : State) (dq : Nat) (r : Record) : State :=
  let tag := setFld r.tag.toNat 0 3 (clampPrio s dq (fld r.tag.toNat 0 3))
  let unit := if fld r.tag.toNat 55 2 = 2 then
      (s.sched.saved.find? (fun y => y.asid == (queueSpace s dq).1 && y.image == r.code)).bind (·.unit)
    else none
  enqueue s dq (.record { r with tag := w64 tag } unit)

/-! ### The end of an activation -/

/-- The work timelines of a block all show their issued numbers, as published (17_system.md R453, 11_sync.md R287). -/
def timelinesShown (s : State) (b : Nat) : Bool :=
  (upto 0 4).all (fun k => s.pubNum (b + 0x280 + 16 * k) 8 == s.pubNum (b + 0x288 + 16 * k) 8)

/-- Blocks of retired activations whose timelines have caught up are free again (17_system.md R453). -/
def freeBlocks (s : State) : State :=
  let free := s.sched.retired.filter (timelinesShown s)
  let u := free.foldl (fun s b => agentNum s (b + 0x2C0) 8 0) s
  { u with sched.retired := s.sched.retired.filter (fun b => !free.contains b) }

/-- A pre-emption request pending at a `done` is discharged by it (R356). -/
def discharge (s : State) : State := { s with ctl.preReq := none, sched.schedReq := none }

/-- The activation leaves the core, and the sequencer is idle (R351, R355 to R358). -/
def goIdle (s : State) : State :=
  { s with
    mode := .idle
    level := .program
    wait := none
    commit := none
    loops := []
    frame := Frame.none
    strip := Strip.none
    sched.act := none
    ctl.engPend := []
    ctl.stepArmed := false }

/-- The activation's own record as a kind-2 record for an image at va, with its frame pointer as it stands (R355, R357). -/
def parkedRecord (s : State) (a : Activation) (va : Word) : Record :=
  ⟨va, s.rd 29, s.ctl.wid, w64 (setFld a.record.tag.toNat 55 2 2)⟩

/-- The address of a record's parent block (R348). -/
def parentBlock (tag : Nat) : Word := wrap64 (sext (fld tag 6 49 * 64) 55)

/-- A WORK instruction that creates or parks work is illegal inside a user-level handler (R353). -/
def outsideHandler (s : State) : Bool := !(s.level == .program && s.inHandler)

/-! ### spawn -/

/-- The queue a selector names (R354). -/
def selectQueue (v : Nat) : Nat := (if bitOf v 9 then Config.dieId else fld v 6 3) * 64 + fld v 0 6

/-- A reserved bit of a record's fourth word is set, or its kind is 3 (R348). -/
def tagReserved (tag : Nat) : Bool := fld tag 3 3 != 0 || fld tag 57 7 != 0 || fld tag 55 2 == 3

/-- A record image that `spawn` rejects (R354). -/
def recordBad (s : State) (tag code dq : Nat) : Bool :=
  let kind := fld tag 55 2
  tagReserved tag || (kind == 2 && s.level == .program) ||
    code % (if kind = 0 then 4 else if kind = 1 then 64 else 4096) != 0 ||
    Config.dies * 64 ≤ dq || !queueBound s dq || s.sched.act.map (·.asid) != some (queueSpace s dq).1

/-- The tile tasks that wait for a join block are made ready, each counted in the block as its `spawn` counts a child (R354,
R359; log 35). The scheduler counts what is published (11_sync.md R287). -/
def releaseTasks (s : State) (loc : Nat) : State :=
  let hs := s.sched.heldTasks.filter (fun h => h.block == loc)
  if hs = [] then s
  else
    let t := storeAll outsideByte { s with sched.heldTasks := s.sched.heldTasks.filter (fun h => h.block != loc) } (upto loc 8)
      (leBytes (s.pubNum loc 8 + hs.length) 8)
    hs.foldl (fun t h => enqueueRecord t h.queue h.record) t

/-- The count in a join block is zero or negative (R349). -/
def countDone (x : Nat) : Bool := decide (sext x 64 ≤ 0)

/-- A tile task whose join block still counts children is not ready: it waits for the count to reach zero (R359). -/
def heldBack (s : State) (tag : Nat) (p : Option Hit) : Bool :=
  fld tag 55 2 == 1 && p.any (fun q => !countDone ((syncOrder s).num q.loc 8))

/-- A reserved bit of a join block is set (R349). -/
def blockReserved (s : State) (loc : Nat) : Bool := fld (s.num (loc + 8) 8) 11 53 != 0 || s.num (loc + 16) 16 != 0

/-- What a `spawn` does with its record once every check has passed: a tile task that must wait is held and not yet counted,
any other record is counted in its parent's block and enqueued (R354, R359; log 35). -/
def placeChild (s : State) (dq : Nat) (r : Record) (p : Option Hit) : State :=
  match p with
  | none => enqueueRecord (publishAll s) dq r
  | some q =>
    let u := markLeaf s q true
    if heldBack u r.tag.toNat p then
      let v := publishAll u
      { v with sched.heldTasks := v.sched.heldTasks ++ [⟨q.loc, dq, r⟩] }
    else enqueueRecord (publishAll (atomicAt u q.loc 8 (fun c => c + 1)).2) dq r

/-- `spawn` (R354). It rejects a join block with a reserved bit set, as it does a record (00_scope.md R15, log 33). -/
def execSpawn (a b : BitVec 5) (s : State) : Out :=
  let sa := s.rd a
  let dq := selectQueue (s.rd b).toNat
  finish s (do
    legalIf (outsideHandler s)
    if sa.toNat % 32 ≠ 0 then misaligned sa
    else
      let h ← orTrap 3 (translate s .load sa)
      if h.type = .control then violation sa
      else
        checkPoison s sa (upto h.loc 32)
        let u := markLeaf (accessOrder s (h.type == .sync) (upto h.loc 32)) h false
        let w (k : Nat) : Nat := u.num (h.loc + 8 * k) 8
        let j := parentBlock (w 3)
        let parent := fld (w 3) 6 49 != 0
        let p ← if parent then (objectHit u .atomic 4 j).map some else pure none
        match p with
        | some q => checkPoison u j (upto q.loc 64)
        | none => pure ()
        if recordBad s (w 3) (w 0) dq || p.any (fun q => blockReserved u q.loc) then rejected sa
        else if queueFull s dq then pure (waitHere s .queue)
        else
          pure (retire (placeChild u dq ⟨w64 (w 0), w64 (w 1), w64 (w 2), w64 (w 3)⟩ p)))

/-! ### join -/

/-- The saved program counter of `join` and `yield` (R355, R357). -/
def resumePc (s : State) : Word := s.pc + 4

/-- Write the parked record into a join block (R349, R355). -/
def park (s : State) (loc : Nat) (r : Record) (home : Nat) : State :=
  let s := syncNum (syncNum (syncNum (syncNum s (loc + 32) 8 r.code.toNat) (loc + 40) 8 r.frame.toNat) (loc + 48) 8
    r.wid.toNat) (loc + 56) 8 r.tag.toNat
  let old := s.num (loc + 8) 8
  syncNum s (loc + 8) 8 (1 + bNat (bitOf old 1) * 2 + home % 64 * 2 ^ 2 + home / 64 % 8 * 2 ^ 8)

/-- The lowest of the failing addresses of a join block and a save area (R355, 17_system.md R439). -/
def joinChecks (s : State) (sa sb : Word) : Run (Hit × ImagePages) := do
  if sa.toNat % 64 ≠ 0 then misaligned sa
  else if sb.toNat % 4096 ≠ 0 then misaligned sb
  else both (objectHit s .atomic 4 sa) (checkSave s sb)

/-- The scheduler notes that the activation whose image stands at va is parked (R344, R355). -/
def noteParked (s : State) (asid : BitVec 16) (va : Word) : State :=
  { s with sched.saved := s.sched.saved.map (fun y =>
      if y.asid = asid ∧ y.image = va then { y with parked := true } else y) }

/-- `join` (R355). The block is read again after the save, whose bytes may have changed it, and a count that is then not positive
lets the activation go on, its engine contexts too. A block with a reserved bit set is rejected when it is first read (00_scope.md
R15, log 33). -/
def execJoin (a b : BitVec 5) (s : State) : Out :=
  let sa := s.rd a
  let sb := s.rd b
  finish s (do
    legalIf (s.level == .program && !s.inHandler && !s.atLoopEnd)
    let c ← joinChecks s sa sb
    checkPoison s sa (upto c.1.loc 64)
    let u := syncOrder (markLeaf s c.1 true)
    if blockReserved u c.1.loc then rejected sa
    else if countDone (u.num c.1.loc 8) then pure (retire (acquire u))
    else if bitOf (u.num (c.1.loc + 8) 8) 0 then rejected sa
    else match s.sched.act with
      | none => rejected sa
      | some act =>
        if unitInFlight s then pure (waitHere s .park)
        else
        let v := publishAll (saveImage u sb (resumePc s) c.2)
        if countDone (v.num c.1.loc 8) then
          pure (retire (acquire (resumeContexts { v with sched.saved := s.sched.saved })))
        else
          pure (goIdle (noteParked (park (counted v) c.1.loc (parkedRecord s act sb) act.home) act.asid sb)))

/-! ### done -/

/-- Every engine context of the activation shows its latest issued number (R356, 12_engines.md R313). -/
def enginesDone (s : State) : Bool :=
  match s.block with
  | none => true
  | some b => (upto 0 10).all (fun t => s.pubNum (queueHeader b t) 8 == s.pubNum (queueHeader b t + 8) 8)

/-- Count an item of a launch as done, for the launch and for the core-scope unit at hand (R344, R346). -/
def countItem (s : State) (id : Nat) : State :=
  let ls := s.sched.launches.map (fun l => if l.id = id then { l with finished := l.finished + 1 } else l)
  let s := { s with sched.launches := ls }
  match s.sched.coreUnit with
  | none => s
  | some u =>
    if u.launch = id then
      { s with sched.coreUnit := if u.left ≤ 1 then none else some { u with left := u.left - 1 } }
    else s

/-- `done` readies the record parked in a join block (R356). -/
def readiesParked (s : State) (loc : Nat) : Bool := s.num loc 8 == 1 && bitOf (s.num (loc + 8) 8) 0

/-- `done` rejects its parent's block: a reserved bit is set in it, or in the parked record that it readies (R348, R349,
00_scope.md R15). That a parked record is rejected so is the model's choice (log 33). -/
def doneRejects (s : State) (loc : Nat) : Bool :=
  blockReserved s loc || (readiesParked s loc && tagReserved (s.num (loc + 56) 8))

/-- What `done` does to its parent's block (R356): none when it must wait for room in the parked record's queue. -/
def decrement (s : State) (loc : Nat) : Option State :=
  let count := s.num loc 8
  let w := s.num (loc + 8) 8
  if countDone count then some (syncNum s (loc + 8) 8 (setFld w 1 1 1))
  else if readiesParked s loc then
    let dq := fld w 8 3 * 64 + fld w 2 6
    if queueFull s dq then none
    else
      let r : Record := ⟨w64 (s.num (loc + 32) 8), w64 (s.num (loc + 40) 8), w64 (s.num (loc + 48) 8),
        w64 (s.num (loc + 56) 8)⟩
      some (releaseTasks (enqueueRecord (syncNum (syncNum s loc 8 0) (loc + 8) 8 (setFld w 0 1 0)) dq r) loc)
  else
    let t := syncNum s loc 8 (count - 1)
    some (if count = 1 then releaseTasks t loc else t)

/-- `done` at program level, once the engines are done (R356). A parent's block with a reserved bit set is rejected, with the
block's address (00_scope.md R15, log 33). -/
def retireActivation (s : State) (a : Activation) : Run State := do
  let tag := a.record.tag.toNat
  let p ← if fld tag 6 49 != 0 then (objectHit s .atomic 4 (parentBlock tag)).map some else pure none
  match p with
  | some h => checkPoison s (parentBlock tag) (upto h.loc 64)
  | none => pure ()
  let u := publishAll s
  if p.any (fun h => doneRejects u h.loc) then rejected (parentBlock tag)
  else match (match p with
    | none => some u
    | some h => decrement (markLeaf u h true) h.loc) with
  | none => pure (waitHere s .queue)
  | some v =>
    let v := match a.item with
      | none => v
      | some id => countItem v id
    let v := { v with sched.retired := v.sched.retired ++ a.block.toList }
    pure (freeBlocks (goIdle (discharge (counted v))))

/-- `done` (R356, R358). At kernel or firmware level it publishes nothing, so that no other party reads what the activation had
not published (11_sync.md R286, R287). -/
def execDone (s : State) : Out :=
  finish s (do
    legalIf (!s.atLoopEnd)
    if s.level ≠ .program then pure (goIdle (discharge (leaveParty (counted s))))
    else if !enginesDone s then pure (waitHere s .retire)
    else match s.sched.act with
      | none => pure (goIdle (discharge (counted (publishAll s))))
      | some a => retireActivation s a)

/-! ### launch -/

/-- Put an accepted launch into the queues (R345 to R347): one without items enters none. -/
def placeLaunch (s : State) (lvl : Level) (ws : List Word) (queues : List Nat) (tl : Option (Nat × Nat × Nat))
    (sp : BitVec 16 × Nat) : State :=
  let l : Launch :=
    { id := s.sched.launchNext, words := ws, queues := queues, next := 0, finished := 0, timeline := tl
      level := lvl, asid := sp.1, root := sp.2, groups := [], shown := false, written := false }
  let s := { s with sched.launches := s.sched.launches ++ [l], sched.launchNext := s.sched.launchNext + 1 }
  if l.items = 0 then s else queues.foldl (fun s dq => enqueue s dq (.launch l.id)) s

/-- The queues a header's launch enters (R347). -/
def targetQueues (ws : List Nat) : List Nat :=
  (permittedDies (ws.getD 4 0)).map (fun d => 64 * d + fld (ws.getD 4 0) 20 6)

/-- `launch` (R347). -/
def execLaunch (d a : BitVec 5) (s : State) : Out :=
  let sa := s.rd a
  finish s (do
    legalIf (outsideHandler s)
    let r ← loadDescriptor s sa
    let u := r.1
    let ws := r.2.map (·.toNat)
    let cw := r.2.getD 6 0
    let _ ← if cw = 0 then pure () else (do
      let _ ← orTrap 4 (translateBytes (translate u) .store cw 8)
      pure ())
    let queues := targetQueues ws
    let sel := fld (ws.getD 4 0) 42 3
    if !headerOk ws || queues.any (fun dq => !queueBound s dq) then rejected sa
    else if sel ≠ 0 ∧ s.block.isNone then rejected 0
    else if queues.any (queueFull s) then pure (waitHere s .queue)
    else
      let sp := match s.sched.act with
        | none => (0, 0)
        | some x => (x.asid, x.root)
      match s.block, sel with
      | some b, k + 1 =>
        let t := b + 0x280 + 16 * k
        let n := (u.pubNum t 8 + 1) % 2 ^ 64
        let v := publishAll (agentNum u t 8 n)
        pure (retire ((placeLaunch v u.level r.2 queues (some (b, k, n)) sp).wr d (w64 n)))
      | _, _ => pure (retire ((placeLaunch (publishAll u) u.level r.2 queues none sp).wr d 0)))

/-- Every item of the launch is done (R346). -/
def Launch.complete (l : Launch) : Bool := l.items ≤ l.finished

/-- The launch's number may be shown: every earlier launch of its timeline has been shown (R346, 11_sync.md R299). -/
def mayShow (s : State) (l : Launch) : Bool :=
  match l.timeline with
  | none => true
  | some t => s.sched.launches.all (fun x => l.id ≤ x.id || x.shown ||
      (match x.timeline with
       | none => true
       | some y => !(y.1 == t.1 && y.2.1 == t.2.1)))

/-- The launch's word may be written: every earlier launch with a word has written it, in each queue they share (R346). -/
def mayWrite (s : State) (l : Launch) : Bool :=
  s.sched.launches.all (fun x => l.id ≤ x.id || x.written || x.w 6 == 0 || !x.queues.any (fun q => l.queues.contains q))

/-- Step 1 of R346. -/
def showLaunch (s : State) (l : Launch) : State :=
  match l.timeline with
  | none => s
  | some t => agentNum s (t.1 + 0x288 + 16 * t.2.1) 8 t.2.2

/-- Step 2 of R346, at the level and in the address space of the launch (R347): a word on a page that cannot be written is
reported as a scheduler fault (18_platform.md R476), and so is one on a control page or in the scratchpad window, which the
scheduler does not reach (11_sync.md R291: DESIGN CHOICE, log 37). -/
def writeWordOf (s : State) (l : Launch) : State :=
  let cw := w64 (l.w 6)
  if cw = 0 then s
  else match translateAt s s.pubByte (some l.root) l.level .store cw with
    | .error _ => logEvent s 3 0 (l.queues.headD 0 / 64) 0 cw
    | .ok h =>
      if h.type = .control ∨ windowBase ≤ cw.toNat then logEvent s 3 0 (l.queues.headD 0 / 64) 0 cw
      else agentNum (markLeaf s h true) h.loc 8 (l.w 7)

/-- The oldest complete launch that can go on (R346). -/
def readyLaunch (s : State) : Option Launch :=
  s.sched.launches.find? (fun l => l.complete && ((!l.shown && mayShow s l) || (l.shown && mayWrite s l)))

/-- LAUNCH_COMPLETION: the oldest complete launch that can go on is shown on its timeline, then writes its word (R346). -/
def execLaunchCompletion (s : State) : Out :=
  match readyLaunch s with
  | none => .next s
  | some l =>
    let s := if l.shown then s else showLaunch s l
    let l := { l with shown := true }
    let s := putLaunch s l
    if mayWrite s l then
      let s := writeWordOf s l
      .next (freeBlocks { s with sched.launches := s.sched.launches.filter (fun x => x.id != l.id) })
    else .next (freeBlocks s)

/-! ### yield -/

/-- A sequencer of the die is idle; the other cores count as not idle (log 5). -/
def someIdle (s : State) : Bool := s.mode == .idle

/-- Some queue of the die has a head whose priority satisfies p (R357, R362). -/
def dieHead (s : State) (p : Nat → Bool) : Option Nat :=
  (upto (64 * Config.dieId) 64).find? (fun dq => (queuePrio s dq).any p)

/-- `yield` (R357). -/
def execYield (a : BitVec 5) (s : State) : Out :=
  let va := s.rd a
  finish s (do
    legalIf (s.level == .program && !s.inHandler && !s.atLoopEnd)
    match s.sched.act with
    | none => pure (goto s (s.pc + 4) true)
    | some act =>
      let own := fld act.record.tag.toNat 0 3
      if s.ctl.preReq.isSome || a == 0 || someIdle s || queueFull s act.home || (dieHead s (fun p => own ≤ p)).isNone then
        pure (goto s (s.pc + 4) true)
      else do
        let ps ← checkSave s va
        if unitInFlight s then pure (waitHere s .save)
        else
          let v := publishAll (saveImage (counted s) va (resumePc s) ps)
          pure (goIdle (enqueueRecord v act.home (parkedRecord s act va))))

/-! ### The start of an activation -/

/-- The next activation block of the core's ring (17_system.md R452, R453). The position in the ring is kept where `acbase` or
`acfg` is written, and counts modulo the number of blocks (DESIGN CHOICE, log 37). -/
def nextBlock (s : State) : Nat :=
  s.ctl.acbase.toNat + s.ctl.ringNext % 2 ^ fld s.ctl.acfg.toNat 0 4 * (fld s.ctl.acfg.toNat 16 16 * 4096)

/-- The block is busy, as published: a kernel frees a block with a published store (17_system.md R453). -/
def blockBusy (s : State) (b : Nat) : Bool := (s.pubByte (b + 0x2C0)).getLsbD 0

/-- A launch of an activation that owned a block is no longer on its timelines: the block is another activation's
(17_system.md R453). -/
def Launch.leaveBlock (l : Launch) (b : Nat) : Launch :=
  { l with timeline := l.timeline.filter (fun t => t.1 != b) }

/-- Take the next block: busy is set, and hardware resets the block (17_system.md R453). -/
def takeBlock (s : State) : State × Nat :=
  let b := nextBlock s
  let s := agentNum s (b + 0x2C0) 8 1
  let s := (upto 0 10).foldl (fun s t =>
    let h := queueHeader b t
    let s := [0, 8, 24, 32, 48, 56].foldl (fun s o => agentNum s (h + o) 8 0) s
    agentNum s (h + 16) 8 (t * 2 ^ 8)) s
  let s := (upto 0 8).foldl (fun s k => agentNum s (b + 0x280 + 8 * k) 8 0) s
  ({ s with
      sched.commands := s.sched.commands.filter (fun c => c.block != b)
      sched.retired := s.sched.retired.filter (fun x => x != b)
      sched.launches := s.sched.launches.map (fun l => l.leaveBlock b)
      sched.away := s.sched.away.filter (fun x => x.party.block != b)
      ctl.ringNext := (s.ctl.ringNext + 1) % 2 ^ fld s.ctl.acfg.toNat 0 4 }, b)

/-- The shape `wfields` holds for a record that comes from no launch (R341). -/
def plainShape : Word := 0x0001000000000040

/-- The start state of R352 for a kind-0 or kind-1 record from queue dq. -/
def startFresh (s : State) (dq : Nat) (r : Record) (item : Option Nat) (shape : Word) : State :=
  let t := takeBlock (syncOrder s)
  let s := t.1
  let sp := queueSpace s dq
  let a : Activation :=
    { record := r, home := dq, asid := sp.1, root := sp.2, block := some t.2, item := item
      isMacro := fld r.tag.toNat 55 2 == 1, macroStep := 0, macroG := 0, tilesPresent := 0, masksPresent := 0 }
  { s with
    regs := mapSet (mapSet [] 1 r.wid) 29 r.frame
    shadow := []
    pc := r.code
    source := r.code
    level := .program
    mode := .running
    loops := []
    frame := Frame.none
    strip := Strip.none
    wait := none
    commit := none
    lanes := { Lanes.reset with grantG := s.lanes.grantG, grantE := s.lanes.grantG }
    ctl.wid := r.wid
    ctl.wfields := shape
    ctl.uvec := 0
    ctl.uepc := 0
    ctl.ustat := 0
    sched.party := some ⟨sp.1, t.2⟩
    sched.act := some a }

/-- A tile descriptor is rejected (10_matrix.md R277). Bits 15 and 23, which no row of the table names, count as reserved
(DESIGN CHOICE, log 37). -/
def tileDescriptorBad (ws : List Nat) : Bool :=
  let w := ws.getD 0 0
  fld w 37 27 != 0 || 2 ≤ fld w 0 2 || bitOf w 15 || bitOf w 23 ||
    !(fld w 24 6 == 4 || fld w 24 6 == 8)

/-- The engine fault of an activation that cannot start, at kernel level: `epc` and `eaddr` hold the address (R352, R359). -/
def startFault (s : State) (sub : Nat) (a : Word) : State :=
  takeTrap { s with pc := a, level := .program, mode := .running } { code := 10, sub := sub, eaddr := a }

/-- Start a tile task: its descriptor is read and checked first (R359, 10_matrix.md R277). Its scalar registers all start at 0,
s1 and s29 among them, because its frame and wid are not used (DESIGN CHOICE, log 37). -/
def startTile (s : State) (dq : Nat) (r : Record) (item : Option Nat) (shape : Word) : State :=
  let u := { startFresh s dq r item shape with regs := [] }
  match loadDescriptor u r.code with
  | .error e => match finish u (.error e) with
    | .next v => v
    | _ => u
  | .ok x => if tileDescriptorBad (x.2.map (·.toNat)) then startFault u 3 r.code else x.1

/-- Resume the activation of a kind-2 record from queue dq, as `ctxload` does (R352, 17_system.md R456). An image that cannot be
read, poisoned bytes included, or fails a check, raises the engine fault (R352). -/
def startSaved (s : State) (dq : Nat) (r : Record) : State :=
  let s := syncOrder s
  let sp := queueSpace s dq
  let bad : State :=
    let a : Activation :=
      { record := r, home := dq, asid := sp.1, root := sp.2, block := none, item := none, isMacro := false
        macroStep := 0, macroG := 0, tilesPresent := 0, masksPresent := 0 }
    startFault { s with sched.act := some a, sched.party := none } 2 r.code
  if r.code.toNat % 4096 ≠ 0 then bad
  else match readImageAt s (translateAt s s.wideByte (some sp.2) .kernel) r.code with
    | .ok (some x) =>
      if x.poisoned.isSome then bad else
      let u := enterParty x.install
      restartContexts { u with
        pc := w64 (x.q 0x20 / 4 * 4), source := w64 (x.q 0x20 / 4 * 4), level := .program, mode := .running, wait := none
        commit := none
        sched.saved := u.sched.saved.filter (fun y => !(y.asid == sp.1 && y.image == r.code)) } false
    | _ => bad

/-- Start the activation of a record; none when its block is still busy (R352, 17_system.md R453). -/
def startRecord (s : State) (dq : Nat) (r : Record) (item : Option Nat) (shape : Word) : Option State :=
  let kind := fld r.tag.toNat 55 2
  if kind = 2 then some (startSaved s dq r)
  else if blockBusy s (nextBlock s) then none
  else if kind = 1 then some (startTile s dq r item shape)
  else some (startFresh s dq r item shape)

/-- The record of item x of a launch taken from queue dq (R345). -/
def itemRecord (s : State) (l : Launch) (dq x : Nat) : Record :=
  ⟨w64 (l.w 0), w64 (l.w 1), w64 (l.ident x),
    w64 (clampPrio s dq (fld (l.w 4) 16 3) + bNat (bitOf (l.w 4) 41) * 2 ^ 55)⟩

/-- The core starts item x of a launch from queue dq. -/
def startItem (s : State) (l : Launch) (dq x : Nat) : Option State :=
  startRecord s dq (itemRecord s l dq x) (some l.id) (w64 (l.w 2))

/-- The core's die may take the launch's next unit: it lies in no die-scope group of another die (R345). -/
def dieMayTake (l : Launch) : Bool :=
  l.next < l.items && (!l.dieScoped || ((l.groups.lookup (l.next / l.dieSize)).getD Config.dieId) == Config.dieId)

/-- A unit of the launch remains for a die: one of a die-scope group assigned to it, or of one not yet assigned; the groups are
assigned lowest first (R345). -/
def Launch.remainsFor (l : Launch) (die : Nat) : Bool :=
  l.next < l.items && (!l.dieScoped || (l.groups.lookup ((l.items - 1) / l.dieSize)).isNone ||
    l.groups.any (fun g => g.2 == die && decide (l.next < (g.1 + 1) * l.dieSize)))

/-- The entries of a launch leave the queues of the dies for which no unit of it remains (R345). -/
def leaveQueues (s : State) (l : Launch) : State :=
  { s with sched.queues := s.sched.queues.filter (fun e => e.2 != .launch l.id || l.remainsFor (e.1 / 64)) }

/-- The core takes the next unit of a launch at the head of queue dq (R345). -/
def takeUnit (s : State) (dq id : Nat) : Option State := do
  let l ← findLaunch s id
  if !dieMayTake l then none
  else
    let n := l.unitSize
    let g := l.next / l.dieSize
    let l' := { l with
      next := l.next + n
      groups := if l.dieScoped ∧ (l.groups.lookup g).isNone then l.groups ++ [(g, Config.dieId)] else l.groups }
    let s' := leaveQueues (putLaunch s l') l'
    let s' := if l.highest (fun c => c == 1) = 0 then s'
      else { s' with sched.coreUnit := some ⟨id, l.next + 1, l.next + n, n⟩ }
    startItem s' l dq l.next

/-- The queue of the die that is served next: the highest priority, then the lowest index above the one served last at
that priority, wrapping (R351). -/
def chooseQueue (s : State) : Option (Nat × Nat) :=
  let heads := (upto (64 * Config.dieId) 64).filterMap (fun dq => (queuePrio s dq).map (fun p => (dq, p)))
  match heads with
  | [] => none
  | h :: t =>
    let p := t.foldl (fun m x => max m x.2) h.2
    let last := (mapGet s.sched.served (8 * Config.dieId + p) ^^^ 63).toNat
    let same := heads.filter (fun x => x.2 == p)
    (same.find? (fun x => last < x.1 % 64)).or same.head?

/-- Remember the queue served at a priority (R351); an index that is not listed is 63. -/
def noteServed (s : State) (dq p : Nat) : State :=
  { s with sched.served := mapSet s.sched.served (8 * Config.dieId + p) (BitVec.ofNat 6 dq ^^^ 63) }

/-- What an idle sequencer takes (R351): the saved item or the next item of its unit, or the head of a queue. While an item of
the unit is parked in a join block, the core takes nothing else: the items of a core-scope group run one after another, each
after the `done` of the one before (R344, R345; R351 step 1 read with them: DESIGN CHOICE, log 23). To take an item of a unit
serves no queue in the sense of step 3 (DESIGN CHOICE, log 37). -/
def takeNext (s : State) : Option State :=
  match s.sched.coreUnit with
  | some u =>
    match s.sched.queues.find? (fun e => match e.2 with
        | .record _ k => k == some u.launch
        | .launch _ => false) with
    | some (dq, .record r k) =>
      startRecord { s with sched.queues := dequeue dq (.record r k) s.sched.queues } dq r none plainShape
    | _ =>
      if u.stop ≤ u.next ∨ s.sched.saved.any (fun y => y.parked && y.unit == some u.launch) then none
      else do
        let l ← findLaunch s u.launch
        let dq := 64 * Config.dieId + fld (l.w 4) 20 6
        startItem { s with sched.coreUnit := some { u with next := u.next + 1 } } l dq u.next
  | none => do
    let c ← chooseQueue s
    let e ← (queueEntries s c.1).head?
    let s' := noteServed s c.1 c.2
    match e with
    | .record r k =>
      startRecord { s' with sched.queues := dequeue c.1 (.record r k) s'.sched.queues } c.1 r none plainShape
    | .launch id => takeUnit s' c.1 id

/-- TAKE_RECORD: an idle sequencer takes its next record or item (R351). -/
def execTakeRecord (s : State) : Out :=
  if s.mode = .idle then .next ((takeNext s).getD s) else .next s

/-! ### The scheduler's pre-emption requests -/

/-- The queue whose head is more urgent than the running activation, with the activation's priority, when no request for
it is outstanding (R362). The other cores count as neither idle nor of lower priority (log 5). -/
def urgentQueue (s : State) : Option (Nat × Nat) :=
  match s.sched.act with
  | none => none
  | some a =>
    let own := fld a.record.tag.toNat 0 3
    let launch := s.sched.coreUnit.map (·.launch)
    if s.mode ≠ .running ∨ (s.sched.schedReq.isSome ∧ s.ctl.preReq.isSome) then none
    else ((upto (64 * Config.dieId) 64).find? (fun dq => (queuePrio s dq).any (fun p => own < p) &&
        !(match (queueEntries s dq).head?, launch with
          | some (.launch id), some l => id == l
          | some (.record _ unit), some l => unit == some l
          | _, _ => false))).map (fun dq => (dq, own))

/-- SCHEDULER_PREEMPTION_REQUEST: the scheduler raises a request on the core (R362). -/
def execSchedulerPreemptionRequest (s : State) : Out :=
  match urgentQueue s with
  | none => .next s
  | some x => .next { raisePreempt s with sched.schedReq := some x }

end Sys2Proof.Machine
end

