-- ==== Sys2Proof/Machine/Transport.lean ====
section
/-!
DEFINITION. The Khamsin transport, host operations and the launch doorbell (18_platform.md R460 to R466, R481).
-/

namespace Sys2Proof.Machine

/-! ### The doorbell -/

/-- n bytes at a physical address lie wholly in a window of the port that permits reads or writes (R461, R462). -/
def inWindow (s : State) (p : Nat) (write : Bool) (pa n : Nat) : Bool :=
  (upto 0 4).any (fun w =>
    let base := (s.port p (8 + 4 * w)).toNat
    let limit := (s.port p (9 + 4 * w)).toNat
    bitOf (s.port p (10 + 4 * w)).toNat (if write then 1 else 0) && base ≤ pa && pa + n ≤ limit && base < limit)

/-- n bytes at a physical address are memory that the hub, at which a host enters, can reach (06_memory.md R145, R461,
R468). -/
def plainBytes (s : State) (pa n : Nat) : Bool :=
  [pa, pa + n - 1].all (fun x => isMemory x && s.reachesFrom 8 (ownerNode x))

/-- The status of a doorbell store, and the state after it (R481): 0 accepted, 1 rejected, 2 queue full, 3 not in a
window. -/
def hostLaunch (s : State) (p addr : Nat) : Nat × State :=
  if !inWindow s p false addr 64 then (3, s)
  else if addr % 64 ≠ 0 ∨ !plainBytes s addr 64 ∨ (poisonAt s addr).isSome then (1, s)
  else
    let ws := (upto 0 8).map (fun k => leNat ((upto (addr + 8 * k) 8).map s.pubByte))
    let queues := targetQueues ws
    let sp := queueSpace s (queues.headD 0)
    let cw := w64 (ws.getD 6 0)
    let cwBad := cw != 0 && (match translateAt s s.pubByte (some sp.2) .program .store cw with
      | .error _ => true
      | .ok _ => false)
    if !headerOk ws || fld (ws.getD 4 0) 42 3 != 0 || queues.any (fun dq => !queueBound s dq) || cwBad then (1, s)
    else if queues.any (queueFull s) then (2, s)
    else (0, placeLaunch s .program (ws.map w64) queues none sp)

/-- A host's store to the doorbell of port p: it is busy until the hub has acted, and ignored while it is busy (R481). -/
def doorbellStore (s : State) (p addr : Nat) : State :=
  if bitOf (mapGet s.hub.doorbell p).toNat 2 then s
  else { s with hub.doorbell := mapSet s.hub.doorbell p 4, hub.bellReq := s.hub.bellReq ++ [(p, addr)] }

/-- The hub acts on a doorbell store of port p: a rejected or failed one is logged as a scheduler fault of the hub, with
the port as its detail (R481, R476; log 25). -/
def answerDoorbell (s : State) (p addr : Nat) : State :=
  let r := hostLaunch s p addr
  let t := { r.2 with hub.doorbell := mapSet r.2.hub.doorbell p (BitVec.ofNat 3 r.1) }
  if r.1 = 0 then t else logEvent t 3 r.1 8 (w64 (addr % 2 ^ 46)) (w64 p)

/-- What the hub does next: the oldest doorbell store it has not acted on (R481). -/
def hubAct (s : State) : Option State :=
  match s.hub.bellReq with
  | [] => none
  | (p, addr) :: rest => some (answerDoorbell { s with hub.bellReq := rest } p addr)

/-- DOORBELL: a host's store to the doorbell of a port (R481). -/
def execDoorbell (p : BitVec 1) (addr : BitVec 64) (s : State) : Out := .next (doorbellStore s p.toNat addr.toNat)

/-! ### Host operations -/

/-- A host's store of an aligned 8-byte word of the control block: the doorbell takes it (R481). -/
def hostWord (s : State) (who : Who) (pa v : Nat) : Option State :=
  if 0x3FFF80007000 ≤ pa ∧ pa < 0x3FFF80007020 then
    some (if pa % 16 = 0 then doorbellStore s (pa / 16 % 2) v else s)
  else controlWrite8 s who pa v

/-- A host's write of the bytes at a physical address in its windows: none when it is refused (R461). It is one store, and
clears the poison of the lines it fills (R475). The control block too is reached through an enabled window that encloses the bytes:
R461's words hold over R460's, by which a port reaches the whole of it (DESIGN CHOICE, log 19). -/
def hostWrite (s : State) (p : Nat) (who : Who) (pa : Nat) (bs : List Byte) : Option State :=
  let n := bs.length
  if !inWindow s p true pa n then none
  else if isControl pa then
    if !(n == 4 || n == 8) || pa % n != 0 then none
    else if n = 8 then hostWord s who pa (leNat bs)
    else controlWrite s who pa n (leNat bs)
  else if n = 0 then some s
  else if plainBytes s pa n then
    some (clearPoison (storeAll outsideByte s (upto pa n) bs) (if s.memory.poison = [] then [] else upto pa n))
  else none

/-- A host's read of n bytes at a physical address in its windows: none when it is refused (R461). -/
def hostRead (s : State) (p : Nat) (who : Who) (pa n : Nat) : Option (List Byte × State) :=
  if !inWindow s p false pa n then none
  else if isControl pa then
    if !(n == 4 || n == 8) || pa % n != 0 then none
    else (controlRead s who pa n).map (fun r => (leBytes r.1 n, r.2))
  else if n = 0 then some ([], s)
  else if plainBytes s pa n && !((upto pa n).any (fun l => (poisonAt s l).isSome)) then some ((upto pa n).map s.pubByte, s)
  else none

/-- A naturally aligned access of 4 or 8 bytes (R461). -/
def syncSized (pa n : Nat) : Bool := (n == 4 || n == 8) && pa % n == 0

/-! ### Packets -/

/-- The first 32 bytes of a packet (R464). -/
def packetHead (p : Packet) : List Byte :=
  [1, BitVec.ofNat 8 p.kind] ++ leBytes p.data.length 2 ++ leBytes p.conn.toNat 4 ++ leBytes p.seq.toNat 8 ++
    leBytes p.ack.toNat 8 ++ leBytes p.addr.toNat 8

/-- The datagram that carries a packet (R464). -/
def datagram (p : Packet) : List Byte :=
  packetHead p ++ leBytes (crc32c (packetHead p ++ p.data)).toNat 4 ++ p.data

/-- The packet a datagram carries; none when it is discarded (R464). -/
def parsePacket (g : List Byte) : Option Packet :=
  let num (o n : Nat) : Nat := leNat ((g.drop o).take n)
  let data := g.drop 36
  if g.length < 36 ∨ num 0 1 ≠ 1 ∨ 8 < num 1 1 ∨ 4096 < num 2 2 ∨ num 2 2 ≠ data.length then none
  else if num 32 4 ≠ (crc32c (g.take 32 ++ data)).toNat then none
  else some ⟨num 1 1, BitVec.ofNat 32 (num 4 4), w64 (num 8 8), w64 (num 16 8), w64 (num 24 8), data⟩

/-- Count a discarded packet, saturating (R462, R464). -/
def countDiscard (s : State) (p : Nat) : State :=
  let c := (s.port p 7).toNat
  setPort s p 7 (w64 (setFld c 0 32 (min (fld c 0 32 + 1) (2 ^ 32 - 1))))

/-- Count n retransmissions sent, saturating (R462). -/
def countResent (s : State) (p n : Nat) : State :=
  let c := (s.port p 7).toNat
  setPort s p 7 (w64 (setFld c 32 32 (min (fld c 32 32 + n) (2 ^ 32 - 1))))

/-! ### Connections -/

/-- Put a connection back, or list it. -/
def putConn (s : State) (c : Conn) : State :=
  if s.hub.conns.any (fun x => x.same c) then
    { s with hub.conns := s.hub.conns.map (fun x => if x.same c then c else x) }
  else { s with hub.conns := s.hub.conns ++ [c] }

/-- A connection that a host or a peer opens on port p, after the failed ones of its id (R463 to R465). -/
def openConn (s : State) (p : BitVec 1) (id : BitVec 32) : Conn :=
  ⟨id, p, p, 0, 0, [], [], [], [], false, false, (s.hub.conns.filter (fun c => c.id == id)).length⟩

/-- Retire what an acknowledgement number covers (R464). -/
def Conn.retire (c : Conn) (ack : Word) : Conn :=
  { c with pending := c.pending.filter (fun x => decide (ack.toNat < x.1.seq.toNat)) }

/-- Send a packet on a connection. One for a peer whose address entry does not serve the port is not sent (R462). -/
def sendOn (s : State) (c : Conn) (k : Packet) : State := if connOpen s c then sendPacket s c.port.toNat k else s

/-- Acknowledge, or refuse, the operation at an address: not numbered and never retransmitted (R464). -/
def answer (s : State) (c : Conn) (kind : Nat) (addr : Word) : State := sendOn s c ⟨kind, c.id, c.sent, c.got, addr, []⟩

/-- Answer with data: the packet takes the connection's next number (R464). -/
def answerData (s : State) (c : Conn) (addr : Word) (bs : List Byte) : State :=
  let pkt : Packet := ⟨4, c.id, c.sent + 1, c.got, addr, bs⟩
  sendOn (putConn s { c with sent := c.sent + 1, pending := c.pending ++ [(pkt, 0)] }) c pkt

/-- Data that answer the oldest GET of its address and length not yet answered; other data answer none (R338, R464). -/
def Conn.reply (c : Conn) (addr : Word) (bs : List Byte) : Conn :=
  match c.gets.find? (fun g => g.2.1 == addr && g.2.2 == bs.length) with
  | none => c
  | some g => { c with gets := c.gets.filter (fun h => h.1 != g.1), replies := c.replies ++ [(g.1, bs)] }

/-- The number of the oldest operation at an address that is not answered: a PUT not acknowledged, or a GET (R464, R465). -/
def Conn.asked (c : Conn) (addr : Word) : Option Nat :=
  let puts := (c.pending.filter (fun x => x.1.kind == 7 && x.1.addr == addr)).map (fun x => x.1.seq.toNat)
  let gets := (c.gets.filter (fun g => g.2.1 == addr)).map (·.1)
  (puts ++ gets).min?

/-- A refusal of the operation at an address (R464). -/
def Conn.refuse (c : Conn) (addr : Word) : Conn :=
  match c.asked addr with
  | none => c
  | some q => { c with refused := q :: c.refused, gets := c.gets.filter (fun h => h.1 != q) }

/-- Perform the operation of a packet that arrived in order on port p, on a connection that already counts it (R461, R465). -/
def deliver (s : State) (p : Nat) (c : Conn) (k : Packet) : State :=
  let who := hostWho c.opened.toNat
  let pa := k.addr.toNat
  let n := leNat (k.data.take 8)
  let write (ok : Bool) : State :=
    match if ok then hostWrite s p who pa k.data else none with
    | none => answer s c 6 k.addr
    | some t => answer t c 5 k.addr
  let read (ok : Bool) : State :=
    match if ok && n ≤ 4096 then hostRead s p who pa n else none with
    | none => answer s c 6 k.addr
    | some r => answerData r.2 c k.addr r.1
  match k.kind with
  | 0 => write true
  | 1 => write (syncSized pa k.data.length)
  | 2 => read true
  | 3 => read (syncSized pa n)
  | 7 => write true
  | 8 => read true
  | _ => answer (putConn s (c.reply k.addr k.data)) c 5 k.addr

/-- The connection may move to the other port: its peer entry has fo = 1 (R465, R466). -/
def failsOver (s : State) (c : Conn) : Bool := (peerOf s c.id).any (fun k => bitOf (s.peerWord k 0) 2)

/-- A connection on which a packet comes on port p: a host's, and a peer's with fo = 1, goes on there; a peer's with fo = 0 stays
on its port, and waits for its link when it has none (R463, R466; that the operation of such a packet is performed all the same
is a DESIGN CHOICE, log 19). -/
def cameOn (s : State) (p : BitVec 1) (c : Conn) : Conn :=
  if c.port = p ∨ (peerOf s c.id).isNone ∨ failsOver s c then { c with port := p, waiting := false } else c

/-- An operation arrives on port p: it is delivered when its number is the next one; one already delivered is acknowledged
again and not performed; a later one is dropped (R464). A connection moves to the port on which its packets come (R463). After a failed
connection a packet numbered 1 opens a host's id anew, and one that a peer entry names is never opened again by the peer's packets
(R464: DESIGN CHOICE, log 19). -/
def receiveOp (s : State) (p : BitVec 1) (k : Packet) : State :=
  match findConn s k.conn with
  | none =>
    if k.kind = 4 ∨ ((peerOf s k.conn).isSome ∧ s.hub.conns.any (fun x => x.id == k.conn)) then s
    else
      let c := openConn s p k.conn
      if k.seq = 1 then
        let c := { c with got := 1 }
        deliver (putConn s c) p.toNat c k
      else s
  | some c0 =>
    let c := cameOn s p (c0.retire k.ack)
    if k.seq = c.got + 1 then
      let c := { c with got := k.seq }
      deliver (putConn s c) p.toNat c k
    else if k.seq.toNat ≤ c.got.toNat then answer (putConn s c) c 5 k.addr
    else putConn s c

/-- An acknowledgement or a refusal arrives (R464): it retires what it covers. -/
def receiveAck (s : State) (k : Packet) : State :=
  match findConn s k.conn with
  | none => s
  | some c0 =>
    putConn s ((if k.kind = 6 then c0.refuse k.addr else c0).retire k.ack)

/-- A datagram reaches port p: it is discarded when it is malformed, and has its effect when it is of the given type. -/
def receive (kind : Nat) (p : BitVec 1) (gram : List Byte) (s : State) : Out :=
  if !s.portOn p.toNat then .next s
  else match parsePacket gram with
    | none => .next (countDiscard s p.toNat)
    | some k =>
      if k.kind ≠ kind then .next s
      else if kind = 5 ∨ kind = 6 then .next (receiveAck s k)
      else .next (receiveOp s p k)

/-- WRITE (R461). -/
def execWrite (p : BitVec 1) (gram : List Byte) (s : State) : Out := receive 0 p gram s
/-- WRITE_SYNC (R461). -/
def execWriteSync (p : BitVec 1) (gram : List Byte) (s : State) : Out := receive 1 p gram s
/-- READ (R461). -/
def execRead (p : BitVec 1) (gram : List Byte) (s : State) : Out := receive 2 p gram s
/-- READ_SYNC (R461). -/
def execReadSync (p : BitVec 1) (gram : List Byte) (s : State) : Out := receive 3 p gram s
/-- DATA_PACKET (R464). -/
def execDataPacket (p : BitVec 1) (gram : List Byte) (s : State) : Out := receive 4 p gram s
/-- ACK (R464). -/
def execAck (p : BitVec 1) (gram : List Byte) (s : State) : Out := receive 5 p gram s
/-- NAK (R464). -/
def execNak (p : BitVec 1) (gram : List Byte) (s : State) : Out := receive 6 p gram s
/-- PUT_PACKET (R465). -/
def execPutPacket (p : BitVec 1) (gram : List Byte) (s : State) : Out := receive 7 p gram s
/-- GET_PACKET (R465). -/
def execGetPacket (p : BitVec 1) (gram : List Byte) (s : State) : Out := receive 8 p gram s

/-! ### Retransmission and links -/

/-- Send every unacknowledged packet of a connection again, lowest first, when its port transmits and, for a peer, its
address entry serves the port (R462, R464, R466). -/
def resend (s : State) (c : Conn) : State :=
  let p := c.port.toNat
  if s.portOn p && connOpen s c then
    countResent (c.pending.foldl (fun t x => sendPacket t p { x.1 with ack := c.got }) s) p c.pending.length
  else s

/-- RETRANSMISSION: the timeout of a connection's oldest unacknowledged packet has expired; after eight retransmissions
the connection fails (R464). -/
def execRetransmission (conn : BitVec 32) (s : State) : Out :=
  match findConn s conn with
  | none => .next s
  | some c =>
    match c.pending with
    | [] => .next s
    | x :: _ =>
      if 8 ≤ x.2 then .next (putConn s { c with failed := true })
      else
        let c := { c with pending := c.pending.map (fun x => (x.1, x.2 + 1)) }
        .next (resend (putConn s c) c)

/-- The port carries a connection that has not failed. -/
def carries (p : BitVec 1) (c : Conn) : Bool := c.port == p && !c.failed

/-- A connection after the loss of a port's link: it moves, or waits (R466). -/
def afterLoss (s : State) (p : BitVec 1) (c : Conn) : Conn :=
  if !carries p c then c else if failsOver s c then { c with port := p + 1 } else { c with waiting := true }

/-- LINK_LOSS: the port's connections move to the other port and send again, or wait for the link (R466). -/
def execLinkLoss (p : BitVec 1) (s : State) : Out :=
  let s := setPort s p.toNat 0 0
  let moved := (s.hub.conns.filter (fun c => carries p c && failsOver s c)).map (afterLoss s p)
  .next (moved.foldl resend { s with hub.conns := s.hub.conns.map (afterLoss s p) })

/-- A connection after a port has its link again: it waits no longer (R466). -/
def afterLink (p : BitVec 1) (c : Conn) : Conn := if carries p c then { c with waiting := false } else c

/-- LINK_UP: the port has its link and its alignment, and the connections that wait on it send again (R462, R466). -/
def execLinkUp (p : BitVec 1) (s : State) : Out :=
  let s := setPort s p.toNat 0 3
  let woken := (s.hub.conns.filter (fun c => carries p c && c.waiting)).map (afterLink p)
  .next (woken.foldl resend { s with hub.conns := s.hub.conns.map (afterLink p) })

end Sys2Proof.Machine
end

