-- ==== Sys2Proof/Machine/Platform.lean ====
section
/-!
DEFINITION. The hub's own events: control registers, semaphores, integrity, power, refresh, boot and attestation
(17_system.md R445 to R452, 18_platform.md R463, R467 to R479).
-/

namespace Sys2Proof.Machine

/-! ### Control registers -/

/-- A store to register o of a core's page (17_system.md R452). -/
def corePageStore (s : State) (who : Who) (core o v : Nat) : State :=
  if 1152 ≤ core then s
  else if core = Config.coreId then (corePageWrite s who o v).getD s
  else (otherPageWrite s who core o v).getD s

/-- PREQ (17_system.md R452). -/
def execPreq (core : BitVec 11) (s : State) : Out := .next (corePageStore s (hostWho 0) core.toNat 0 0)
/-- WAKE_REGISTER (17_system.md R449, R452). -/
def execWakeRegister (core : BitVec 11) (s : State) : Out := .next (corePageStore s (hostWho 0) core.toNat 1 0)
/-- TCMP (17_system.md R445, R452). -/
def execTcmp (core : BitVec 11) (v : BitVec 64) (s : State) : Out := .next (corePageStore s (hostWho 0) core.toNat 2 v.toNat)
/-- RESTART (17_system.md R447, R452). -/
def execRestart (core : BitVec 11) (s : State) : Out := .next (corePageStore s (hostWho 0) core.toNat 11 0)

/-- CONTROL_REGISTER_WRITE: an 8-byte store of a host, or of the core at its level, to an aligned control-block address
(17_system.md R452, R459), with the order that a store of the core has (18_platform.md R463). A store that is refused changes
nothing here. -/
def execControlRegisterWrite (host : Bool) (addr v : BitVec 64) (s : State) : Out :=
  let a := addr.toNat
  if !isControl a ∨ a % 8 ≠ 0 then .next s
  else .next ((if host then hostWord s (hostWho 0) a v.toNat
    else controlWrite8 (controlOrder s a v.toNat) s.self a v.toNat).getD s)

/-! ### Semaphores -/

/-- What a store of the core to semaphore n orders: a release, by the owner, publishes its earlier stores (R463). -/
def semaOrder (s : State) (req : BitVec 16) (n : Nat) : State :=
  if req.toNat = 1 + Config.coreId ∧ fld (mapGet s.hub.semas n).toNat 0 16 = req.toNat then publishAll s else s

/-- SEMAPHORE_ACQUIRE: a requester loads semaphore n; the core's own load is a synchronising access that acquires (R463). -/
def execSemaphoreAcquire (req : BitVec 16) (n : BitVec 8) (s : State) : Out :=
  .next (semaLoad (if req.toNat = 1 + Config.coreId then syncOrder s else s) n.toNat req.toNat).2
/-- SEMAPHORE_RELEASE: a requester stores a value with owner zero to semaphore n (R463). -/
def execSemaphoreRelease (req : BitVec 16) (n : BitVec 8) (s : State) : Out :=
  .next (semaRelease (semaOrder s req n.toNat) n.toNat req.toNat)
/-- SEMAPHORE_FORCED_RELEASE: firmware or a host frees semaphore n (R463). -/
def execSemaphoreForcedRelease (n : BitVec 8) (s : State) : Out := .next (semaFree s n.toNat)

/-! ### Integrity -/

/-- CORRECTED_ERROR: the counter of a place, saturating (R475, R476). -/
def execCorrectedError (place : BitVec 6) (s : State) : Out :=
  let c := mapGet s.hub.logCount place.toNat
  .next { s with hub.logCount := mapSet s.hub.logCount place.toNat (if c = BitVec.allOnes 64 then c else c + 1) }

/-- UNCORRECTABLE_ERROR: the line is poisoned and the error logged (R475, R476). A location from 2^46 on is a byte of the
core's scratchpad, which has no physical address: its entry names the core and address 0. -/
def execUncorrectableError (sub : BitVec 8) (addr : BitVec 47) (s : State) : Out :=
  let l := addr.toNat
  let pad := 2 ^ 46 ≤ l
  let u := if pad then logEvent s 1 sub.toNat Config.coreId 0 0 else logEvent s 1 sub.toNat (ownerNode l) (w64 l) 0
  if isMemory l ∨ (pad ∧ l < 2 ^ 46 + 2 ^ 21) then
    .next { u with memory.poison := (l / 64, sub.toNat) :: u.memory.poison.filter (fun c => c.1 != l / 64) }
  else .next u

/-- An asynchronous integrity error is taken after an instruction commits (17_system.md R438, R439). -/
def integrityDue (s : State) : Bool := s.ctl.errPend != [] && s.atBoundary

/-- The oldest asynchronous integrity error is taken; `eaddr` holds its address, 0 for a link (R468, R475). -/
def takeIntegrity (s : State) : State :=
  match s.ctl.errPend with
  | [] => s
  | e :: rest => takeTrap { s with ctl.errPend := rest } { code := 11, sub := e.1, eaddr := e.2 }

/-- INTEGRITY_ERROR: a pending error is taken when it may be. Otherwise an error arises: a parity error of a register, tile
or latch at the instruction that reads it, any other one asynchronously (R475). -/
def execIntegrityError (sub : BitVec 8) (s : State) : Out :=
  if s.ctl.errPend.any (fun e => e.1 == sub.toNat) then (if integrityDue s then .next (takeIntegrity s) else .next s)
  else if (sub = 5 ∨ sub = 6) ∧ s.mode = .running ∧ s.wait = none then .next (takeTrap s { code := 11, sub := sub.toNat })
  else if 1 ≤ sub.toNat ∧ sub.toNat ≤ 7 then .next { s with ctl.errPend := s.ctl.errPend ++ [(sub.toNat, 0)] }
  else .next s

/-- RING_LINK_FAILURE: traffic takes the other way; the error is raised on the core and logged, with the core in the entry and the
link as its detail, and with an entry for every die that can no longer be reached from the core's own (R467, R468, R476; DESIGN
CHOICE, log 25). -/
def execRingLinkFailure (link : BitVec 4) (s : State) : Out :=
  let k := link.toNat
  if 9 ≤ k ∨ s.hub.ringDown.getLsbD k then .next s
  else
    let t := { s with
      hub.ringDown := s.hub.ringDown ||| BitVec.ofNat 9 (2 ^ k)
      ctl.errPend := s.ctl.errPend ++ [(7, 0)] }
    let t := logEvent t 5 7 Config.coreId 0 (w64 k)
    .next (((upto 0 9).filter (fun d => s.reaches d && !t.reaches d)).foldl (fun u d => logEvent u 5 7 d 0 0) t)

/-! ### Power -/

/-- A thermal trip of a die: it is logged and the module removes its own power (R472, R476). -/
def thermalTrip (s : State) (die : Nat) : State :=
  { logEvent s 2 0 die 0 (w64 s.hub.temp.toNat) with hub.powered := false }

/-- THERMAL_TRIP: a trip between two epochs (R472). The event names no die; the entry names the one that was hottest (DESIGN
CHOICE, log 20). -/
def execThermalTrip (s : State) : Out := .next (thermalTrip s s.hub.hotDie.toNat)

/-- The dies of the enabled group registers that share a die with a set of dies, one round of joining (R471). -/
def joinGroups (s : State) (set : Nat) : Nat :=
  (upto 0 16).foldl (fun m k =>
    let g := (mapGet s.hub.groups k).toNat
    if bitOf g 8 && (m &&& (g % 256)) != 0 then m ||| (g % 256) else m) set

/-- The dies that act as one group with die d (R471). -/
def groupOf (s : State) (d : Nat) : List Nat :=
  let set := (upto 0 8).foldl (fun m _ => joinGroups s m) (2 ^ d)
  (upto 0 8).filter (bitOf set)

/-- The grant of die d (R470); its reset value is 256. -/
def State.grant (s : State) (d : Nat) : Nat := (mapGet s.hub.grants d ^^^ 256).toNat

/-- The grant a die would receive alone, from the power manager's decision (R470). -/
def aloneGrant (s : State) (own : List (BitVec 9)) (d : Nat) : Nat :=
  max 1 (min (min 256 s.hub.gcap.toNat) (own.getD d 256).toNat)

/-- The power manager's readings and decisions for one epoch: module power, the junction of each die, the temperature of
each HBM4E stack, and the grant that each die's own limits allow. -/
structure Epoch where
  power : Nat
  dies : List (BitVec 8)
  hbm : List (BitVec 8)
  own : List (BitVec 9)
  deriving DecidableEq, Repr

/-- The grant that die d would receive alone after one step: at most 32 lower or 16 higher than its old one. With pnow above
1.1 × plim it may fall to 16; a thermal condition lifts the bound (R470). -/
def stepGrant (s : State) (e : Epoch) (thermal : Bool) (d : Nat) : Nat :=
  let old := s.grant d
  let least := if thermal then 1 else if s.hub.plim.toNat * 11 < e.power * 10 then min 16 (old - 32) else old - 32
  max (max 1 least) (min (aloneGrant s e.own d) (old + 16))

/-- A stack of die d is from 95 °C to below 105 °C; die d owns the stacks 2 d and 2 d + 1 (01_machine.md R19, R473). -/
def stackWarm (e : Epoch) (d : Nat) : Bool :=
  [2 * d, 2 * d + 1].any (fun k => 95 ≤ (e.hbm.getD k 0).toNat && (e.hbm.getD k 0).toNat < 105)

/-- The new grant of die d: the smallest that a die of its group would receive alone (R470, R471). A warm stack lowers the
grants of the owning die's group, by 1 at least (R473; log 20), and a junction at 105 °C lowers its group's to 16 (R472). -/
def nextGrant (s : State) (e : Epoch) (d : Nat) : Nat :=
  let dies := groupOf s d
  let warm := dies.any (stackWarm e)
  let hot := dies.any (fun x => 105 ≤ (e.dies.getD x 0).toNat)
  let least (f : Nat → Nat) : Nat := dies.foldl (fun m x => min m (f x)) 256
  let g := least (stepGrant s e (warm || hot))
  let g := if warm then max 1 (min g (least (fun x => s.grant x - 1))) else g
  if hot then min 16 g else g

/-- The hottest of some readings. -/
def hottest (ts : List (BitVec 8)) : Nat := (ts.map (·.toNat)).foldl max 0

/-- The die at which the module trips: a junction at 115 °C, or the owner of a stack at 110 °C (R472, R473). -/
def tripDie (dies hbm : List (BitVec 8)) : Option Nat :=
  ((upto 0 8).find? (fun d => 115 ≤ (dies.getD d 0).toNat)).or
    (((upto 0 16).find? (fun k => 110 ≤ (hbm.getD k 0).toNat)).map (· / 2))

/-- The first die whose junction is the hottest of some readings. -/
def hottestDie (dies : List (BitVec 8)) : BitVec 3 :=
  BitVec.ofNat 3 (((upto 0 8).find? (fun d => (dies.getD d 0).toNat == hottest dies)).getD 0)

/-- GRANT_EPOCH: one epoch of the power manager (R469 to R473; log 20). The readings are the inlet temperature, the junctions
of the dies and the temperatures of the stacks. -/
def execGrantEpoch (power : BitVec 12) (temps : BitVec 8 × List (BitVec 8) × List (BitVec 8)) (own : List (BitVec 9))
    (s : State) : Out :=
  let inlet := temps.1
  let dies := temps.2.1
  let hbm := temps.2.2
  let gs := (upto 0 8).map (nextGrant s ⟨power.toNat, dies, hbm, own⟩)
  let u := { s with
    hub.pnow := power
    hub.temp := BitVec.ofNat 27 (hottest dies + hottest hbm * 2 ^ 8 + inlet.toNat * 2 ^ 16 +
      s.hub.temp.toNat / 2 ^ 24 * 2 ^ 24)
    hub.epoch := s.hub.epoch + 1
    hub.hotDie := hottestDie dies
    hub.grants := mapBuild (fun d => BitVec.ofNat 9 (gs.getD d 256) ^^^ 256) 0 8
    lanes.grantG := BitVec.ofNat 9 (gs.getD Config.dieId 256) }
  .next ((tripDie dies hbm).elim u (thermalTrip u))

/-- The refresh factor at a temperature (R473). DESIGN CHOICE: 4 also at 110 degrees and above, where the table gives no
factor and the module trips (log 20). -/
def refreshFactor (t : Nat) : Nat := if t < 85 then 1 else if t < 95 then 2 else 4

/-- REFRESH_EVALUATION: each HBM4E stack chooses its band (R473). -/
def execRefreshEvaluation (temps : List (BitVec 8)) (s : State) : Out :=
  let top := hottest temps
  let n := temps.length
  let u := { s with
    hub.refresh := mapBuild (fun k => BitVec.ofNat 3 (refreshFactor (temps.getD k 0).toNat)) 0 n
    hub.temp := BitVec.ofNat 27 (setFld (setFld s.hub.temp.toNat 8 8 top) 24 3 (refreshFactor top)) }
  let u := (upto 0 n).foldl (fun t k =>
    let x := (temps.getD k 0).toNat
    if 105 ≤ x ∧ x < 110 then logEvent t 2 0 (k / 2) 0 (w64 x) else t) u
  .next (if n = 0 then s else (tripDie [] temps).elim u (thermalTrip u))

/-! ### Boot and attestation -/

/-- The key's digest is that of an unrevoked fuse slot (R477). -/
def keyTrusted (key : List Byte) : Bool :=
  (upto 0 2).any (fun k => !Config.fuseRevoked k && shake256 key 32 == leBytes (Config.fuseDigest k).toNat 32)

/-- POWER_ON: the Aedpevis ROM verifies the firmware and starts it, or leaves every core halted (R477). -/
def execPowerOn (image key sig : List Byte) (s : State) : Out :=
  let u := { State.reset with agenda := s.agenda, freeCount := s.freeCount, hub.boots := s.hub.boots + 1, hub.bootImage := image }
  if mlDsaVerify key image sig && keyTrusted key then
    .next { u with
      hub.measure := shake256 image 64
      mode := .running
      level := .firmware
      pc := Config.imageEntry image
      source := Config.imageEntry image }
  else .next (logEvent u 4 0 0 0 1)

/-- MEASUREMENT_EXTEND: 64 bytes written to mailbox 2 at firmware level extend the measurement (R477). -/
def execMeasurementExtend (data : List Byte) (s : State) : Out :=
  if data.length = 64 ∧ s.level = .firmware then .next (extendMeasure s data) else .next s

/-- MAILBOX_REPORT_REQUEST: cmd 1 is written to a mailbox; ignored while it is busy (R479). -/
def execMailboxReportRequest (b : BitVec 2) (s : State) : Out :=
  if b = 3 then .next s else .next (boxWrite s s.self b.toNat 0 1)

/-- The 256-bit seed of the identity key pair (R478). -/
def identitySeed : List Byte := shake256 (leBytes Config.deviceSecret.toNat 32 ++ [0x4B, 0x32, 0x2D, 0x49, 0x44]) 32

/-- The 128 bytes of a report (R478, R479): the nonce and M are those at its completion (DESIGN CHOICE, log 9). -/
def reportBytes (s : State) (b : Nat) : List Byte :=
  (shake256 (mlDsaPublicKey identitySeed) 16 ++ leBytes (Config.imageVersion s.hub.bootImage).toNat 8 ++
    leBytes (Config.bootCount s.hub.boots).toNat 8 ++ (s.hub.measure ++ List.replicate 64 0).take 64 ++
    (upto 8 4).flatMap (fun o => leBytes (s.box b o).toNat 8)).take 128

/-- Write bytes into a mailbox from word o on. -/
def putBox (s : State) (b o : Nat) (bs : List Byte) : State :=
  (upto 0 (ceilDiv bs.length 8)).foldl (fun t k => setBox t b (o + k) (w64 (leNat ((bs.drop (8 * k)).take 8)))) s

/-- REPORT_COMPLETE: Aedpevis writes the report and its hedged signature, and sets done (R479). -/
def execReportComplete (b : BitVec 2) (s : State) : Out :=
  if b = 3 ∨ !(s.box b.toNat 1).getLsbD 0 then .next s
  else
    let r := reportBytes s b.toNat
    let sig := mlDsaSign identitySeed (leBytes (Config.signRandom s.freeCount).toNat 32) r
    let t := putBox (putBox s b.toNat 32 r) b.toNat 64 sig
    .next { setBox t b.toNat 1 2 with freeCount := s.freeCount + 1 }

end Sys2Proof.Machine
end

