-- ==== Sys2Proof/Machine/System.lean ====
section
/-!
DEFINITION. The SYSTEM instructions, the asynchronous causes and the waits of `wfi` (17_system.md R437 to R451, R455, R456;
04_control.md R105 to R108).
-/

namespace Sys2Proof.Machine

/-- `trap` (R447): the return address is the next instruction; illegal at the E of the top loop entry (R446). -/
def execTrap (k : BitVec 5) (s : State) : Out :=
  finish s (do
    legalIf (!s.atLoopEnd)
    .error (.trap { code := 13, sub := k.toNat, epc := some (s.pc + 4) }))

/-- `brk` (R447). -/
def execBrk (s : State) : Out :=
  finish s (do
    legalIf (!s.atLoopEnd)
    .error (.trap { code := 12 }))

/-- A single step begins at a return to program level; a step breakpoint already due stays pending (R439, R448). -/
def backToProgram (s : State) : State := { s with ctl.stepArmed := s.ctl.stepArmed || s.ctl.estatus.getLsbD 4 }

/-- The trap that the kernel returns from is an engine fault of a context (12_engines.md R321, R322). -/
def State.engineTrap (s : State) : Bool := s.level == .kernel && s.ctl.ecause.toNat % 65536 == 10

/-- A handler returns, to whatever level: it no longer holds the frame and the strip state of its own level (02_encoding.md
R59, 04_control.md R115). -/
def holdLess (s : State) : State :=
  { s with
    frame.held := if s.frame.level == s.level then s.frame.held - 1 else s.frame.held
    strip.held := if s.strip.level == s.level then s.strip.held - 1 else s.strip.held }

/-- Program level is entered. A handler that a `ctxload` left on the core of another activation was another party than the
activation that runs now: nothing of what it had not published is read from here on, and what the activation itself had not
published is its own again (11_sync.md R283, R286, R287). -/
def leaveHandler (s : State) : State := if s.actParty = s.sched.party then s else enterParty (leaveParty s)

/-- The line of a tile task's sequence that comes next after an interruption: the interrupted k-block starts again at its
`mgath` (10_matrix.md R278). -/
def restartLine (line : Nat) : Nat := if line = 6 ∨ line = 7 then 5 else line

/-- The running tile task goes on from its saved position (10_matrix.md R278). -/
def resumeTask (s : State) : State :=
  { s with sched.act := s.sched.act.map (fun a => { a with macroStep := restartLine a.macroStep }) }

/-- `tret` from a level it may leave (R448). At the level it returns to it resumes a frame and strip state and restarts the
engine contexts. fepc is taken whole: a misaligned one traps at the fetch (02_encoding.md R38). -/
def trapReturn (s : State) : State :=
  let fw := s.level == .firmware
  let dest := if fw then Level.ofCode (s.ctl.fstat.toNat % 4) else Level.ofCode (s.ctl.estatus.toNat % 4)
  let t := if fw then s.ctl.fepc else s.ctl.epc &&& ~~~3#64
  let u := restartContexts (goto (holdLess s) t false) s.engineTrap
  let u := { u with
    level := dest
    commit := some .ret
    ctl.fstat := if fw then s.ctl.fstat &&& 3 else s.ctl.fstat
    ctl.estatus := if fw then s.ctl.estatus else s.ctl.estatus &&& 0x1B }
  if dest = .program then leaveHandler (backToProgram (resumeTask u)) else u

/-- `tret` (R448): illegal at program level and at the E of the top loop entry. -/
def execTret (s : State) : Out :=
  finish s (do
    legalIf (s.level != .program && !s.atLoopEnd)
    pure (trapReturn s))

/-- `halt` (R447): the core stops after it commits. -/
def execHalt (s : State) : Out :=
  finish s (do
    legalIf (s.level == .firmware && !s.atLoopEnd)
    pure { retire s with mode := .halted, commit := none })

/-- `ifence` (R450): a fetch of the model always reads the latest bytes. -/
def execIfence (s : State) : Out := .next (retire s)

/-- `tlbinv` (R451): it takes the next number of the system timeline. What it removes is removed at its completion. -/
def execTlbinv (d a b : BitVec 5) (s : State) : Out :=
  finish s (do
    legalIf (s.level != .program)
    let n := s.kv.tlbIssued + 1
    pure (retire ({ s with
      kv.tlbIssued := n
      kv.tlbPending := s.kv.tlbPending ++ [(s.rd a, s.rd b)] }.wr d n)))

/-- The oldest `tlbinv` removes its translations (R451). -/
def removeCached (s : State) : State :=
  match s.kv.tlbPending with
  | [] => s
  | (a, b) :: rest => { s with tlb := s.tlb.filter (fun c => !c.removedBy a b), kv.tlbPending := rest }

/-- TLBINV_COMPLETION: committed stores, publications and arrivals are drained, the translations are removed, and `tc15` shows
the number (11_sync.md R304, R451). -/
def execTlbinvCompletion (s : State) : Out :=
  if s.kv.tc15 = s.kv.tlbIssued then .next s
  else .next { removeCached (publishAll s) with kv.tc15 := s.kv.tc15 + 1 }

/-! ### Context images -/

/-- `ctxsave` (R455). -/
def execCtxsave (a : BitVec 5) (s : State) : Out :=
  finish s (do
    legalIf (s.level != .program)
    let ps ← checkSave s (s.rd a)
    if unitInFlight s then pure (waitHere s .save)
    else pure (retire (saveImage s (s.rd a) s.ctl.epc ps)))

/-- An image's first poisoned byte raises the integrity error (18_platform.md R475). -/
def checkImage (x : Image) : Run Unit :=
  match x.poisoned with
  | none => .ok ()
  | some (va, sub) => .error (.trap { code := 11, sub := sub, eaddr := va })

/-- `ctxload` (R456): the activation on the core is replaced, its engine contexts stopped in its block. The handler
goes on as the party it was (11_sync.md R283). An image that fails a check takes the engine fault whatever bytes of it are
poisoned: the checks come before the integrity error (R439 gives them no order: DESIGN CHOICE, log 37). -/
def execCtxload (a : BitVec 5) (s : State) : Out :=
  finish s (do
    legalIf (s.level != .program)
    let va := s.rd a
    if va.toNat % 4096 ≠ 0 then misaligned va
    else
      match ← orTrap 3 (readImageAt s (translate s) va) with
      | none => .error (.trap { code := 10, sub := 2, eaddr := va })
      | some x => do
        checkImage x
        if unitInFlight s then pure (waitHere s .save)
        else
        let u := { x with s := stopContexts (syncOrder x.s) }.install
        let asid := (u.sched.act.map (·.asid)).getD 0
        pure (retire { u with
          sched.saved := u.sched.saved.filter (fun y => !(y.asid == asid && y.image == va)) }))

/-! ### wfi -/

/-- The timer is pending (R445). -/
def timerPending (s : State) : Bool := decide (s.ctl.tcmp.toNat ≤ s.ctl.cycle.toNat)

/-- What ends a `wfi` at once (R449). -/
def wfiWakes (s : State) : Bool :=
  timerPending s || s.ctl.preReq.isSome || (s.ctl.ustat &&& 0x7FF) != 0 || s.ctl.wake

/-- A `wfi` that began at cycle t has waited long enough (R449). -/
def wfiTimesOut (s : State) (t : Word) : Bool := decide (patience ≤ (s.ctl.cycle - t).toNat)

/-- `wfi` completes. -/
def wfiEnd (s : State) : State := retire { s with ctl.wake := false }

/-- `wfi` (R449). -/
def execWfi (s : State) : Out :=
  let since := match s.wait with
    | some (.wfi t) => t
    | _ => s.ctl.cycle
  if wfiWakes s ∨ wfiTimesOut s since then .next (wfiEnd s) else .next (waitHere s (.wfi since))

/-- WFI_WAKE: a waiting `wfi` completes (R449). -/
def execWfiWake (s : State) : Out :=
  match s.wait with
  | some (.wfi _) => if wfiWakes s then .next (wfiEnd s) else .next s
  | _ => .next s

/-- WFI_TIMEOUT: a waiting `wfi` completes after 2^20 cycles (R449). -/
def execWfiTimeout (s : State) : Out :=
  match s.wait with
  | some (.wfi t) => if wfiTimesOut s t then .next (wfiEnd s) else .next s
  | _ => .next s

/-! ### Asynchronous causes -/

/-- ILLEGAL_ENCODING: a word of the program that the opcode table gives no instruction reaches commit (02_encoding.md R45). -/
def execIllegalEncoding (_w : BitVec 32) (s : State) : Out := finish s illegal

/-- A pre-emption request is taken at an iteration boundary (04_control.md R105, R106, R108). -/
def preemptionDue (s : State) : Bool :=
  s.ctl.preReq.isSome && !s.requestForced && s.level == .program && s.mode == .running && s.commit == some .boundary &&
    !s.inStrip

/-- PREEMPTION_TRAP (04_control.md R106). -/
def execPreemptionTrap (s : State) : Out :=
  if preemptionDue s then .next (takeTrap s { code := 15 }) else .next s

/-- A forced pre-emption is taken after any commit, or at a waiting instruction (04_control.md R107, 11_sync.md R310). -/
def forcedDue (s : State) : Bool := s.requestForced && s.level == .program && s.atBoundary

/-- FORCED_PREEMPTION (04_control.md R107). -/
def execForcedPreemption (s : State) : Out :=
  if forcedDue s then .next (takeTrap s { code := 15, forced := true }) else .next s

/-- The timer interrupt is taken: at program level, and at kernel level with kie and without nest (R445). -/
def timerDue (s : State) : Bool :=
  timerPending s && s.atBoundary &&
    (s.level == .program || (s.level == .kernel && s.ctl.estatus.getLsbD 3 && !s.ctl.estatus.getLsbD 2))

/-- TIMER_INTERRUPT (R445). -/
def execTimerInterrupt (s : State) : Out :=
  if timerDue s then .next (takeTrap s { code := 14 }) else .next s

/-- The step breakpoint is taken: an instruction has committed at program level since the `tret`; in strip-thread mode
after the `sjoin` (R448). -/
def stepDue (s : State) : Bool :=
  s.ctl.stepArmed && s.level == .program && s.mode == .running && s.commit.isSome && s.commit != some .ret && !s.inStrip

/-- STEP_BREAKPOINT (R448). -/
def execStepBreakpoint (s : State) : Out :=
  if stepDue s then .next (takeTrap { s with ctl.stepArmed := false } { code := 12, sub := 1 }) else .next s

end Sys2Proof.Machine
end

