-- ==== Sys2Proof/Machine/Worklist.lean ====
section
/-!
DEFINITION. Work-lists, and compress and append (14_sparse.md R365 to R376, 13_work.md R360, R361). The window of R368 is
never seen: the model keeps every entry in slot memory.
-/

namespace Sys2Proof.Machine

/-- A work-list descriptor as an instruction reads it: its address, its location, and its eight words (R365). -/
structure WorkList where
  va : Word
  loc : Nat
  words : List Nat
  deriving DecidableEq, Repr

/-- Word k of the descriptor. -/
def WorkList.w (l : WorkList) (k : Nat) : Nat := l.words.getD k 0
/-- Slots in the ring (R365). -/
def WorkList.cap (l : WorkList) : Nat := fld (l.w 2) 0 32
/-- All slots, T (R365). -/
def WorkList.slots (l : WorkList) : Nat := l.cap + fld (l.w 2) 32 32
/-- Entries in the list (R365). -/
def WorkList.len (l : WorkList) : Nat := (l.w 4 + 2 ^ 64 - l.w 3) % 2 ^ 64
/-- Indices that the bitmap covers (R365). -/
def WorkList.nbits (l : WorkList) : Nat := fld (l.w 6) 0 40
/-- The descriptor is valid (R365). -/
def WorkList.ok (l : WorkList) : Bool :=
  l.slots != 0 && l.len ≤ l.slots && l.w 0 % 64 == 0 && (fld (l.w 2) 32 32 == 0 || l.w 1 % 64 == 0) &&
    l.w 5 % 8 == 0 && fld (l.w 6) 40 8 == 0 &&
    fld (l.w 6) 49 15 == 0 && fld (l.w 7) 32 32 == 0

/-- The address of the slot of position p (R366). -/
def WorkList.slotAddr (l : WorkList) (p : Nat) : Word :=
  let i := p % 2 ^ 64 % l.slots
  if i < l.cap then w64 (l.w 0 + 4 * i) else w64 (l.w 1 + 4 * (i - l.cap))

/-- The address of the bitmap word of index x (R369). Where bmap is no multiple of 8, which makes the descriptor invalid, step 2 of
R372 translates the 8 bytes at this address before step 3 rejects it (DESIGN CHOICE, log 16). -/
def WorkList.bitAddr (l : WorkList) (x : Nat) : Word := w64 (l.w 5 + 8 * (x / 64))

/-- The descriptor, read by the instruction's synchronising access, after the earlier ones (R372, 11_sync.md R289): steps 1
and 2. A poisoned descriptor is raised before the other addresses, which it fixes, are translated (R372 against 17_system.md
R439: DESIGN CHOICE, log 16). -/
def readList (s : State) (va : Word) : Run (WorkList × State) := do
  if va.toNat % 64 ≠ 0 then misaligned va
  else if windowBase ≤ va.toNat then violation va
  else
    let h ← orTrap 4 (translate s .atomic va)
    checkPoison s va (upto h.loc 64)
    let t := syncOrder s
    pure (⟨va, h.loc, (upto 0 8).map (fun k => t.num (h.loc + 8 * k) 8)⟩, markLeaf t h true)

/-- Why a slot or a bitmap word cannot be translated: it leaves the normal pages, or a translation fails (R367, R372,
06_memory.md R480). -/
def listFault (s : State) (r : Range) : Option Trap :=
  r.runs.findSome? (fun p =>
    if windowBase ≤ p.1.toNat then some { code := 5, eaddr := p.1 }
    else match translate s r.k p.1 with
      | .error f => some (rangeTrap r.k f)
      | .ok h => if h.type ≠ .normal then some { code := 5, eaddr := p.1 } else none)

/-- Go on only when there is no trap to raise. -/
def untrapped : Option Trap → Run Unit
  | none => .ok ()
  | some t => .error (.trap t)

/-- The slots that a push of k entries translates (R372). -/
def pushSlots (l : WorkList) (k : Nat) : List Range :=
  if l.len + k ≤ l.slots then (upto (l.w 4) k).map (fun p => ⟨.store, l.slotAddr p, 4, true⟩) else []

/-- The checks of R372 after the descriptor is read: the translations, the lowest failing address first; the descriptor; then
poison in what will be read (17_system.md R439, 18_platform.md R475). -/
def checkList (s : State) (l : WorkList) (rs : List Range) : Run Unit := do
  untrapped (lowestTrap (rs.filterMap (listFault s)))
  if l.ok then untrapped (lowestTrap (rs.filterMap (rangePoison s))) else rejected l.va

/-- Write a slot or the descriptor with a synchronising store at an address that has been checked. -/
def syncAt (s : State) (k : Access) (va : Word) (n v : Nat) : State :=
  match touch s k va with
  | (some h, t) => syncNum t h.loc n v
  | (none, t) => t

/-- What a push step does: pushed, with the number of entries before, or dropped. -/
inductive Pushed where
  | pushed (before : Nat)
  | dropped
  deriving DecidableEq, Repr

/-- The push step (R373), once everything has been checked. -/
def pushStep (s : State) (l : WorkList) (es : List Nat) : Run (Pushed × State) :=
  let k := es.length
  let t := publishAll s
  if l.slots < l.len + k then
    if bitOf (l.w 6) 48 then rejected l.va
    else .ok (.dropped, syncNum t (l.loc + 56) 8 (min (l.w 7 + k) (2 ^ 32 - 1)))
  else
    let t := ((upto (l.w 4) k).zip es).foldl (fun s p => syncAt s .store (l.slotAddr p.1) 4 p.2) t
    .ok (.pushed l.len, syncNum t (l.loc + 32) 8 ((l.w 4 + k) % 2 ^ 64))

/-- The status a scalar push writes (R374). -/
def Pushed.status : Pushed → Word
  | .pushed _ => 0
  | .dropped => 2

/-- `wlpush` (R374). -/
def execWlpush (d a b : BitVec 5) (s : State) : Out :=
  finish s (do
    let r ← readList s (s.rd a)
    checkList r.2 r.1 (pushSlots r.1 1)
    let p ← pushStep r.2 r.1 [(s.rd b).toNat % 2 ^ 32]
    pure (retire (p.2.wr d p.1.status)))

/-- `wlins` (R374): one synchronising access tests the bit, pushes and sets it. It publishes at `pkg` also where it finds the bit
set and pushes nothing (DESIGN CHOICE, log 37). -/
def execWlins (d a b : BitVec 5) (s : State) : Out :=
  let x := (s.rd b).toNat % 2 ^ 32
  finish s (do
    let r ← readList s (s.rd a)
    let l := r.1
    let mapped := l.w 5 != 0
    checkList r.2 l (if mapped && l.nbits ≤ x then [] else
      pushSlots l 1 ++ (if mapped then [⟨.atomic, l.bitAddr x, 8, true⟩] else []))
    if !mapped then do
      let p ← pushStep r.2 l [x]
      pure (retire (p.2.wr d p.1.status))
    else if l.nbits ≤ x then pure (retire (r.2.wr d 3))
    else if bitOf (readAt r.2 (l.bitAddr x) 8).1 (x % 64) then
      pure (retire ((updateAt (publishAll r.2) (l.bitAddr x) id).2.wr d 1))
    else do
      let p ← pushStep r.2 l [x]
      match p.1 with
      | .pushed _ =>
        pure (retire ((updateAt p.2 (l.bitAddr x) (fun old => old ||| 2 ^ (x % 64))).2.wr d 0))
      | .dropped => pure (retire ((updateAt p.2 (l.bitAddr x) id).2.wr d 2)))

/-- `wlpop` (R375). -/
def execWlpop (v : BitVec 6) (a b : BitVec 5) (s : State) : Out :=
  finish s (do
    legalIf (s.destOk v)
    let r ← readList s (s.rd a)
    let l := r.1
    let lim := min s.vlmax (grantLimit s s.lanes.grantE.toNat)
    let want := if b = 0 then s.vlmax else (s.rd b).toNat
    let k := min (min want lim) l.len
    checkList r.2 l (if l.slots = 0 then [] else (upto (l.w 3) k).map (fun p => ⟨.load, l.slotAddr p, 4, true⟩))
    let t := syncOrder r.2
    let es := (upto (l.w 3) k).map (fun p => (readAt t (l.slotAddr p) 4).1)
    let t := (upto (l.w 3) k).foldl (fun t p => (readAt t (l.slotAddr p) 4).2) t
    let t := if k = 0 then t else syncNum t (l.loc + 24) 8 ((l.w 3 + k) % 2 ^ 64)
    pure (retire (writeElems (setLength t k) v.toNat (fun i => (es[i]?).map (fun x => x % 2 ^ s.wd)))))

/-- `vcapp` (13_work.md R361). -/
def execVcapp (a b : BitVec 5) (m : BitVec 3) (s : State) : Out :=
  let is := (upto 0 s.lanes.vl.toNat).filter (fun i => s.maskBit m.toNat i)
  let k := is.length
  finish s (
    if k = 0 then pure (retire s)
    else do
      let r ← readList s (s.rd a)
      checkList r.2 r.1 (pushSlots r.1 k)
      let p ← pushStep r.2 r.1 (is.map (fun i => ((s.rd b).toNat + i) % 2 ^ 32))
      match p.1 with
      | .dropped => pure (retire p.2)
      | .pushed before =>
        let u := p.2
        pure (retire (if before < s.vlmax ∧ s.vlmax ≤ before + k then
          { u with ctl.ustat := u.ctl.ustat ||| 0x400 } else u)))

/-- WINDOW_TRANSFER: entries move between the window and slot memory (R368). The model keeps every entry in slot memory, so
that nothing moves (log 23). -/
def execWindowTransfer (_list : BitVec 64) (s : State) : Out := .next s

end Sys2Proof.Machine
end

