-- ==== Sys2Proof/Machine/Dispatch.lean ====
section
/-!
DEFINITION. One arm per instruction (17_system.md R446 and the opcode table): each is the call of its meaning.
-/

namespace Sys2Proof.Machine

/-- What an instruction or an event does. -/
def exec (i : Instr) (s : State) : Host.Outcome State Fault Refusal :=
  match i with
  | .add d a b => Sys2Proof.Machine.execAdd d a b s
  | .sub d a b => Sys2Proof.Machine.execSub d a b s
  | .and d a b => Sys2Proof.Machine.execAnd d a b s
  | .or d a b => Sys2Proof.Machine.execOr d a b s
  | .xor d a b => Sys2Proof.Machine.execXor d a b s
  | .andn d a b => Sys2Proof.Machine.execAndn d a b s
  | .shl d a b => Sys2Proof.Machine.execShl d a b s
  | .shrl d a b => Sys2Proof.Machine.execShrl d a b s
  | .shra d a b => Sys2Proof.Machine.execShra d a b s
  | .cmplt d a b => Sys2Proof.Machine.execCmplt d a b s
  | .cmpltu d a b => Sys2Proof.Machine.execCmpltu d a b s
  | .min d a b => Sys2Proof.Machine.execMin d a b s
  | .max d a b => Sys2Proof.Machine.execMax d a b s
  | .minu d a b => Sys2Proof.Machine.execMinu d a b s
  | .maxu d a b => Sys2Proof.Machine.execMaxu d a b s
  | .cmpeq d a b => Sys2Proof.Machine.execCmpeq d a b s
  | .addi d a im => Sys2Proof.Machine.execAddi d a im s
  | .cmplti d a im => Sys2Proof.Machine.execCmplti d a im s
  | .cmpltiu d a im => Sys2Proof.Machine.execCmpltiu d a im s
  | .andi d a im => Sys2Proof.Machine.execAndi d a im s
  | .ori d a im => Sys2Proof.Machine.execOri d a im s
  | .xori d a im => Sys2Proof.Machine.execXori d a im s
  | .cmpeqi d a im => Sys2Proof.Machine.execCmpeqi d a im s
  | .shli d a n => Sys2Proof.Machine.execShli d a n s
  | .shrli d a n => Sys2Proof.Machine.execShrli d a n s
  | .shrai d a n => Sys2Proof.Machine.execShrai d a n s
  | .mul d a b => Sys2Proof.Machine.execMul d a b s
  | .mulhSs d a b => Sys2Proof.Machine.execMulhSs d a b s
  | .mulhUu d a b => Sys2Proof.Machine.execMulhUu d a b s
  | .mulhSu d a b => Sys2Proof.Machine.execMulhSu d a b s
  | .divs d a b => Sys2Proof.Machine.execDivs d a b s
  | .divu d a b => Sys2Proof.Machine.execDivu d a b s
  | .mods d a b => Sys2Proof.Machine.execMods d a b s
  | .modu d a b => Sys2Proof.Machine.execModu d a b s
  | .clz d a => Sys2Proof.Machine.execClz d a s
  | .ctz d a => Sys2Proof.Machine.execCtz d a s
  | .cpop d a => Sys2Proof.Machine.execCpop d a s
  | .brev d a => Sys2Proof.Machine.execBrev d a s
  | .bfx d a b => Sys2Proof.Machine.execBfx d a b s
  | .bfxu d a b => Sys2Proof.Machine.execBfxu d a b s
  | .bfi d a b => Sys2Proof.Machine.execBfi d a b s
  | .lhi d im => Sys2Proof.Machine.execLhi d im s
  | .pcrel d im => Sys2Proof.Machine.execPcrel d im s
  | .ihz d h im => Sys2Proof.Machine.execIhz d h im s
  | .ihk d h im => Sys2Proof.Machine.execIhk d h im s
  | .ihs d h im => Sys2Proof.Machine.execIhs d h im s
  | .lb d a o => Sys2Proof.Machine.execLb d a o s
  | .lh d a o => Sys2Proof.Machine.execLh d a o s
  | .lw d a o => Sys2Proof.Machine.execLw d a o s
  | .ld d a o => Sys2Proof.Machine.execLd d a o s
  | .lbu d a o => Sys2Proof.Machine.execLbu d a o s
  | .lhu d a o => Sys2Proof.Machine.execLhu d a o s
  | .lwu d a o => Sys2Proof.Machine.execLwu d a o s
  | .sb d a o => Sys2Proof.Machine.execSb d a o s
  | .sh d a o => Sys2Proof.Machine.execSh d a o s
  | .sw d a o => Sys2Proof.Machine.execSw d a o s
  | .sd d a o => Sys2Proof.Machine.execSd d a o s
  | .atswp d a b x z => Sys2Proof.Machine.execAtswp d a b x z s
  | .atadd d a b x z => Sys2Proof.Machine.execAtadd d a b x z s
  | .atand d a b x z => Sys2Proof.Machine.execAtand d a b x z s
  | .ator d a b x z => Sys2Proof.Machine.execAtor d a b x z s
  | .atxor d a b x z => Sys2Proof.Machine.execAtxor d a b x z s
  | .atmin d a b x z => Sys2Proof.Machine.execAtmin d a b x z s
  | .atmax d a b x z => Sys2Proof.Machine.execAtmax d a b x z s
  | .atminu d a b x z => Sys2Proof.Machine.execAtminu d a b x z s
  | .atmaxu d a b x z => Sys2Proof.Machine.execAtmaxu d a b x z s
  | .atcas d a b x z => Sys2Proof.Machine.execAtcas d a b x z s
  | .crd d c => Sys2Proof.Machine.execCrd d c s
  | .cwr d a c => Sys2Proof.Machine.execCwr d a c s
  | .cset d a c => Sys2Proof.Machine.execCset d a c s
  | .cclr d a c => Sys2Proof.Machine.execCclr d a c s
  | .cwri d im c => Sys2Proof.Machine.execCwri d im c s
  | .cseti d im c => Sys2Proof.Machine.execCseti d im c s
  | .cclri d im c => Sys2Proof.Machine.execCclri d im c s
  | .beq a b o => Sys2Proof.Machine.execBeq a b o s
  | .bne a b o => Sys2Proof.Machine.execBne a b o s
  | .blt a b o => Sys2Proof.Machine.execBlt a b o s
  | .bge a b o => Sys2Proof.Machine.execBge a b o s
  | .bltu a b o => Sys2Proof.Machine.execBltu a b o s
  | .bgeu a b o => Sys2Proof.Machine.execBgeu a b o s
  | .jal d o => Sys2Proof.Machine.execJal d o s
  | .jalr d a im => Sys2Proof.Machine.execJalr d a im s
  | .loop x im => Sys2Proof.Machine.execLoop x im s
  | .loopr x im => Sys2Proof.Machine.execLoopr x im s
  | .loopv v im => Sys2Proof.Machine.execLoopv v im s
  | .lbrk => Sys2Proof.Machine.execLbrk s
  | .lidx d im => Sys2Proof.Machine.execLidx d im s
  | .sfork => Sys2Proof.Machine.execSfork s
  | .sbra m c o => Sys2Proof.Machine.execSbra m c o s
  | .sloop m c o => Sys2Proof.Machine.execSloop m c o s
  | .sjoin => Sys2Proof.Machine.execSjoin s
  | .stripThreadModeEnd => Sys2Proof.Machine.execStripThreadModeEnd s
  | .pub x => Sys2Proof.Machine.execPub x s
  | .acq x => Sys2Proof.Machine.execAcq x s
  | .phase x => Sys2Proof.Machine.execPhase x s
  | .fence x => Sys2Proof.Machine.execFence x s
  | .vfence a x => Sys2Proof.Machine.execVfence a x s
  | .bar a b x => Sys2Proof.Machine.execBar a b x s
  | .tlwait n b => Sys2Proof.Machine.execTlwait n b s
  | .tlpoll d n b => Sys2Proof.Machine.execTlpoll d n b s
  | .tlrd d n => Sys2Proof.Machine.execTlrd d n s
  | .publication => Sys2Proof.Machine.execPublication s
  | .arrival => Sys2Proof.Machine.execArrival s
  | .barPass => Sys2Proof.Machine.execBarPass s
  | .tlwaitPass => Sys2Proof.Machine.execTlwaitPass s
  | .spawn a b => Sys2Proof.Machine.execSpawn a b s
  | .join a b => Sys2Proof.Machine.execJoin a b s
  | .done => Sys2Proof.Machine.execDone s
  | .launch d a => Sys2Proof.Machine.execLaunch d a s
  | .widf d k b => Sys2Proof.Machine.execWidf d k b s
  | .yield a => Sys2Proof.Machine.execYield a s
  | .xcopy d a b t => Sys2Proof.Machine.execXcopy d a b t s
  | .xconv d a b t => Sys2Proof.Machine.execXconv d a b t s
  | .xzip d a b t => Sys2Proof.Machine.execXzip d a b t s
  | .xexp d a b t => Sys2Proof.Machine.execXexp d a b t s
  | .xfmt d a b t => Sys2Proof.Machine.execXfmt d a b t s
  | .xtile d a b t => Sys2Proof.Machine.execXtile d a b t s
  | .xput d a b t => Sys2Proof.Machine.execXput d a b t s
  | .xget d a b t => Sys2Proof.Machine.execXget d a b t s
  | .engineUnit t => Sys2Proof.Machine.execEngineUnit t s
  | .commandComplete t => Sys2Proof.Machine.execCommandComplete t s
  | .engineFault => Sys2Proof.Machine.execEngineFault s
  | .userLevelInterrupt => Sys2Proof.Machine.execUserLevelInterrupt s
  | .tdecl a n => Sys2Proof.Machine.execTdecl a n s
  | .sweep e c n => Sys2Proof.Machine.execSweep e c n s
  | .snext n => Sys2Proof.Machine.execSnext n s
  | .swait x m n => Sys2Proof.Machine.execSwait x m n s
  | .wake x n => Sys2Proof.Machine.execWake x n s
  | .vwake v m n => Sys2Proof.Machine.execVwake v m n s
  | .sctlRange x n => Sys2Proof.Machine.execSctlRange x n s
  | .sctlStat x n => Sys2Proof.Machine.execSctlStat x n s
  | .sctlAbort x n => Sys2Proof.Machine.execSctlAbort x n s
  | .sctlRel x n => Sys2Proof.Machine.execSctlRel x n s
  | .pfxmatch d a b => Sys2Proof.Machine.execPfxmatch d a b s
  | .pfxins d a b => Sys2Proof.Machine.execPfxins d a b s
  | .pfxrel d a b => Sys2Proof.Machine.execPfxrel d a b s
  | .kvalloc d a b => Sys2Proof.Machine.execKvalloc d a b s
  | .kvappend d a b => Sys2Proof.Machine.execKvappend d a b s
  | .kvcommit d a b => Sys2Proof.Machine.execKvcommit d a b s
  | .kvreject d a => Sys2Proof.Machine.execKvreject d a s
  | .kvxlat d a b => Sys2Proof.Machine.execKvxlat d a b s
  | .kvscore d a b => Sys2Proof.Machine.execKvscore d a b s
  | .kvcompact d a b => Sys2Proof.Machine.execKvcompact d a b s
  | .barchanOperation => Sys2Proof.Machine.execBarchanOperation s
  | .barchanResult => Sys2Proof.Machine.execBarchanResult s
  | .clockStep => Sys2Proof.Machine.execClockStep s
  | .wlpush d a b => Sys2Proof.Machine.execWlpush d a b s
  | .wlpop v a b => Sys2Proof.Machine.execWlpop v a b s
  | .wlins d a b => Sys2Proof.Machine.execWlins d a b s
  | .vcapp a b m => Sys2Proof.Machine.execVcapp a b m s
  | .windowTransfer list => Sys2Proof.Machine.execWindowTransfer list s
  | .trap k => Sys2Proof.Machine.execTrap k s
  | .tret => Sys2Proof.Machine.execTret s
  | .wfi => Sys2Proof.Machine.execWfi s
  | .ifence => Sys2Proof.Machine.execIfence s
  | .tlbinv d a b => Sys2Proof.Machine.execTlbinv d a b s
  | .ctxsave a => Sys2Proof.Machine.execCtxsave a s
  | .ctxload a => Sys2Proof.Machine.execCtxload a s
  | .brk => Sys2Proof.Machine.execBrk s
  | .halt => Sys2Proof.Machine.execHalt s
  | .uret => Sys2Proof.Machine.execUret s
  | .illegalEncoding w => Sys2Proof.Machine.execIllegalEncoding w s
  | .stepBreakpoint => Sys2Proof.Machine.execStepBreakpoint s
  | .timerInterrupt => Sys2Proof.Machine.execTimerInterrupt s
  | .preemptionTrap => Sys2Proof.Machine.execPreemptionTrap s
  | .forcedPreemption => Sys2Proof.Machine.execForcedPreemption s
  | .schedulerPreemptionRequest => Sys2Proof.Machine.execSchedulerPreemptionRequest s
  | .wfiWake => Sys2Proof.Machine.execWfiWake s
  | .wfiTimeout => Sys2Proof.Machine.execWfiTimeout s
  | .vcfg d a => Sys2Proof.Machine.execVcfg d a s
  | .setvl d a => Sys2Proof.Machine.execSetvl d a s
  | .setw d a => Sys2Proof.Machine.execSetw d a s
  | .setvlrun d a b => Sys2Proof.Machine.execSetvlrun d a b s
  | .vadd d a b m => Sys2Proof.Machine.execVadd d a b m s
  | .vadc d a b c => Sys2Proof.Machine.execVadc d a b c s
  | .vsub d a b m => Sys2Proof.Machine.execVsub d a b m s
  | .vsbc d a b c => Sys2Proof.Machine.execVsbc d a b c s
  | .vmul d a b m => Sys2Proof.Machine.execVmul d a b m s
  | .vmac d a b m => Sys2Proof.Machine.execVmac d a b m s
  | .vand d a b m => Sys2Proof.Machine.execVand d a b m s
  | .vor d a b m => Sys2Proof.Machine.execVor d a b m s
  | .vxor d a b m => Sys2Proof.Machine.execVxor d a b m s
  | .vsll d a b m => Sys2Proof.Machine.execVsll d a b m s
  | .vsrl d a b m => Sys2Proof.Machine.execVsrl d a b m s
  | .vsra d a b m => Sys2Proof.Machine.execVsra d a b m s
  | .vsat d a m => Sys2Proof.Machine.execVsat d a m s
  | .vrsra d a b m => Sys2Proof.Machine.execVrsra d a b m s
  | .vwid d a m => Sys2Proof.Machine.execVwid d a m s
  | .vsel d a b m => Sys2Proof.Machine.execVsel d a b m s
  | .vmv d a m => Sys2Proof.Machine.execVmv d a m s
  | .vmin d a b m => Sys2Proof.Machine.execVmin d a b m s
  | .vmax d a b m => Sys2Proof.Machine.execVmax d a b m s
  | .vminu d a b m => Sys2Proof.Machine.execVminu d a b m s
  | .vmaxu d a b m => Sys2Proof.Machine.execVmaxu d a b m s
  | .vbcst d b m => Sys2Proof.Machine.execVbcst d b m s
  | .vidx d m => Sys2Proof.Machine.execVidx d m s
  | .vaddScalar d a b m => Sys2Proof.Machine.execVaddScalar d a b m s
  | .vadcScalar d a b c => Sys2Proof.Machine.execVadcScalar d a b c s
  | .vsubScalar d a b m => Sys2Proof.Machine.execVsubScalar d a b m s
  | .vsbcScalar d a b c => Sys2Proof.Machine.execVsbcScalar d a b c s
  | .vmulScalar d a b m => Sys2Proof.Machine.execVmulScalar d a b m s
  | .vmacScalar d a b m => Sys2Proof.Machine.execVmacScalar d a b m s
  | .vandScalar d a b m => Sys2Proof.Machine.execVandScalar d a b m s
  | .vorScalar d a b m => Sys2Proof.Machine.execVorScalar d a b m s
  | .vxorScalar d a b m => Sys2Proof.Machine.execVxorScalar d a b m s
  | .vsllScalar d a b m => Sys2Proof.Machine.execVsllScalar d a b m s
  | .vsrlScalar d a b m => Sys2Proof.Machine.execVsrlScalar d a b m s
  | .vsraScalar d a b m => Sys2Proof.Machine.execVsraScalar d a b m s
  | .vsatScalar d a b m => Sys2Proof.Machine.execVsatScalar d a b m s
  | .vrsraScalar d a b m => Sys2Proof.Machine.execVrsraScalar d a b m s
  | .vminScalar d a b m => Sys2Proof.Machine.execVminScalar d a b m s
  | .vmaxScalar d a b m => Sys2Proof.Machine.execVmaxScalar d a b m s
  | .vminuScalar d a b m => Sys2Proof.Machine.execVminuScalar d a b m s
  | .vmaxuScalar d a b m => Sys2Proof.Machine.execVmaxuScalar d a b m s
  | .vsllImmediate d a n m => Sys2Proof.Machine.execVsllImmediate d a n m s
  | .vsrlImmediate d a n m => Sys2Proof.Machine.execVsrlImmediate d a n m s
  | .vsraImmediate d a n m => Sys2Proof.Machine.execVsraImmediate d a n m s
  | .vrsraImmediate d a n m => Sys2Proof.Machine.execVrsraImmediate d a n m s
  | .vseq d a b m => Sys2Proof.Machine.execVseq d a b m s
  | .vsne d a b m => Sys2Proof.Machine.execVsne d a b m s
  | .vslt d a b m => Sys2Proof.Machine.execVslt d a b m s
  | .vsle d a b m => Sys2Proof.Machine.execVsle d a b m s
  | .vsltu d a b m => Sys2Proof.Machine.execVsltu d a b m s
  | .vsleu d a b m => Sys2Proof.Machine.execVsleu d a b m s
  | .vsgt d a b m => Sys2Proof.Machine.execVsgt d a b m s
  | .vsgtu d a b m => Sys2Proof.Machine.execVsgtu d a b m s
  | .vseqScalar d a b m => Sys2Proof.Machine.execVseqScalar d a b m s
  | .vsneScalar d a b m => Sys2Proof.Machine.execVsneScalar d a b m s
  | .vsltScalar d a b m => Sys2Proof.Machine.execVsltScalar d a b m s
  | .vsleScalar d a b m => Sys2Proof.Machine.execVsleScalar d a b m s
  | .vsltuScalar d a b m => Sys2Proof.Machine.execVsltuScalar d a b m s
  | .vsleuScalar d a b m => Sys2Proof.Machine.execVsleuScalar d a b m s
  | .vsgtScalar d a b m => Sys2Proof.Machine.execVsgtScalar d a b m s
  | .vsgtuScalar d a b m => Sys2Proof.Machine.execVsgtuScalar d a b m s
  | .mand d a b => Sys2Proof.Machine.execMand d a b s
  | .mor d a b => Sys2Proof.Machine.execMor d a b s
  | .mxor d a b => Sys2Proof.Machine.execMxor d a b s
  | .mandn d a b => Sys2Proof.Machine.execMandn d a b s
  | .mnot d a => Sys2Proof.Machine.execMnot d a s
  | .mslide d a x => Sys2Proof.Machine.execMslide d a x s
  | .vfirst a d => Sys2Proof.Machine.execVfirst a d s
  | .vlast a d => Sys2Proof.Machine.execVlast a d s
  | .mcnt a d => Sys2Proof.Machine.execMcnt a d s
  | .mmv d a => Sys2Proof.Machine.execMmv d a s
  | .vredsum d a m => Sys2Proof.Machine.execVredsum d a m s
  | .vredsumu d a m => Sys2Proof.Machine.execVredsumu d a m s
  | .vredmin d a m => Sys2Proof.Machine.execVredmin d a m s
  | .vredmax d a m => Sys2Proof.Machine.execVredmax d a m s
  | .vredminu d a m => Sys2Proof.Machine.execVredminu d a m s
  | .vredmaxu d a m => Sys2Proof.Machine.execVredmaxu d a m s
  | .vredand d a m => Sys2Proof.Machine.execVredand d a m s
  | .vredor d a m => Sys2Proof.Machine.execVredor d a m s
  | .vredxor d a m => Sys2Proof.Machine.execVredxor d a m s
  | .vperm d a b m => Sys2Proof.Machine.execVperm d a b m s
  | .vslup d a b m => Sys2Proof.Machine.execVslup d a b m s
  | .vsldn d a b m => Sys2Proof.Machine.execVsldn d a b m s
  | .vcomp d a m => Sys2Proof.Machine.execVcomp d a m s
  | .vexpd d a m => Sys2Proof.Machine.execVexpd d a m s
  | .vld d a m c => Sys2Proof.Machine.execVld d a m c s
  | .vlds d a b m c => Sys2Proof.Machine.execVlds d a b m c s
  | .vldx d a b m c => Sys2Proof.Machine.execVldx d a b m c s
  | .vldff d a m c => Sys2Proof.Machine.execVldff d a m c s
  | .hgath d a b m c => Sys2Proof.Machine.execHgath d a b m c s
  | .vst d a m c => Sys2Proof.Machine.execVst d a m c s
  | .vsts d a b m c => Sys2Proof.Machine.execVsts d a b m c s
  | .vstx d a b m c => Sys2Proof.Machine.execVstx d a b m c s
  | .vscadd d a b m c => Sys2Proof.Machine.execVscadd d a b m c s
  | .wadd d a b => Sys2Proof.Machine.execWadd d a b s
  | .wsub d a b => Sys2Proof.Machine.execWsub d a b s
  | .wmul d a b => Sys2Proof.Machine.execWmul d a b s
  | .wfma d a b c => Sys2Proof.Machine.execWfma d a b c s
  | .wfms d a b c => Sys2Proof.Machine.execWfms d a b c s
  | .wfnma d a b c => Sys2Proof.Machine.execWfnma d a b c s
  | .wdiv d a b => Sys2Proof.Machine.execWdiv d a b s
  | .wsqrt d a => Sys2Proof.Machine.execWsqrt d a s
  | .wmin d a b => Sys2Proof.Machine.execWmin d a b s
  | .wmax d a b => Sys2Proof.Machine.execWmax d a b s
  | .wabs d a => Sys2Proof.Machine.execWabs d a s
  | .wneg d a => Sys2Proof.Machine.execWneg d a s
  | .weq d a b => Sys2Proof.Machine.execWeq d a b s
  | .wlt d a b => Sys2Proof.Machine.execWlt d a b s
  | .wle d a b => Sys2Proof.Machine.execWle d a b s
  | .wsel d a b c => Sys2Proof.Machine.execWsel d a b c s
  | .wmv d a => Sys2Proof.Machine.execWmv d a s
  | .wexp d a => Sys2Proof.Machine.execWexp d a s
  | .wexp2 d a => Sys2Proof.Machine.execWexp2 d a s
  | .wlog d a => Sys2Proof.Machine.execWlog d a s
  | .wlog2 d a => Sys2Proof.Machine.execWlog2 d a s
  | .wrcp d a => Sys2Proof.Machine.execWrcp d a s
  | .wrsq d a => Sys2Proof.Machine.execWrsq d a s
  | .wtanh d a => Sys2Proof.Machine.execWtanh d a s
  | .wsig d a => Sys2Proof.Machine.execWsig d a s
  | .wsin d a => Sys2Proof.Machine.execWsin d a s
  | .wcos d a => Sys2Proof.Machine.execWcos d a s
  | .wredsum d a x c => Sys2Proof.Machine.execWredsum d a x c s
  | .wredmax d a x c => Sys2Proof.Machine.execWredmax d a x c s
  | .wredmin d a x c => Sys2Proof.Machine.execWredmin d a x c s
  | .iscan d a x c => Sys2Proof.Machine.execIscan d a x c s
  | .fscan d a x c => Sys2Proof.Machine.execFscan d a x c s
  | .wtopk d a x c => Sys2Proof.Machine.execWtopk d a x c s
  | .wsmx d a x c => Sys2Proof.Machine.execWsmx d a x c s
  | .wscl d a x c => Sys2Proof.Machine.execWscl d a x c s
  | .smerge d a x c => Sys2Proof.Machine.execSmerge d a x c s
  | .wcvt d a b c => Sys2Proof.Machine.execWcvt d a b c s
  | .wcvti d a b c => Sys2Proof.Machine.execWcvti d a b c s
  | .wcvtf d a b c => Sys2Proof.Machine.execWcvtf d a b c s
  | .wpkmx d a b c => Sys2Proof.Machine.execWpkmx d a b c s
  | .wupmx d a b c => Sys2Proof.Machine.execWupmx d a b c s
  | .wmvv w v a => Sys2Proof.Machine.execWmvv w v a s
  | .vmvw w v a => Sys2Proof.Machine.execVmvw w v a s
  | .wmva w t a => Sys2Proof.Machine.execWmva w t a s
  | .amvw w t a => Sys2Proof.Machine.execAmvw w t a s
  | .vdot l b a d => Sys2Proof.Machine.execVdot l b a d s
  | .mgath l b a d => Sys2Proof.Machine.execMgath l b a d s
  | .mgathc l b a d => Sys2Proof.Machine.execMgathc l b a d s
  | .mmac t l b a => Sys2Proof.Machine.execMmac t l b a s
  | .mzeroI32 t => Sys2Proof.Machine.execMzeroI32 t s
  | .mzeroF32 t => Sys2Proof.Machine.execMzeroF32 t s
  | .mpro t => Sys2Proof.Machine.execMpro t s
  | .msclRs l d => Sys2Proof.Machine.execMsclRs l d s
  | .msclRe l d => Sys2Proof.Machine.execMsclRe l d s
  | .msclCs t d => Sys2Proof.Machine.execMsclCs t d s
  | .msclCe t d => Sys2Proof.Machine.execMsclCe t d s
  | .msclOl t d => Sys2Proof.Machine.execMsclOl t d s
  | .mldI32 t b a => Sys2Proof.Machine.execMldI32 t b a s
  | .mldF32 t b a => Sys2Proof.Machine.execMldF32 t b a s
  | .mst t b a => Sys2Proof.Machine.execMst t b a s
  | .mstatBank l d => Sys2Proof.Machine.execMstatBank l d s
  | .mstatTile t d => Sys2Proof.Machine.execMstatTile t d s
  | .hint v => Sys2Proof.Machine.execHint v s
  | .pfch a o => Sys2Proof.Machine.execPfch a o s
  | .pfl2 a o => Sys2Proof.Machine.execPfl2 a o s
  | .hintKind k v => Sys2Proof.Machine.execHintKind k v s
  | .nop => Sys2Proof.Machine.execNop s
  | .rpt l n g x r => Sys2Proof.Machine.execRpt l n g x r s
  | .takeRecord => Sys2Proof.Machine.execTakeRecord s
  | .launchCompletion => Sys2Proof.Machine.execLaunchCompletion s
  | .tlbinvCompletion => Sys2Proof.Machine.execTlbinvCompletion s
  | .correctedError place => Sys2Proof.Machine.execCorrectedError place s
  | .uncorrectableError sub addr => Sys2Proof.Machine.execUncorrectableError sub addr s
  | .integrityError sub => Sys2Proof.Machine.execIntegrityError sub s
  | .write p gram => Sys2Proof.Machine.execWrite p gram s
  | .writeSync p gram => Sys2Proof.Machine.execWriteSync p gram s
  | .read p gram => Sys2Proof.Machine.execRead p gram s
  | .readSync p gram => Sys2Proof.Machine.execReadSync p gram s
  | .dataPacket p gram => Sys2Proof.Machine.execDataPacket p gram s
  | .ack p gram => Sys2Proof.Machine.execAck p gram s
  | .nak p gram => Sys2Proof.Machine.execNak p gram s
  | .putPacket p gram => Sys2Proof.Machine.execPutPacket p gram s
  | .getPacket p gram => Sys2Proof.Machine.execGetPacket p gram s
  | .retransmission conn => Sys2Proof.Machine.execRetransmission conn s
  | .linkLoss p => Sys2Proof.Machine.execLinkLoss p s
  | .ringLinkFailure link => Sys2Proof.Machine.execRingLinkFailure link s
  | .doorbell p addr => Sys2Proof.Machine.execDoorbell p addr s
  | .semaphoreAcquire req n => Sys2Proof.Machine.execSemaphoreAcquire req n s
  | .semaphoreRelease req n => Sys2Proof.Machine.execSemaphoreRelease req n s
  | .semaphoreForcedRelease n => Sys2Proof.Machine.execSemaphoreForcedRelease n s
  | .preq core => Sys2Proof.Machine.execPreq core s
  | .wakeRegister core => Sys2Proof.Machine.execWakeRegister core s
  | .tcmp core v => Sys2Proof.Machine.execTcmp core v s
  | .restart core => Sys2Proof.Machine.execRestart core s
  | .controlRegisterWrite host addr v => Sys2Proof.Machine.execControlRegisterWrite host addr v s
  | .mailboxReportRequest box => Sys2Proof.Machine.execMailboxReportRequest box s
  | .reportComplete box => Sys2Proof.Machine.execReportComplete box s
  | .measurementExtend data => Sys2Proof.Machine.execMeasurementExtend data s
  | .powerOn image key sig => Sys2Proof.Machine.execPowerOn image key sig s
  | .grantEpoch power temps own => Sys2Proof.Machine.execGrantEpoch power temps own s
  | .thermalTrip => Sys2Proof.Machine.execThermalTrip s
  | .refreshEvaluation temps => Sys2Proof.Machine.execRefreshEvaluation temps s
  | .linkUp p => Sys2Proof.Machine.execLinkUp p s

end Sys2Proof.Machine
end

