-- ==== Sys2Proof/Machine/Agents.lean ====
section
/-!
DEFINITION. What happens beside the program's instructions: the asynchronous causes in their order (17_system.md R439), and
the agents that serve the core, in the model's fixed order (log 6; 01_machine.md R22 leaves it open).
-/

namespace Sys2Proof.Machine

/-- The asynchronous cause that is taken now, in the order of 17_system.md R439. -/
def asyncCause (s : State) : Option Out :=
  if integrityDue s then some (.next (takeIntegrity s))
  else if s.ctl.engPend != [] && s.engineBoundary then some (execEngineFault s)
  else if forcedDue s then some (execForcedPreemption s)
  else if preemptionDue s then some (execPreemptionTrap s)
  else if timerDue s then some (execTimerInterrupt s)
  else if stepDue s then some (execStepBreakpoint s)
  else if userInterruptDue s then some (execUserLevelInterrupt s)
  else none

/-- What engine context t does next; none when it has nothing to do (12_engines.md R318, R320). -/
def engineAct (s : State) (t : Nat) : Option Out :=
  match runnable s t with
  | none => none
  | some c =>
    if c.shown || c.ended.isSome then some (execCommandComplete (BitVec.ofNat 4 t) s)
    else match performUnit s c with
      | .error .idle => none
      | .error h => some (.next (haltUnit s c h))
      | .ok u => some (.next u)

/-- What Barchan does next; none when it has nothing to do or waits for the pager (16_kv.md R415, R434, R435). -/
def barchanAct (s : State) : Option Out :=
  match s.kv.barOps with
  | [] => (clockAct s).map .next
  | op :: _ => (performOp s op).map .next

/-- A tile task whose join block's count is zero (13_work.md R359). -/
def dueTask (s : State) : Option HeldTask := s.sched.heldTasks.find? (fun h => countDone (s.pubNum h.block 8))

/-- What the scheduler does for the core next (13_work.md R346, R351, R359, R362). -/
def schedulerAct (s : State) : Option Out :=
  match dueTask s with
  | some h => some (.next (releaseTasks s h.block))
  | none =>
  if (readyLaunch s).isSome then some (execLaunchCompletion s)
  else if s.mode = .idle then (takeNext s).map .next
  else if (urgentQueue s).isSome then some (execSchedulerPreemptionRequest s)
  else none

/-- One action of an agent, the first in the model's order that has something to do; none when no agent has. -/
def agentAct (s : State) : Option Out :=
  if !publicationDone s then some (execPublication s)
  else if s.memory.arrivals.head?.any (arrivalDue s) then some (execArrival s)
  else if let some t := hubAct s then some (.next t)
  else (((upto 0 10).findSome? (engineAct s)).or
    (if s.kv.tc15 != s.kv.tlbIssued then some (execTlbinvCompletion s) else none)).or
    ((barchanAct s).or (schedulerAct s))

/-- The agents have the turn: at odd cycles, and whenever the core executes nothing (log 6). -/
def agentsTurn (s : State) : Bool := s.ctl.cycle.getLsbD 0 || s.mode != .running || s.wait.isSome

/-- A wait ends by itself: the result is there, or `wfi` is over (16_kv.md R414, 17_system.md R449). -/
def waitOver (s : State) : Option Out :=
  match s.wait with
  | some (.wfi t) => if wfiWakes s ∨ wfiTimesOut s t then some (execWfi s) else none
  | some (.result n _) => if s.kv.barResults.any (fun r => r.1 == n) then some (execBarchanResult s) else none
  | _ => none

/-- The instruction at the pc is to be executed: the core runs, and waits for nothing that ends by itself. A waiting
instruction is executed again from its start (11_sync.md R310). -/
def State.executes (s : State) : Bool :=
  s.mode == .running && (match s.wait with
    | some (.wfi _) => false
    | some (.result _ _) => false
    | _ => true)

/-- One cycle of the core has passed (03_scalar.md R85; time is not modelled, log 7). -/
def tick (s : State) : State := { s with ctl.cycle := s.ctl.cycle + 1 }

/-- What a step answers when a cycle passes with it. -/
def ticked : Out → Out
  | .next t => .next (tick t)
  | o => o

end Sys2Proof.Machine
end

