-- ==== Sys2Proof/Machine/TileTask.lean ====
section
/-!
DEFINITION. The macro-op sequence of a tile task (10_matrix.md R277, R278; 13_work.md R359): each line is a step. While a
task runs, `pc` is the descriptor's address.
-/

namespace Sys2Proof.Machine

/-- The core runs a tile task at program level (R278). -/
def State.inTask (s : State) : Bool :=
  s.level == .program && (match s.sched.act with
    | some a => a.isMacro
    | none => false)

/-- Note the next line of the sequence, and the group's columns (R278). -/
def setLine (s : State) (line g : Nat) : State :=
  { s with sched.act := s.sched.act.map (fun a => { a with macroStep := line, macroG := g }) }

/-- Commit a line: the position stays at the descriptor, and the line is a stated macro-op step (R278, 04_control.md R105). -/
def commitLine (s : State) (line g : Nat) : State :=
  { setLine (counted s) line g with commit := some .boundary }

/-- Run the instructions of a line one after another. When one traps, the task is left at line `again`; otherwise line
`next` comes next, with `pc` back at the descriptor (R278). -/
def runLine (again next g : Nat) (pc : Word) : List (State → Out) → State → Out
  | [], s => .next { setLine s next g with pc := pc, commit := some .boundary }
  | f :: t, s =>
    match f s with
    | .next u =>
      if u.level = .program then (if u.wait.isSome then .next u else runLine again next g pc t { u with pc := pc })
      else .next (setLine u again g)
    | o => o

/-- The word of a descriptor field. -/
def taskWord (ws : List Word) (k : Nat) : Nat := (ws.getD k 0).toNat

/-- The width code of the weights that fb selects (R277). -/
def taskWidth (ws : List Word) : Nat := if bitOf (taskWord ws 0) 31 then fld (taskWord ws 0) 24 7 else fld (taskWord ws 0) 16 7

/-- The base of the weights that fb selects (R277). -/
def taskBase (ws : List Word) : Word := if bitOf (taskWord ws 0) 31 then ws.getD 5 0 else ws.getD 4 0

/-- The columns of the group that starts at column c0, as its first line fixes them (R278). -/
def groupCols (s : State) (c0 : Nat) : Nat := min (4 * (s.lanes.grantE.toNat / 4)) (256 - c0)

/-- The columns of the group that a resumed task is in: those it had when it was saved. Of an image the scheduler does not
know, `vl`, which the group's last `setvl` set to 128 times as many, tells them (R278, log 23). -/
def resumedCols (s : State) (a : Activation) (c0 : Nat) : Nat :=
  if a.macroG ≠ 0 then a.macroG
  else if s.lanes.vl.toNat / 128 = 0 then groupCols s c0
  else min (s.lanes.vl.toNat / 128) (256 - c0)

/-- Line 0: the vector configuration and mcfg, an instruction each (R278, log 23). -/
def lineConfig (ws : List Word) (s : State) : State :=
  let s := counted (if s.lanes.vcfg.toNat = 0 then s else configure s 0)
  { s with lanes.mcfg := BitVec.ofNat 8 (taskWord ws 0) }

/-- Line 1: `setw UINT16`, `setvl 32` (R278); `vidx` and `wmvv` follow. -/
def lineIndex (s : State) : State :=
  counted (requestLength (counted { s with lanes.ewa := 16, lanes.ewb := 16, lanes.ewd := 16 }) 32)

/-- The `setw` of line 4 (R278). -/
def lineWidths (ws : List Word) (s : State) : State :=
  let w := BitVec.ofNat 7 (taskWidth ws)
  { counted s with
           lanes.ewa := newWidth s.lanes.ewa (fld (taskWord ws 0) 8 7) 16
           lanes.ewb := newWidth s.lanes.ewb w.toNat 16
           lanes.ewd := newWidth s.lanes.ewd w.toNat 32 }

/-- The line at which a task starts again from its saved position, s9 to s11 and acst.mrow (R278): from the start before the
tile is zeroed; at the `mst` after the last group; at the end of a group whose k-blocks are done; at the start of a group of
which nothing is accumulated; else at the `mgath` of the interrupted k-block. -/
def resumeLine (nk : Nat) (s : State) : Nat :=
  if s.reg 11 = 0 then 0
  else if 256 ≤ (s.reg 10).toNat then 9
  else if nk ≤ (s.reg 9).toNat then 8
  else if s.reg 9 = 0 ∧ fld s.lanes.acst.toNat 16 5 = 0 then 3
  else 5

/-- The rest of line 3, from the test of the grant on: the wait for four strips lies within the line (R278). -/
def grantStep : Nat := 12

/-- The rest of the last line, its `done`, when that waits or has trapped (R278). -/
def doneStep : Nat := 10

/-- The start of a group, once the grant is wide enough (R278). -/
def startGroup (s : State) (c0 : Nat) : State := commitLine s 4 (groupCols s c0)

/-- A `setvl` of line 3 has committed, and the line goes on: it is no boundary (R278, 04_control.md R105). -/
def startWait (s : State) : State := { setLine (counted s) grantStep 0 with commit := some .plain }

/-- The wait of line 3 for a grant of four strips; a cause that falls due is taken at it, as at other waits, but for a
pre-emption that is not forced (R278, 11_sync.md R310: DESIGN CHOICE, log 23). -/
def awaitGrant (s : State) : State := waitHere (setLine s grantStep 0) .grant

/-- Line 9: `mst`, and `done` in the same line (R278). -/
def lineStore (ws : List Word) (s : State) : Out :=
  match runLine 9 doneStep 0 s.pc [execMst 0 13 12] ((s.setReg 12 (ws.getD 6 0)).setReg 13 (ws.getD 7 0)) with
  | .next u => if u.level = .program ∧ u.wait.isNone then execDone u else .next u
  | o => o

/-- A line that executes no instruction is a step all the same (R278). -/
def skipLine (s : State) (line : Nat) : State := { setLine s line 0 with commit := some .boundary }

/-- One line of the sequence of R278, for the descriptor words `ws` at address pc. Every instruction that the sequence names
counts in `instret` (03_scalar.md R85); the assignments of s9 to s11 are part of the lines (log 23). `s9` is the k-block, `s10` the first
column of the group, `s11` says that the tile has been zeroed; `s12` to `s15` hold the operands of a line. -/
def taskLine (ws : List Word) (a : Activation) (s : State) : Out :=
  let pc := s.pc
  let j := (s.reg 9).toNat
  let c0 := (s.reg 10).toNat
  let nk := fld (taskWord ws 0) 32 5 + 1
  let bank := BitVec.ofNat 1 j
  let resumed := a.macroStep == resumeStep
  let g := if resumed then resumedCols s a c0 else a.macroG
  match if resumed then resumeLine nk s else a.macroStep with
  | 0 => .next (commitLine (lineConfig ws s) 1 0)
  | 1 => runLine 1 2 0 pc [execVidx 0 0, execWmvv 0 0 0] (lineIndex s)
  | 2 =>
    if s.reg 11 ≠ 0 then .next (skipLine s 3)
    else runLine 2 3 0 pc [if fld (taskWord ws 0) 0 2 = 0 then execMzeroI32 0 else execMzeroF32 0,
      fun u => .next (u.setReg 11 1)] s
  | 3 =>
    let u := requestLength s 32768
    .next (if u.lanes.grantE.toNat < 4 then startWait u else startGroup u c0)
  | 12 =>
    .next (if s.lanes.grantG.toNat < 4 then awaitGrant s else startGroup (requestLength s 32768) c0)
  | 4 => .next (commitLine (requestLength (lineWidths ws s) (128 * g)) 5 g)
  | 5 =>
    let u := (s.setReg 12 (ws.getD 2 0)).setReg 13 (ws.getD 1 0 + w64 j * ws.getD 3 0)
    runLine 5 6 g pc [execMgath bank 12 13 0] u
  | 6 =>
    let w := taskWidth ws % 64
    runLine 5 7 g pc [execVld 0 15 0 6] (s.setReg 15 (taskBase ws + w64 (j * w * 4096 + 16 * c0)))
  | 7 =>
    let last := nk ≤ j + 1
    runLine 5 (if last then 8 else 4) g pc [execMmac 0 bank 0 14, fun u => .next (u.setReg 9 (w64 (j + 1)))]
      (s.setReg 14 (w64 (c0 * 2 ^ 8)))
  | 8 =>
    let u := (s.setReg 9 0).setReg 10 (w64 (c0 + g))
    .next (skipLine u (if 256 ≤ c0 + g then 9 else 3))
  | 9 => lineStore ws s
  | _ => execDone s

/-- One step of the running tile task: its descriptor is read again, and a failure to read it is the task's (R278). -/
def tileStep (s : State) : Out :=
  match s.sched.act with
  | none => .next s
  | some a =>
    match loadDescriptor s s.pc with
    | .error e => finish s (.error e)
    | .ok r => if tileDescriptorBad (r.2.map (·.toNat)) then .next (startFault s 3 s.pc) else taskLine r.2 a r.1

end Sys2Proof.Machine
end

