-- ==== Sys2Proof/Machine/Fetch.lean ====
section
/-!
DEFINITION. Where the next instruction word comes from (02_encoding.md R38, R56, R58; 04_control.md R113, R115), and what it
is decoded to.
-/

namespace Sys2Proof.Machine

/-- What the sequencer does next: a word to execute with the state after its fetch, or something else. -/
inductive Issue where
  | word (w : Nat) (s : State)
  | other (o : Out)

/-- A program counter that is misaligned fetches nothing, and is reported at the instruction that produced it (02_encoding.md
R38). -/
def ifAligned (s : State) (next : Issue) : Issue :=
  if s.pc.toNat % 4 ≠ 0 then .other (.next (takeTrap s { code := 6, epc := some s.source, eaddr := s.pc })) else next

/-- Fetch the word at the pc (02_encoding.md R38). -/
def issueAtPc (s : State) : Issue :=
  match fetchWord s s.pc with
    | .error e => .other (finish s (.error e))
    | .ok r => .word r.1 { r.2 with source := s.pc }

/-- The next word of the repeat frame, after its recapture (02_encoding.md R56, R58). -/
def issueFrame (s : State) : Issue :=
  if s.frame.captured then
    .word (stagger s.frame.head.toNat (s.frame.body.getD s.frame.p.toNat 0).toNat s.frame.j.toNat) { s with source := s.pc }
  else .other (finish s (recaptureFrame s))

/-- The next word of the strip threads, after their recapture (04_control.md R113, R115, R116). -/
def issueStrip (s : State) : Issue :=
  if !s.strip.captured then .other (finish s (recaptureStrip s))
  else if s.thread = 256 then .other (execStripThreadModeEnd s)
  else .word (s.strip.body.getD (s.stripPos s.thread) 0).toNat { s with source := s.pc }

/-- What the sequencer does next: strip threads, a repeat frame, a tile task or the word at the pc. Strip threads and a frame
drive nothing in a handler, not even in one at their own level (02_encoding.md R59, 04_control.md R115). -/
def issueNext (s : State) : Issue :=
  if s.strip.live && s.strip.level == s.level && s.strip.held == 0 then ifAligned s (issueStrip s)
  else if s.frame.live && s.frame.level == s.level && s.frame.held == 0 then ifAligned s (issueFrame s)
  else if s.inTask then .other (tileStep s)
  else ifAligned s (issueAtPc s)

/-- The instruction of a word; a word that is none of the opcode table's is an illegal encoding (02_encoding.md R45). -/
noncomputable def instrOf (w : Nat) : Instr :=
  match decode w with
  | some i => i
  | none => .illegalEncoding (BitVec.ofNat 32 w)

/-- Where `withFetchWord` puts an instruction: the pc, when firmware can fetch there, else address 0. -/
def placeOf (s : State) : Word := if s.pc.toNat % 4 = 0 ∧ s.pc.toNat < 2 ^ 36 then s.pc else 0

/-- The state in which the next step fetches and executes the word w: the core runs firmware at `placeOf`, nothing is
pending, and the four bytes there hold w (02_encoding.md R38). -/
def placeWord (s : State) (w : Nat) : State :=
  let a := placeOf s
  let m := ((upto a.toNat 4).zip (leBytes w 4)).foldl (fun m c => mapSet m c.1 c.2) s.memory.mem
  { s with
    pc := a
    level := .firmware
    mode := .running
    wait := none
    commit := none
    agenda := []
    frame := Frame.none
    strip := Strip.none
    ctl.cycle := if s.ctl.cycle.getLsbD 0 then s.ctl.cycle + 1 else s.ctl.cycle
    memory.mem := m
    memory.poison := []
    hub.powered := true }

end Sys2Proof.Machine
end

