-- ==== Sys2Proof/Machine/Step.lean ====
section
/-!
DEFINITION. One step of the machine: an asynchronous cause, an event of the agenda, an action of an agent, the end of a
wait, or one instruction (01_machine.md R22).
-/

namespace Sys2Proof.Machine

/-- The core executes its next word. -/
noncomputable def issueStep (s : State) : Host.Outcome State Fault Refusal :=
  match issueNext s with
  | .other o => o
  | .word w t => exec (instrOf w) t

/-- The step when no event is listed: an agent, the end of a wait, or the next instruction. -/
noncomputable def coreStep (s : State) : Host.Outcome State Fault Refusal :=
  match waitOver s with
  | some o => o
  | none =>
    match if agentsTurn s then agentAct s else none with
    | some o => o
    | none => if s.executes then issueStep s else .next s

/-- One step (log 6). -/
noncomputable def step (s : State) : Host.Outcome State Fault Refusal :=
  if !s.hub.powered then .fault .poweredOff
  else match asyncCause s with
    | some (.next t) => .next { t with commit := none }
    | some o => o
    | none =>
      let u := { s with commit := none }
      match s.agenda with
      | e :: rest => exec e (tick { u with agenda := rest })
      | [] => ticked (coreStep u)

/-- The state in which `step` runs the word w of nbits bits next (log 8). -/
def State.withFetchWord (s : State) (_nbits w : Nat) : State := placeWord s (w % 2 ^ 32)

end Sys2Proof.Machine
end

