-- ==== Sys2Proof/Safety.lean ====
section
/-!
DEFINITION. What the statements speak of: what two states share, where a program's flow goes straight on, and what a safe
step is.
-/

namespace Sys2Proof.Machine

/-- A step is safe when it answers a next state: the model neither faults nor refuses. -/
def SafeStep (s : State) : Prop := ∃ t, step s = .next t

/-- Every byte of memory reads as before. -/
def KeptBytes (s t : State) : Prop := ∀ a, t.byte a = s.byte a

/-- Every byte of memory outside the listed locations reads as before. -/
def KeptBytesBut (ls : List Nat) (s t : State) : Prop := ∀ a, a ∉ ls → t.byte a = s.byte a

/-- Every scalar register of the level but those listed reads as before, the level is the same, and so are the banks that
belong to other levels (17_system.md R437, 12_engines.md R327). -/
structure KeptRegs (ds : List (BitVec 5)) (s t : State) : Prop where
  level : t.level = s.level
  regs : ∀ r, r ∉ ds → t.rd r = s.rd r
  kernel : s.level ≠ .kernel → t.kbank = s.kbank
  firmware : s.level ≠ .firmware → t.fbank = s.fbank
  shadow : s.level ≠ .program ∨ s.inHandler = false → t.shadow = s.shadow

/-- Every CSR but those listed reads as before (17_system.md R458). -/
def KeptCsrs (cs : List Nat) (s t : State) : Prop := ∀ c, c ∉ cs → csrRead t c = csrRead s c

/-- Trap, interrupt, control-block, queue, Barchan and hub state is as before. -/
structure KeptSystem (s t : State) : Prop where
  mode : t.mode = s.mode
  ctl : t.ctl = s.ctl
  kv : t.kv = s.kv
  hub : t.hub = s.hub

/-- Vector registers, word registers, tiles, banks, slots and the control registers of the lanes are as before; so are the
masks but m7, which the back edge of a vector loop rewrites (04_control.md R102). -/
structure KeptLanes (s t : State) : Prop where
  rest : { t.lanes with mask := s.lanes.mask } = s.lanes
  masks : ∀ k, k < 7 * 262144 → mapGet t.lanes.mask k = mapGet s.lanes.mask k

/-- The activation, its commands and the scheduler are as before, but for the present bits of the masks: the back edge of a
vector loop rewrites m7 (04_control.md R102, 17_system.md R454). -/
structure KeptSched (s t : State) : Prop where
  rest : { t.sched with act := s.sched.act } = s.sched
  act : t.sched.act.map (fun x => { x with masksPresent := 0 }) = s.sched.act.map (fun x => { x with masksPresent := 0 })

/-- The next word in program order is at the next address: no repeat frame and no strip threads drive the sequencer at
this level, and the instruction is not the last of the innermost hardware loop. -/
def State.straight (s : State) : Prop := s.inFrame = false ∧ s.inStrip = false ∧ s.atLoopEnd = false

/-- What is pending before a step: nothing that a step would do before it executes the next instruction (17_system.md
R439, log 6). -/
structure Quiet (s : State) : Prop where
  powered : s.hub.powered = true
  causes : asyncCause s = none
  events : s.agenda = []
  waits : waitOver { s with commit := none } = none
  turn : agentsTurn s = false
  runs : s.executes = true

/-- The instruction is one of 03_scalar.md R67 to R76 with the destination field d. -/
inductive ScalarInto : Instr → BitVec 5 → Prop
  | add (d a b : BitVec 5) : ScalarInto (.add d a b) d
  | sub (d a b : BitVec 5) : ScalarInto (.sub d a b) d
  | and (d a b : BitVec 5) : ScalarInto (.and d a b) d
  | or (d a b : BitVec 5) : ScalarInto (.or d a b) d
  | xor (d a b : BitVec 5) : ScalarInto (.xor d a b) d
  | andn (d a b : BitVec 5) : ScalarInto (.andn d a b) d
  | shl (d a b : BitVec 5) : ScalarInto (.shl d a b) d
  | shrl (d a b : BitVec 5) : ScalarInto (.shrl d a b) d
  | shra (d a b : BitVec 5) : ScalarInto (.shra d a b) d
  | cmplt (d a b : BitVec 5) : ScalarInto (.cmplt d a b) d
  | cmpltu (d a b : BitVec 5) : ScalarInto (.cmpltu d a b) d
  | min (d a b : BitVec 5) : ScalarInto (.min d a b) d
  | max (d a b : BitVec 5) : ScalarInto (.max d a b) d
  | minu (d a b : BitVec 5) : ScalarInto (.minu d a b) d
  | maxu (d a b : BitVec 5) : ScalarInto (.maxu d a b) d
  | cmpeq (d a b : BitVec 5) : ScalarInto (.cmpeq d a b) d
  | addi (d a : BitVec 5) (k : BitVec 13) : ScalarInto (.addi d a k) d
  | cmplti (d a : BitVec 5) (k : BitVec 13) : ScalarInto (.cmplti d a k) d
  | cmpltiu (d a : BitVec 5) (k : BitVec 13) : ScalarInto (.cmpltiu d a k) d
  | andi (d a : BitVec 5) (k : BitVec 13) : ScalarInto (.andi d a k) d
  | ori (d a : BitVec 5) (k : BitVec 13) : ScalarInto (.ori d a k) d
  | xori (d a : BitVec 5) (k : BitVec 13) : ScalarInto (.xori d a k) d
  | cmpeqi (d a : BitVec 5) (k : BitVec 13) : ScalarInto (.cmpeqi d a k) d
  | shli (d a : BitVec 5) (n : BitVec 6) : ScalarInto (.shli d a n) d
  | shrli (d a : BitVec 5) (n : BitVec 6) : ScalarInto (.shrli d a n) d
  | shrai (d a : BitVec 5) (n : BitVec 6) : ScalarInto (.shrai d a n) d
  | mul (d a b : BitVec 5) : ScalarInto (.mul d a b) d
  | mulhSs (d a b : BitVec 5) : ScalarInto (.mulhSs d a b) d
  | mulhUu (d a b : BitVec 5) : ScalarInto (.mulhUu d a b) d
  | mulhSu (d a b : BitVec 5) : ScalarInto (.mulhSu d a b) d
  | divs (d a b : BitVec 5) : ScalarInto (.divs d a b) d
  | divu (d a b : BitVec 5) : ScalarInto (.divu d a b) d
  | mods (d a b : BitVec 5) : ScalarInto (.mods d a b) d
  | modu (d a b : BitVec 5) : ScalarInto (.modu d a b) d
  | clz (d a : BitVec 5) : ScalarInto (.clz d a) d
  | ctz (d a : BitVec 5) : ScalarInto (.ctz d a) d
  | cpop (d a : BitVec 5) : ScalarInto (.cpop d a) d
  | brev (d a : BitVec 5) : ScalarInto (.brev d a) d
  | bfx (d a b : BitVec 5) : ScalarInto (.bfx d a b) d
  | bfxu (d a b : BitVec 5) : ScalarInto (.bfxu d a b) d
  | bfi (d a b : BitVec 5) : ScalarInto (.bfi d a b) d
  | lhi (d : BitVec 5) (k : BitVec 21) : ScalarInto (.lhi d k) d
  | pcrel (d : BitVec 5) (k : BitVec 21) : ScalarInto (.pcrel d k) d
  | ihz (d : BitVec 5) (h : BitVec 2) (k : BitVec 16) : ScalarInto (.ihz d h k) d
  | ihk (d : BitVec 5) (h : BitVec 2) (k : BitVec 16) : ScalarInto (.ihk d h k) d
  | ihs (d : BitVec 5) (h : BitVec 2) (k : BitVec 16) : ScalarInto (.ihs d h k) d

/-- The instruction is one of the conditional branches of 04_control.md R87, taken in state s exactly when p holds, with
the offset field o. -/
inductive BranchWhen (s : State) : Instr → Prop → BitVec 13 → Prop
  | beq (a b : BitVec 5) (o : BitVec 13) : BranchWhen s (.beq a b o) (s.rd a = s.rd b) o
  | bne (a b : BitVec 5) (o : BitVec 13) : BranchWhen s (.bne a b o) (s.rd a ≠ s.rd b) o
  | blt (a b : BitVec 5) (o : BitVec 13) : BranchWhen s (.blt a b o) ((s.rd a).toInt < (s.rd b).toInt) o
  | bge (a b : BitVec 5) (o : BitVec 13) : BranchWhen s (.bge a b o) ((s.rd b).toInt ≤ (s.rd a).toInt) o
  | bltu (a b : BitVec 5) (o : BitVec 13) : BranchWhen s (.bltu a b o) ((s.rd a).toNat < (s.rd b).toNat) o
  | bgeu (a b : BitVec 5) (o : BitVec 13) : BranchWhen s (.bgeu a b o) ((s.rd b).toNat ≤ (s.rd a).toNat) o

/-- The instruction is one of the writing CSR instructions of 03_scalar.md R81 on the CSR c with the destination field d,
and v is the value that R82 gives it to write in state s. -/
inductive CsrWriter (s : State) : Instr → BitVec 5 → BitVec 12 → Word → Prop
  | cwr (d a : BitVec 5) (c : BitVec 12) : CsrWriter s (.cwr d a c) d c (s.rd a)
  | cset (d a : BitVec 5) (c : BitVec 12) : CsrWriter s (.cset d a c) d c (csrRead s c.toNat ||| s.rd a)
  | cclr (d a : BitVec 5) (c : BitVec 12) : CsrWriter s (.cclr d a c) d c (csrRead s c.toNat &&& ~~~(s.rd a))
  | cwri (d k : BitVec 5) (c : BitVec 12) : CsrWriter s (.cwri d k c) d c (BitVec.ofNat 64 k.toNat)
  | cseti (d k : BitVec 5) (c : BitVec 12) : CsrWriter s (.cseti d k c) d c (csrRead s c.toNat ||| BitVec.ofNat 64 k.toNat)
  | cclri (d k : BitVec 5) (c : BitVec 12) :
      CsrWriter s (.cclri d k c) d c (csrRead s c.toNat &&& ~~~(BitVec.ofNat 64 k.toNat))

/-- The instruction is a scalar load of n bytes (06_memory.md R153), signed or not, into the destination field d, with its
address fields. -/
inductive LoadInto : Instr → Bool → Nat → BitVec 5 → BitVec 5 → BitVec 13 → Prop
  | lb (d a : BitVec 5) (o : BitVec 13) : LoadInto (.lb d a o) true 1 d a o
  | lh (d a : BitVec 5) (o : BitVec 13) : LoadInto (.lh d a o) true 2 d a o
  | lw (d a : BitVec 5) (o : BitVec 13) : LoadInto (.lw d a o) true 4 d a o
  | ld (d a : BitVec 5) (o : BitVec 13) : LoadInto (.ld d a o) true 8 d a o
  | lbu (d a : BitVec 5) (o : BitVec 13) : LoadInto (.lbu d a o) false 1 d a o
  | lhu (d a : BitVec 5) (o : BitVec 13) : LoadInto (.lhu d a o) false 2 d a o
  | lwu (d a : BitVec 5) (o : BitVec 13) : LoadInto (.lwu d a o) false 4 d a o

/-- The instruction is a scalar store of n bytes (06_memory.md R153) of the register d, with its address fields. -/
inductive StoreFrom : Instr → Nat → BitVec 5 → BitVec 5 → BitVec 13 → Prop
  | sb (d a : BitVec 5) (o : BitVec 13) : StoreFrom (.sb d a o) 1 d a o
  | sh (d a : BitVec 5) (o : BitVec 13) : StoreFrom (.sh d a o) 2 d a o
  | sw (d a : BitVec 5) (o : BitVec 13) : StoreFrom (.sw d a o) 4 d a o
  | sd (d a : BitVec 5) (o : BitVec 13) : StoreFrom (.sd d a o) 8 d a o

/-- n bytes as a two's-complement number (00_scope.md R11). -/
def signedBytes (x n : Nat) : Int := if x % 2 ^ (8 * n) < 2 ^ (8 * n - 1) then x % 2 ^ (8 * n) else
  ((x % 2 ^ (8 * n) : Nat) : Int) - 2 ^ (8 * n)

/-- The instruction is an atomic of 06_memory.md R157 of n bytes with scope code c, its fields d, a and b, and f gives the
new value from the old bytes, the low n bytes of sB and the low n bytes of sD. -/
inductive AtomicWith : Instr → Nat → BitVec 2 → BitVec 5 → BitVec 5 → BitVec 5 → (Nat → Nat → Nat → Nat) → Prop
  | atswp (d a b : BitVec 5) (c : BitVec 2) (z : BitVec 1) : AtomicWith (.atswp d a b c z) (4 + 4 * z.toNat) c d a b
      (fun _ y _ => y)
  | atadd (d a b : BitVec 5) (c : BitVec 2) (z : BitVec 1) : AtomicWith (.atadd d a b c z) (4 + 4 * z.toNat) c d a b
      (fun x y _ => x + y)
  | atand (d a b : BitVec 5) (c : BitVec 2) (z : BitVec 1) : AtomicWith (.atand d a b c z) (4 + 4 * z.toNat) c d a b
      (fun x y _ => x &&& y)
  | ator (d a b : BitVec 5) (c : BitVec 2) (z : BitVec 1) : AtomicWith (.ator d a b c z) (4 + 4 * z.toNat) c d a b
      (fun x y _ => x ||| y)
  | atxor (d a b : BitVec 5) (c : BitVec 2) (z : BitVec 1) : AtomicWith (.atxor d a b c z) (4 + 4 * z.toNat) c d a b
      (fun x y _ => x ^^^ y)
  | atmin (d a b : BitVec 5) (c : BitVec 2) (z : BitVec 1) : AtomicWith (.atmin d a b c z) (4 + 4 * z.toNat) c d a b
      (fun x y _ => if signedBytes x (4 + 4 * z.toNat) ≤ signedBytes y (4 + 4 * z.toNat) then x else y)
  | atmax (d a b : BitVec 5) (c : BitVec 2) (z : BitVec 1) : AtomicWith (.atmax d a b c z) (4 + 4 * z.toNat) c d a b
      (fun x y _ => if signedBytes x (4 + 4 * z.toNat) ≤ signedBytes y (4 + 4 * z.toNat) then y else x)
  | atminu (d a b : BitVec 5) (c : BitVec 2) (z : BitVec 1) : AtomicWith (.atminu d a b c z) (4 + 4 * z.toNat) c d a b
      (fun x y _ => min x y)
  | atmaxu (d a b : BitVec 5) (c : BitVec 2) (z : BitVec 1) : AtomicWith (.atmaxu d a b c z) (4 + 4 * z.toNat) c d a b
      (fun x y _ => max x y)
  | atcas (d a b : BitVec 5) (c : BitVec 2) (z : BitVec 1) : AtomicWith (.atcas d a b c z) (4 + 4 * z.toNat) c d a b
      (fun x y k => if x = k then y else x)

/-- Widths that 07_lanes.md R191 lists: of sources A and B, and of the destination. -/
structure WidthsLegal (a b d : BitVec 7) : Prop where
  wa : 1 ≤ widthOf a ∧ widthOf a ≤ 16
  wb : 1 ≤ widthOf b ∧ widthOf b ≤ 16
  wd : 1 ≤ widthOf d ∧ widthOf d ≤ 32

/-- What every reachable state satisfies of the vector configuration: the vector length is at most VLMAX, and the width
registers, and those that strip threads read (04_control.md R110), hold listed widths. -/
structure LanesLegal (s : State) : Prop where
  vl : s.lanes.vl.toNat ≤ s.vlmax
  widths : WidthsLegal s.lanes.ewa s.lanes.ewb s.lanes.ewd
  strip : s.strip.live = true → WidthsLegal s.strip.ewa s.strip.ewb s.strip.ewd

/-- x div 2^k with ties rounded toward +∞ (07_lanes.md R198). -/
def tiesUp (x : Int) (k : Nat) : Int := if k = 0 then x else (x + 2 ^ (k - 1)).fdiv (2 ^ k)

/-- All planes of an element of a destination: 16, or 32 of a pair (07_lanes.md R180, R181). -/
def State.planes (s : State) : Nat := if s.wd ≤ 16 then 16 else 32

/-- A vector destination is legal (07_lanes.md R200). -/
def DestLegal (s : State) (d : BitVec 6) : Prop := d.toNat < s.nr ∧ (s.wd ≤ 16 ∨ d.toNat % 2 = 0)

/-- From s to t the destination d, or the pair d and d + 1, receives f: of the elements in the window, all planes of those
that f names and nothing of the others; the tail elements are zero under tail-dead and as before under tail-keep; the elements
outside the window, in strip threads those of the other strips, and every other register are as before; its dirty bits are
set (07_lanes.md R180 to R184, R193, 04_control.md R111, R113). -/
structure WritesElems (s t : State) (d : Nat) (f : Nat → Option Nat) : Prop where
  body : ∀ e, s.window.lo ≤ e → e < s.window.lo + s.window.n → t.elem d e s.planes = (f e).getD (s.elem d e s.planes)
  tail : ∀ e, s.window.lo + s.window.n ≤ e → e < s.window.lo + s.window.all →
    t.elem d e s.planes = if s.tailDead then 0 else s.elem d e s.planes
  outside : ∀ r e, e < 262144 → (e < s.window.lo ∨ s.window.lo + s.window.all ≤ e) →
    mapGet t.lanes.vreg (vkey r e) = mapGet s.lanes.vreg (vkey r e)
  others : ∀ r e, e < 262144 → r ≠ d → (s.wd ≤ 16 ∨ r ≠ d + 1) →
    mapGet t.lanes.vreg (vkey r e) = mapGet s.lanes.vreg (vkey r e)
  dirty : ∀ k, k < 64 → t.lanes.vdirty.getLsbD k = (s.lanes.vdirty.getLsbD k || k == d || (decide (16 < s.wd) && k == d + 1))

/-- Only vector registers and their dirty bits differ, and what the arguments allow beside them: masks, `qflags`. -/
def OnlyVector (masks flags : Bool) (s t : State) : Prop :=
  t = { s with lanes := t.lanes, sched := t.sched } ∧ (masks = false → t.sched = s.sched ∧ t.lanes.mask = s.lanes.mask) ∧
  (flags = false → t.lanes.qflags = s.lanes.qflags) ∧
  { t.lanes with vreg := s.lanes.vreg, vdirty := s.lanes.vdirty, mask := s.lanes.mask, qflags := s.lanes.qflags } = s.lanes

/-- The scheduler state in which mask register k has been written by the activation: its present bit is set (17_system.md R454). -/
def State.maskPresent (s : State) (k : Nat) : Sched :=
  { s.sched with act := s.sched.act.map (fun x => { x with masksPresent := x.masksPresent ||| BitVec.ofNat 7 (2 ^ (k - 1)) }) }

/-- From s to t the mask register d receives f in the window; every other bit and every other mask is as before, and
nothing else differs but that the mask is present (08_masks.md R206, R207, 17_system.md R454); where the window is empty, so that no
bit of the mask is written, it may be left as it was (log 37). -/
structure WritesMask (s t : State) (d : Nat) (f : Nat → Prop) : Prop where
  body : ∀ e, s.window.lo ≤ e → e < s.window.lo + s.window.n → (t.maskBit d e = true ↔ f e)
  others : ∀ k e, e < 262144 → (k ≠ d ∨ e < s.window.lo ∨ s.window.lo + s.window.n ≤ e) →
    mapGet t.lanes.mask (vkey k e) = mapGet s.lanes.mask (vkey k e)
  rest : t = { s with lanes := { s.lanes with mask := t.lanes.mask }, sched := t.sched }
  present : t.sched = s.maskPresent d ∨ (s.window.n = 0 ∧ t.sched = s.sched)

/-- The instruction is an element-wise one of 07_lanes.md R195, R197 or R199 that does not saturate, with the destination
field d and the execution mask m (0 for `vsel`, which masks nothing); `ok` is what R200 asks of its sources in state s, and
x gives the exact result for element e. -/
inductive LaneInto (s : State) : Instr → BitVec 6 → BitVec 3 → Prop → (Nat → Int) → Prop
  | vadd (d a b : BitVec 6) (m : BitVec 3) :
      LaneInto s (.vadd d a b m) d m (a.toNat < s.nr ∧ b.toNat < s.nr) (fun e => s.srcA a e + s.srcB b e)
  | vaddScalar (d a : BitVec 6) (b : BitVec 5) (m : BitVec 3) :
      LaneInto s (.vaddScalar d a b m) d m (a.toNat < s.nr) (fun e => s.srcA a e + s.srcS b)
  | vsub (d a b : BitVec 6) (m : BitVec 3) :
      LaneInto s (.vsub d a b m) d m (a.toNat < s.nr ∧ b.toNat < s.nr) (fun e => s.srcA a e - s.srcB b e)
  | vsubScalar (d a : BitVec 6) (b : BitVec 5) (m : BitVec 3) :
      LaneInto s (.vsubScalar d a b m) d m (a.toNat < s.nr) (fun e => s.srcA a e - s.srcS b)
  | vmul (d a b : BitVec 6) (m : BitVec 3) :
      LaneInto s (.vmul d a b m) d m (a.toNat < s.nr ∧ b.toNat < s.nr) (fun e => s.srcA a e * s.srcB b e)
  | vmulScalar (d a : BitVec 6) (b : BitVec 5) (m : BitVec 3) :
      LaneInto s (.vmulScalar d a b m) d m (a.toNat < s.nr) (fun e => s.srcA a e * s.srcS b)
  | vmac (d a b : BitVec 6) (m : BitVec 3) :
      LaneInto s (.vmac d a b m) d m (a.toNat < s.nr ∧ b.toNat < s.nr) (fun e => s.srcD d e + s.srcA a e * s.srcB b e)
  | vmacScalar (d a : BitVec 6) (b : BitVec 5) (m : BitVec 3) :
      LaneInto s (.vmacScalar d a b m) d m (a.toNat < s.nr) (fun e => s.srcD d e + s.srcA a e * s.srcS b)
  | vand (d a b : BitVec 6) (m : BitVec 3) :
      LaneInto s (.vand d a b m) d m (a.toNat < s.nr ∧ b.toNat < s.nr) (fun e => ((BitVec.ofInt 32 (s.srcA a e) &&& BitVec.ofInt 32 (s.srcB b e)).toNat : Int))
  | vandScalar (d a : BitVec 6) (b : BitVec 5) (m : BitVec 3) :
      LaneInto s (.vandScalar d a b m) d m (a.toNat < s.nr) (fun e => ((BitVec.ofInt 32 (s.srcA a e) &&& BitVec.ofInt 32 (s.srcS b)).toNat : Int))
  | vor (d a b : BitVec 6) (m : BitVec 3) :
      LaneInto s (.vor d a b m) d m (a.toNat < s.nr ∧ b.toNat < s.nr) (fun e => ((BitVec.ofInt 32 (s.srcA a e) ||| BitVec.ofInt 32 (s.srcB b e)).toNat : Int))
  | vorScalar (d a : BitVec 6) (b : BitVec 5) (m : BitVec 3) :
      LaneInto s (.vorScalar d a b m) d m (a.toNat < s.nr) (fun e => ((BitVec.ofInt 32 (s.srcA a e) ||| BitVec.ofInt 32 (s.srcS b)).toNat : Int))
  | vxor (d a b : BitVec 6) (m : BitVec 3) :
      LaneInto s (.vxor d a b m) d m (a.toNat < s.nr ∧ b.toNat < s.nr) (fun e => ((BitVec.ofInt 32 (s.srcA a e) ^^^ BitVec.ofInt 32 (s.srcB b e)).toNat : Int))
  | vxorScalar (d a : BitVec 6) (b : BitVec 5) (m : BitVec 3) :
      LaneInto s (.vxorScalar d a b m) d m (a.toNat < s.nr) (fun e => ((BitVec.ofInt 32 (s.srcA a e) ^^^ BitVec.ofInt 32 (s.srcS b)).toNat : Int))
  | vsll (d a b : BitVec 6) (m : BitVec 3) :
      LaneInto s (.vsll d a b m) d m (a.toNat < s.nr ∧ b.toNat < s.nr) (fun e => s.srcA a e * (2 ^ (s.uB b e) : Nat))
  | vsllScalar (d a : BitVec 6) (b : BitVec 5) (m : BitVec 3) :
      LaneInto s (.vsllScalar d a b m) d m (a.toNat < s.nr) (fun e => s.srcA a e * (2 ^ ((s.scalar b).toNat) : Nat))
  | vsllImmediate (d a n : BitVec 6) (m : BitVec 3) :
      LaneInto s (.vsllImmediate d a n m) d m (a.toNat < s.nr) (fun e => s.srcA a e * (2 ^ (n.toNat) : Nat))
  | vsrl (d a b : BitVec 6) (m : BitVec 3) :
      LaneInto s (.vsrl d a b m) d m (a.toNat < s.nr ∧ b.toNat < s.nr) (fun e => s.uA a e / (2 ^ (s.uB b e) : Nat))
  | vsrlScalar (d a : BitVec 6) (b : BitVec 5) (m : BitVec 3) :
      LaneInto s (.vsrlScalar d a b m) d m (a.toNat < s.nr) (fun e => s.uA a e / (2 ^ ((s.scalar b).toNat) : Nat))
  | vsrlImmediate (d a n : BitVec 6) (m : BitVec 3) :
      LaneInto s (.vsrlImmediate d a n m) d m (a.toNat < s.nr) (fun e => s.uA a e / (2 ^ (n.toNat) : Nat))
  | vsra (d a b : BitVec 6) (m : BitVec 3) :
      LaneInto s (.vsra d a b m) d m (a.toNat < s.nr ∧ b.toNat < s.nr) (fun e => (s.sA a e).fdiv (2 ^ (s.uB b e) : Nat))
  | vsraScalar (d a : BitVec 6) (b : BitVec 5) (m : BitVec 3) :
      LaneInto s (.vsraScalar d a b m) d m (a.toNat < s.nr) (fun e => (s.sA a e).fdiv (2 ^ ((s.scalar b).toNat) : Nat))
  | vsraImmediate (d a n : BitVec 6) (m : BitVec 3) :
      LaneInto s (.vsraImmediate d a n m) d m (a.toNat < s.nr) (fun e => (s.sA a e).fdiv (2 ^ (n.toNat) : Nat))
  | vmin (d a b : BitVec 6) (m : BitVec 3) :
      LaneInto s (.vmin d a b m) d m (a.toNat < s.nr ∧ b.toNat < s.nr) (fun e => min (s.sA a e) (s.sB b e))
  | vminScalar (d a : BitVec 6) (b : BitVec 5) (m : BitVec 3) :
      LaneInto s (.vminScalar d a b m) d m (a.toNat < s.nr) (fun e => min (s.sA a e) (s.sS b))
  | vmax (d a b : BitVec 6) (m : BitVec 3) :
      LaneInto s (.vmax d a b m) d m (a.toNat < s.nr ∧ b.toNat < s.nr) (fun e => max (s.sA a e) (s.sB b e))
  | vmaxScalar (d a : BitVec 6) (b : BitVec 5) (m : BitVec 3) :
      LaneInto s (.vmaxScalar d a b m) d m (a.toNat < s.nr) (fun e => max (s.sA a e) (s.sS b))
  | vminu (d a b : BitVec 6) (m : BitVec 3) :
      LaneInto s (.vminu d a b m) d m (a.toNat < s.nr ∧ b.toNat < s.nr) (fun e => min (s.uA a e) (s.uB b e : Nat))
  | vminuScalar (d a : BitVec 6) (b : BitVec 5) (m : BitVec 3) :
      LaneInto s (.vminuScalar d a b m) d m (a.toNat < s.nr) (fun e => min (s.uA a e) (s.uS b))
  | vmaxu (d a b : BitVec 6) (m : BitVec 3) :
      LaneInto s (.vmaxu d a b m) d m (a.toNat < s.nr ∧ b.toNat < s.nr) (fun e => max (s.uA a e) (s.uB b e : Nat))
  | vmaxuScalar (d a : BitVec 6) (b : BitVec 5) (m : BitVec 3) :
      LaneInto s (.vmaxuScalar d a b m) d m (a.toNat < s.nr) (fun e => max (s.uA a e) (s.uS b))
  | vwid (d a : BitVec 6) (m : BitVec 3) :
      LaneInto s (.vwid d a m) d m (a.toNat < s.nr) (fun e => s.srcA a e)
  | vsel (d a b : BitVec 6) (m : BitVec 3) :
      LaneInto s (.vsel d a b m) d 0 (a.toNat < s.nr ∧ b.toNat < s.nr) (fun e => if s.maskBit m.toNat e then s.srcA a e else s.srcB b e)
  | vmv (d a : BitVec 6) (m : BitVec 3) :
      LaneInto s (.vmv d a m) d m (a.toNat < s.nr ∧ (s.wd ≤ 16 ∨ a.toNat % 2 = 0)) (fun e => (s.elem a.toNat e s.wd : Int))
  | vbcst (d : BitVec 6) (b : BitVec 5) (m : BitVec 3) :
      LaneInto s (.vbcst d b m) d m True (fun _ => ((s.scalar b).toNat : Int))
  | vidx (d : BitVec 6) (m : BitVec 3) :
      LaneInto s (.vidx d m) d m True (fun e => ((e - s.window.lo : Nat) : Int))

/-- The instruction is a saturating one of 07_lanes.md R198, with the destination field d and the mask m; `ok` is what R200
asks of its sources, x gives the exact result for element e and l to h is the range it is clamped to. -/
inductive LaneSatInto (s : State) : Instr → BitVec 6 → BitVec 3 → Prop → (Nat → Int) → Int → Int → Prop
  | vrsra (d a b : BitVec 6) (m : BitVec 3) :
      LaneSatInto s (.vrsra d a b m) d m (a.toNat < s.nr ∧ b.toNat < s.nr) (fun e => tiesUp (s.srcA a e) (s.uB b e)) s.dLo s.dHi
  | vrsraScalar (d a : BitVec 6) (b : BitVec 5) (m : BitVec 3) :
      LaneSatInto s (.vrsraScalar d a b m) d m (a.toNat < s.nr) (fun e => tiesUp (s.srcA a e) (s.scalar b).toNat) s.dLo s.dHi
  | vrsraImmediate (d a n : BitVec 6) (m : BitVec 3) :
      LaneSatInto s (.vrsraImmediate d a n m) d m (a.toNat < s.nr) (fun e => tiesUp (s.srcA a e) n.toNat) s.dLo s.dHi
  | vsat (d a : BitVec 6) (m : BitVec 3) :
      LaneSatInto s (.vsat d a m) d m (a.toNat < s.nr) (fun e => s.srcA a e) s.dLo s.dHi
  | vsatScalar (d a : BitVec 6) (b : BitVec 5) (m : BitVec 3) :
      LaneSatInto s (.vsatScalar d a b m) d m (a.toNat < s.nr) (fun e => s.srcA a e)
        (if signedOf s.ewd then max s.dLo (-((s.scalar b).toNat : Int)) else 0) (min s.dHi ((s.scalar b).toNat : Int))

/-- The instruction is `vadc` or `vsbc` (07_lanes.md R196) with the destination field d and the carry mask c; `ok` is what
R200 asks of its sources, x gives the exact result for element e and a carry in, and `out` the carry out of a result. -/
inductive LaneCarryInto (s : State) : Instr → BitVec 6 → BitVec 3 → Prop → (Nat → Int → Int) → (Int → Prop) → Prop
  | vadc (d a b : BitVec 6) (c : BitVec 3) :
      LaneCarryInto s (.vadc d a b c) d c (a.toNat < s.nr ∧ b.toNat < s.nr) (fun e k => s.srcA a e + s.srcB b e + k)
        (fun x => (2 : Int) ^ s.wd ≤ x)
  | vadcScalar (d a : BitVec 6) (b : BitVec 5) (c : BitVec 3) :
      LaneCarryInto s (.vadcScalar d a b c) d c (a.toNat < s.nr) (fun e k => s.srcA a e + s.srcS b + k)
        (fun x => (2 : Int) ^ s.wd ≤ x)
  | vsbc (d a b : BitVec 6) (c : BitVec 3) :
      LaneCarryInto s (.vsbc d a b c) d c (a.toNat < s.nr ∧ b.toNat < s.nr) (fun e k => s.srcA a e - s.srcB b e - k)
        (fun x => x < 0)
  | vsbcScalar (d a : BitVec 6) (b : BitVec 5) (c : BitVec 3) :
      LaneCarryInto s (.vsbcScalar d a b c) d c (a.toNat < s.nr) (fun e k => s.srcA a e - s.srcS b - k)
        (fun x => x < 0)

/-- The instruction is a compare of 08_masks.md R210, R211 with the mask destination d and the mask m; `ok` is what it asks
of its sources and c is the condition of element e. -/
inductive CompareInto (s : State) : Instr → BitVec 3 → BitVec 3 → Prop → (Nat → Prop) → Prop
  | vseq (d : BitVec 3) (a b : BitVec 6) (m : BitVec 3) :
      CompareInto s (.vseq d a b m) d m (a.toNat < s.nr ∧ b.toNat < s.nr) (fun e => s.srcA a e = s.srcB b e)
  | vseqScalar (d : BitVec 3) (a : BitVec 6) (b : BitVec 5) (m : BitVec 3) :
      CompareInto s (.vseqScalar d a b m) d m (a.toNat < s.nr) (fun e => s.srcA a e = s.srcS b)
  | vsne (d : BitVec 3) (a b : BitVec 6) (m : BitVec 3) :
      CompareInto s (.vsne d a b m) d m (a.toNat < s.nr ∧ b.toNat < s.nr) (fun e => s.srcA a e ≠ s.srcB b e)
  | vsneScalar (d : BitVec 3) (a : BitVec 6) (b : BitVec 5) (m : BitVec 3) :
      CompareInto s (.vsneScalar d a b m) d m (a.toNat < s.nr) (fun e => s.srcA a e ≠ s.srcS b)
  | vslt (d : BitVec 3) (a b : BitVec 6) (m : BitVec 3) :
      CompareInto s (.vslt d a b m) d m (a.toNat < s.nr ∧ b.toNat < s.nr) (fun e => s.sA a e < s.sB b e)
  | vsltScalar (d : BitVec 3) (a : BitVec 6) (b : BitVec 5) (m : BitVec 3) :
      CompareInto s (.vsltScalar d a b m) d m (a.toNat < s.nr) (fun e => s.sA a e < s.sS b)
  | vsle (d : BitVec 3) (a b : BitVec 6) (m : BitVec 3) :
      CompareInto s (.vsle d a b m) d m (a.toNat < s.nr ∧ b.toNat < s.nr) (fun e => s.sA a e ≤ s.sB b e)
  | vsleScalar (d : BitVec 3) (a : BitVec 6) (b : BitVec 5) (m : BitVec 3) :
      CompareInto s (.vsleScalar d a b m) d m (a.toNat < s.nr) (fun e => s.sA a e ≤ s.sS b)
  | vsltu (d : BitVec 3) (a b : BitVec 6) (m : BitVec 3) :
      CompareInto s (.vsltu d a b m) d m (a.toNat < s.nr ∧ b.toNat < s.nr) (fun e => s.uA a e < (s.uB b e : Int))
  | vsltuScalar (d : BitVec 3) (a : BitVec 6) (b : BitVec 5) (m : BitVec 3) :
      CompareInto s (.vsltuScalar d a b m) d m (a.toNat < s.nr) (fun e => s.uA a e < s.uS b)
  | vsleu (d : BitVec 3) (a b : BitVec 6) (m : BitVec 3) :
      CompareInto s (.vsleu d a b m) d m (a.toNat < s.nr ∧ b.toNat < s.nr) (fun e => s.uA a e ≤ (s.uB b e : Int))
  | vsleuScalar (d : BitVec 3) (a : BitVec 6) (b : BitVec 5) (m : BitVec 3) :
      CompareInto s (.vsleuScalar d a b m) d m (a.toNat < s.nr) (fun e => s.uA a e ≤ s.uS b)
  | vsgt (d : BitVec 3) (a b : BitVec 6) (m : BitVec 3) :
      CompareInto s (.vsgt d a b m) d m (a.toNat < s.nr ∧ b.toNat < s.nr) (fun e => s.sA a e > s.sB b e)
  | vsgtScalar (d : BitVec 3) (a : BitVec 6) (b : BitVec 5) (m : BitVec 3) :
      CompareInto s (.vsgtScalar d a b m) d m (a.toNat < s.nr) (fun e => s.sA a e > s.sS b)
  | vsgtu (d : BitVec 3) (a b : BitVec 6) (m : BitVec 3) :
      CompareInto s (.vsgtu d a b m) d m (a.toNat < s.nr ∧ b.toNat < s.nr) (fun e => s.uA a e > (s.uB b e : Int))
  | vsgtuScalar (d : BitVec 3) (a : BitVec 6) (b : BitVec 5) (m : BitVec 3) :
      CompareInto s (.vsgtuScalar d a b m) d m (a.toNat < s.nr) (fun e => s.uA a e > s.uS b)

/-- The instruction is a mask operation of 08_masks.md R213 or R214 with the destination d, and x is the new bit of
element e. -/
inductive MaskInto (s : State) : Instr → BitVec 3 → (Nat → Prop) → Prop
  | mand (d a b : BitVec 3) : MaskInto s (.mand d a b) d (fun e => s.maskBit a.toNat e = true ∧ s.maskBit b.toNat e = true)
  | mor (d a b : BitVec 3) : MaskInto s (.mor d a b) d (fun e => s.maskBit a.toNat e = true ∨ s.maskBit b.toNat e = true)
  | mxor (d a b : BitVec 3) : MaskInto s (.mxor d a b) d (fun e => s.maskBit a.toNat e ≠ s.maskBit b.toNat e)
  | mandn (d a b : BitVec 3) : MaskInto s (.mandn d a b) d (fun e => s.maskBit a.toNat e = true ∧ s.maskBit b.toNat e = false)
  | mnot (d a : BitVec 3) : MaskInto s (.mnot d a) d (fun e => s.maskBit a.toNat e = false)
  | mmv (d a : BitVec 3) : MaskInto s (.mmv d a) d (fun e => s.maskBit a.toNat e = true)
  | mslide (d a : BitVec 3) (c : BitVec 5) : MaskInto s (.mslide d a c) d (fun e => ∃ k : Nat,
      (k : Int) = (e : Int) - (s.rd c).toInt ∧ k < s.lanes.vl.toNat ∧ s.maskBit a.toNat k = true)

/-- The instruction is a vector load (06_memory.md R159) into d under the mask m; `near` says `hgath`, `first` says `vldff`;
`ok` is what R159 asks beside a legal destination, `place` is where each element lies and `stride` is what `estride` reports
(06_memory.md R160, R161, R168). -/
inductive VectorLoadForm (s : State) : Instr → BitVec 6 → BitVec 3 → Bool → Bool → Prop → (Nat → Place) → Word → Prop
  | vld (d : BitVec 6) (a : BitVec 5) (m c : BitVec 3) :
      VectorLoadForm s (.vld d a m c) d m false false (s.wd ≤ 16 ∨ c ≠ 6) (unitPlace c (s.rd a) s.wd) (unitStride c)
  | vlds (d : BitVec 6) (a b : BitVec 5) (m c : BitVec 3) :
      VectorLoadForm s (.vlds d a b m c) d m false false True
        (fun e => bytePlace c (s.rd a + BitVec.ofNat 64 e * s.rd b)) (8 * s.rd b)
  | vldx (d : BitVec 6) (a : BitVec 5) (b : BitVec 6) (m c : BitVec 3) :
      VectorLoadForm s (.vldx d a b m c) d m false false
        (b.toNat < s.nr ∧ b ≠ d ∧ (s.wd ≤ 16 ∨ b.toNat ≠ d.toNat + 1)) (s.indexedPlace c (s.rd a) b) 0
  | vldff (d : BitVec 6) (a : BitVec 5) (m c : BitVec 3) :
      VectorLoadForm s (.vldff d a m c) d m false true True (unitPlace c (s.rd a) s.wd) (unitStride c)
  | hgath (d : BitVec 6) (a : BitVec 5) (b : BitVec 6) (m c : BitVec 3) :
      VectorLoadForm s (.hgath d a b m c) d m true false
        (b.toNat < s.nr ∧ b ≠ d ∧ (s.wd ≤ 16 ∨ b.toNat ≠ d.toNat + 1)) (s.indexedPlace c (s.rd a) b) 0

/-- The instruction is a vector store (06_memory.md R159) of d under the mask m with the container c; `ok`, `place` and
`stride` as above. -/
inductive VectorStoreForm (s : State) : Instr → BitVec 6 → BitVec 3 → BitVec 3 → Prop → (Nat → Place) → Word → Prop
  | vst (d : BitVec 6) (a : BitVec 5) (m c : BitVec 3) :
      VectorStoreForm s (.vst d a m c) d m c True (unitPlace c (s.rd a) (widthOf s.ewa)) (unitStride c)
  | vsts (d : BitVec 6) (a b : BitVec 5) (m c : BitVec 3) :
      VectorStoreForm s (.vsts d a b m c) d m c True
        (fun e => bytePlace c (s.rd a + BitVec.ofNat 64 e * s.rd b)) (8 * s.rd b)
  | vstx (d : BitVec 6) (a : BitVec 5) (b : BitVec 6) (m c : BitVec 3) :
      VectorStoreForm s (.vstx d a b m c) d m c (b.toNat < s.nr) (s.indexedPlace c (s.rd a) b) 0

/-- The instruction is an element-wise one of the word unit (09_word.md R232 to R236, R245; 05_numbers.md R138, R140) with the
destination d, and g gives the result of element k with its flags. -/
inductive WordInto (s : State) : Instr → BitVec 5 → (Nat → Flagged) → Prop
  | wadd (d a b : BitVec 5) : WordInto s (.wadd d a b) d (fun k =>
      addNum s.frm (val32 (s.word a.toNat k)) (val32 (s.word b.toNat k)))
  | wsub (d a b : BitVec 5) : WordInto s (.wsub d a b) d (fun k =>
      addNum s.frm (val32 (s.word a.toNat k)) (val32 (s.word b.toNat k)).negate)
  | wmul (d a b : BitVec 5) : WordInto s (.wmul d a b) d (fun k =>
      mulNum s.frm (val32 (s.word a.toNat k)) (val32 (s.word b.toNat k)))
  | wfma (d a b c : BitVec 5) : WordInto s (.wfma d a b c) d (fun k =>
      fmaNum s.frm (val32 (s.word a.toNat k)) (val32 (s.word b.toNat k)) (val32 (s.word c.toNat k)))
  | wfms (d a b c : BitVec 5) : WordInto s (.wfms d a b c) d (fun k =>
      fmaNum s.frm (val32 (s.word a.toNat k)) (val32 (s.word b.toNat k)) (val32 (s.word c.toNat k)).negate)
  | wfnma (d a b c : BitVec 5) : WordInto s (.wfnma d a b c) d (fun k =>
      fmaNum s.frm (val32 (s.word a.toNat k)).negate (val32 (s.word b.toNat k)) (val32 (s.word c.toNat k)))
  | wdiv (d a b : BitVec 5) : WordInto s (.wdiv d a b) d (fun k =>
      divNum s.frm (val32 (s.word a.toNat k)) (val32 (s.word b.toNat k)))
  | wsqrt (d a : BitVec 5) : WordInto s (.wsqrt d a) d (fun k =>
      sqrtNum s.frm (val32 (s.word a.toNat k)))
  | wmin (d a b : BitVec 5) : WordInto s (.wmin d a b) d (fun k =>
      minmax32 false (s.word a.toNat k) (s.word b.toNat k))
  | wmax (d a b : BitVec 5) : WordInto s (.wmax d a b) d (fun k =>
      minmax32 true (s.word a.toNat k) (s.word b.toNat k))
  | wabs (d a : BitVec 5) : WordInto s (.wabs d a) d (fun k =>
      ⟨s.word a.toNat k % 2 ^ 31, 0, 0⟩)
  | wneg (d a : BitVec 5) : WordInto s (.wneg d a) d (fun k =>
      ⟨(s.word a.toNat k + 2 ^ 31) % 2 ^ 32, 0, 0⟩)
  | weq (d a b : BitVec 5) : WordInto s (.weq d a b) d (fun k =>
      weq32 (s.word a.toNat k) (s.word b.toNat k))
  | wlt (d a b : BitVec 5) : WordInto s (.wlt d a b) d (fun k =>
      wlt32 false (s.word a.toNat k) (s.word b.toNat k))
  | wle (d a b : BitVec 5) : WordInto s (.wle d a b) d (fun k =>
      wlt32 true (s.word a.toNat k) (s.word b.toNat k))
  | wsel (d a b c : BitVec 5) : WordInto s (.wsel d a b c) d (fun k =>
      ⟨if s.word c.toNat k ≠ 0 then s.word a.toNat k else s.word b.toNat k, 0, 0⟩)
  | wmv (d a : BitVec 5) : WordInto s (.wmv d a) d (fun k =>
      ⟨s.word a.toNat k, 0, 0⟩)
  | wexp (d a : BitVec 5) : WordInto s (.wexp d a) d (fun k =>
      funcNum .exp s.frm (s.word a.toNat k))
  | wexp2 (d a : BitVec 5) : WordInto s (.wexp2 d a) d (fun k =>
      funcNum .exp2 s.frm (s.word a.toNat k))
  | wlog (d a : BitVec 5) : WordInto s (.wlog d a) d (fun k =>
      funcNum .log s.frm (s.word a.toNat k))
  | wlog2 (d a : BitVec 5) : WordInto s (.wlog2 d a) d (fun k =>
      funcNum .log2 s.frm (s.word a.toNat k))
  | wrcp (d a : BitVec 5) : WordInto s (.wrcp d a) d (fun k =>
      funcNum .rcp s.frm (s.word a.toNat k))
  | wrsq (d a : BitVec 5) : WordInto s (.wrsq d a) d (fun k =>
      funcNum .rsq s.frm (s.word a.toNat k))
  | wtanh (d a : BitVec 5) : WordInto s (.wtanh d a) d (fun k =>
      funcNum .tanh s.frm (s.word a.toNat k))
  | wsig (d a : BitVec 5) : WordInto s (.wsig d a) d (fun k =>
      funcNum .sig s.frm (s.word a.toNat k))
  | wsin (d a : BitVec 5) : WordInto s (.wsin d a) d (fun k =>
      funcNum .sin s.frm (s.word a.toNat k))
  | wcos (d a : BitVec 5) : WordInto s (.wcos d a) d (fun k =>
      funcNum .cos s.frm (s.word a.toNat k))
  | wscl (d a b c : BitVec 5) : WordInto s (.wscl d a b c) d (fun k =>
      scaleElem s.frm (s.rd b).toNat (s.word a.toNat k) (s.word c.toNat (k / rowLength (s.rd b).toNat)))
  | wcvt (d a b c : BitVec 5) : WordInto s (.wcvt d a b c) d (fun k =>
      cvtFp (fmtOf (c.toNat % 16)) (if b.getLsbD 4 then .rod else s.frm) (c.getLsbD 4)
        (valOf (b.toNat % 16) (s.word a.toNat k)))
  | wcvti (d a b c : BitVec 5) : WordInto s (.wcvti d a b c) d (fun k =>
      cvtInt (intFmtOf (c.toNat % 16)) (if b.getLsbD 4 then .rod else s.frm) (c.getLsbD 4)
        (valOf (b.toNat % 16) (s.word a.toNat k)))
  | wcvtf (d a b c : BitVec 5) : WordInto s (.wcvtf d a b c) d (fun k =>
      cvtFp (fmtOf (c.toNat % 16)) (if b.getLsbD 4 then .rod else s.frm) (c.getLsbD 4)
        (valOf (b.toNat % 16) (s.word a.toNat k)))
  | wupmx (d a b c : BitVec 5) : WordInto s (.wupmx d a b c) d (fun k =>
      unpackElem (b.toNat % 16) (if b.getLsbD 4 then .rod else s.frm) (s.word c.toNat (k / 32)) (s.word a.toNat k))

/-- Between s and t the word register d receives f in all 1,024 elements, its dirty bit is set, and every other word
register is as before (09_word.md R229 to R231). -/
structure WritesWord (s t : State) (d : Nat) (f : Nat → Nat) : Prop where
  body : ∀ k, k < 1024 → t.word d k = f k % 2 ^ 32
  others : ∀ r k, k < 1024 → r ≠ d → t.word r k = s.word r k
  dirty : ∀ r, r < 32 → t.lanes.wdirty.getLsbD r = (s.lanes.wdirty.getLsbD r || r == d)

/-- The FP32 code is a NaN (05_numbers.md R120). -/
def Nan32 (x : Nat) : Prop := 0x7F800000 < x % 2 ^ 31

/-- The FP32 code is a signalling NaN (05_numbers.md R121). -/
def Sig32 (x : Nat) : Prop := Nan32 x ∧ x / 2 ^ 22 % 2 = 0

/-- The FP32 code is an infinity (05_numbers.md R120). -/
def Inf32 (x : Nat) : Prop := x % 2 ^ 31 = 0x7F800000

/-- The FP32 code is finite (05_numbers.md R120). -/
def Fin32 (x : Nat) : Prop := x % 2 ^ 31 < 0x7F800000

/-- The value of an FP32 code in units of 2^-149 (05_numbers.md R120); an infinity counts as ±2^128. -/
def fixed32 (x : Nat) : Int :=
  let n : Nat := if x / 2 ^ 23 % 2 ^ 8 = 0 then x % 2 ^ 23 else (2 ^ 23 + x % 2 ^ 23) * 2 ^ (x / 2 ^ 23 % 2 ^ 8 - 1)
  if x / 2 ^ 31 % 2 = 1 then -n else n

/-- An exact value without a rest in units of 2^-k. -/
def Exact.units (x : Exact) (k : Int) : Int :=
  (if x.neg then -1 else 1) * ((x.m * 2 ^ (x.e + k).toNat : Nat) : Int)

/-- The magnitude p / q lies in the interval that an exact value names, which is narrow enough for one rounding to FP32: at
its lower end exactly when the value has no rest. -/
def Encloses (x : Exact) (p q : Nat) : Prop :=
  let unit := 2 ^ (x.e + 400).toNat * q
  2 ^ 26 ≤ x.m ∧ -400 ≤ x.e ∧ x.m * unit ≤ p * 2 ^ 400 ∧ p * 2 ^ 400 < (x.m + 1) * unit ∧
    (x.rest = false ↔ x.m * unit = p * 2 ^ 400)

/-- The same of the square root of p / q. -/
def EnclosesRoot (x : Exact) (p q : Nat) : Prop :=
  let unit := 2 ^ (2 * x.e + 400).toNat * q
  2 ^ 26 ≤ x.m ∧ -200 ≤ x.e ∧ x.m * x.m * unit ≤ p * 2 ^ 400 ∧ p * 2 ^ 400 < (x.m + 1) * (x.m + 1) * unit ∧
    (x.rest = false ↔ x.m * x.m * unit = p * 2 ^ 400)

/-- Only word registers, their dirty bits and the sticky flags differ. -/
def OnlyWord (s t : State) : Prop :=
  let l : Lanes := { s.lanes with
    wreg := t.lanes.wreg, wdirty := t.lanes.wdirty, fflags := t.lanes.fflags, qflags := t.lanes.qflags }
  t = { s with lanes := l }

/-- The flags that a list of results sets in `fflags` and `qflags` (05_numbers.md R127, R128). -/
def SetsFlags (s t : State) (rs : List Flagged) : Prop :=
  t.lanes.fflags = rs.foldl (fun f r => f ||| r.f) s.lanes.fflags ∧
  t.lanes.qflags = rs.foldl (fun q r => q ||| r.q) s.lanes.qflags

/-- The FP32 sum of two results with the flags of both and of the addition (09_word.md R239). -/
def plusF (mode : Rounding) (a b : Flagged) : Flagged :=
  let r := add32 mode a.val b.val
  ⟨r.val, a.f ||| b.f ||| r.f, 0⟩

/-- Node i of the summation tree over y, h levels above the values: the sum of its two neighbours below (09_word.md R239). -/
def sumTree (mode : Rounding) (y : Nat → Nat) : Nat → Nat → Flagged
  | 0, i => ⟨y i, 0, 0⟩
  | h + 1, i => plusF mode (sumTree mode y h (2 * i)) (sumTree mode y h (2 * i + 1))

/-- The sequential sum of the trees of 32 values each, n of them, from an initial value (09_word.md R239). -/
def sumChain (mode : Rounding) (init : Nat) (y : Nat → Nat) : Nat → Flagged
  | 0 => ⟨init, 0, 0⟩
  | n + 1 => plusF mode (sumChain mode init y n) (sumTree mode (fun k => y (32 * n + k)) 5 0)

/-- `Sum(init, x[0 .. v - 1])` in the order that la selects, where 2^h is the least power of two not below max(v, 1); the places
past the values hold +0 (09_word.md R239). -/
def sumOrder (la : Bool) (mode : Rounding) (init : Nat) (x : Nat → Nat) (v h : Nat) : Flagged :=
  let y := fun k => if k < v then x k else 0
  if la then sumChain mode init y ((v + 31) / 32) else plusF mode ⟨init, 0, 0⟩ (sumTree mode y h 0)

/-- 2^h is the least power of two not below max(v, 1). -/
def LeastPower (h v : Nat) : Prop := v ≤ 2 ^ h ∧ (h = 0 ∨ 2 ^ (h - 1) < v)

/-- The value of an FP16 code in units of 2^-24 (05_numbers.md R120), for a finite one. -/
def fixed16 (x : Nat) : Int :=
  let n : Nat := if x / 2 ^ 10 % 2 ^ 5 = 0 then x % 2 ^ 10 else (2 ^ 10 + x % 2 ^ 10) * 2 ^ (x / 2 ^ 10 % 2 ^ 5 - 1)
  if x / 2 ^ 15 % 2 = 1 then -n else n

/-- The code x of w bits read as a number, signed or not (10_matrix.md R254). -/
def codeValue (signed : Bool) (w x : Nat) : Int :=
  if signed = true ∧ 2 ^ (w - 1) ≤ x % 2 ^ w then ((x % 2 ^ w : Nat) : Int) - 2 ^ w else (x % 2 ^ w : Nat)

/-- The term a × b of row m of a bank, strip n, k-block j and position k of vB, or none when either element does not count
(10_matrix.md R253, R254). -/
def State.dotTerm (s : State) (bank : Bank) (b : BitVec 6) (seg m n j k : Nat) : Option (Int × Int) :=
  let i := (seg + j) * 32768 + 128 * n + k
  let x := bank.code m (128 * j + k)
  if bank.valid = true ∧ m < bank.rows ∧ 128 * j + k < bank.klen ∧ i < s.lanes.vl.toNat ∧ n < s.lanes.grantE.toNat then
    some (if s.lanes.mcfg.getLsbD 2 then (if x % 2 = 0 then 1 else -1) else codeValue bank.sgn bank.w x,
      if s.lanes.mcfg.getLsbD 3 then (if s.elem b.toNat i 1 = 0 then 1 else -1)
      else codeValue (signedOf s.ewb) (widthOf s.ewb) (s.elem b.toNat i (widthOf s.ewb)))
  else none

/-- What `smerge` has done after some turns of its loop (14_sparse.md R378): the entries of X and Y consumed, and the entries
written, for the keys and values of both rows. -/
inductive Merged (z : Bool) (kx vx ky vy : Nat → Nat) (nx ny : Nat) : Nat → Nat → List (Nat × Nat) → Prop
  | start : Merged z kx vx ky vy nx ny 0 0 []
  | fromX {i j out} : Merged z kx vx ky vy nx ny i j out → out.length < 1024 → i < nx → (ny ≤ j ∨ kx i < ky j) →
      Merged z kx vx ky vy nx ny (i + 1) j (out ++ [(kx i, vx i)])
  | fromY {i j out} : Merged z kx vx ky vy nx ny i j out → out.length < 1024 → j < ny → (nx ≤ i ∨ ky j < kx i) →
      Merged z kx vx ky vy nx ny i (j + 1) (out ++ [(ky j, vy j)])
  | dropped {i j out} : Merged z kx vx ky vy nx ny i j out → out.length < 1024 → i < nx → j < ny → kx i = ky j →
      z = true → (add32 .rne (vx i) (vy j)).val % 2 ^ 31 = 0 → Merged z kx vx ky vy nx ny (i + 1) (j + 1) out
  | added {i j out} : Merged z kx vx ky vy nx ny i j out → out.length < 1024 → i < nx → j < ny → kx i = ky j →
      (z = false ∨ (add32 .rne (vx i) (vy j)).val % 2 ^ 31 ≠ 0) →
      Merged z kx vx ky vy nx ny (i + 1) (j + 1) (out ++ [(kx i, (add32 .rne (vx i) (vy j)).val)])

/-- The value x ranks before y in `wtopk`, compared as `wlt` compares (09_word.md R243). -/
def ranksBefore (smallest : Bool) (x y : Nat) : Prop := (if smallest then lt32 x y else lt32 y x) = true

/-- From s to t the repeat frame and the strip state are kept for the return, and one whose words run at the handler's own
level h counts the handler as one more that suspends it (02_encoding.md R58, R59, 04_control.md R115). -/
def SuspendedAt (h : Level) (s t : State) : Prop :=
  t.frame = { s.frame with
    captured := false, held := s.frame.held + if s.frame.live = true ∧ s.frame.level = h then 1 else 0 } ∧
  t.strip = { s.strip with
    captured := false, held := s.strip.held + if s.strip.live = true ∧ s.strip.level = h then 1 else 0 }

/-- From s to t the core enters kernel level with a cause word, a return address and an address in `eaddr` (17_system.md
R440 to R442): the saved status holds the old level and nest, kie and step are as before, and registers, memory, lanes,
loops and the count of committed instructions are as they were. -/
structure EntersKernel (s t : State) (cause back addr : Word) : Prop where
  level : t.level = .kernel
  pc : t.pc = s.ctl.evec &&& ~~~3#64
  epc : t.ctl.epc = back &&& ~~~3#64
  ecause : t.ctl.ecause = cause
  eaddr : t.ctl.eaddr = addr
  saved : t.ctl.estatus.toNat % 4 = s.level.code ∧ t.ctl.estatus.getLsbD 2 = true
  status : t.ctl.estatus.toNat / 8 = s.ctl.estatus.toNat / 8
  regs : t.regs = s.regs ∧ t.shadow = s.shadow ∧ t.kbank = s.kbank ∧ t.fbank = s.fbank
  rest : t.memory = s.memory ∧ t.lanes = s.lanes ∧ t.loops = s.loops ∧ t.instret = s.instret ∧ t.mode = s.mode
  frames : SuspendedAt .kernel s t
  waits : t.wait = none

/-- From s to t the core enters firmware level with a cause word, a return address and an address (17_system.md R443). -/
structure EntersFirmware (s t : State) (cause back addr : Word) : Prop where
  level : t.level = .firmware
  pc : t.pc = s.ctl.fvec
  fepc : t.ctl.fepc = back
  fcause : t.ctl.fcause = cause
  faddr : t.ctl.faddr = addr
  saved : t.ctl.fstat.toNat = s.level.code + 4
  kept : t.ctl.epc = s.ctl.epc ∧ t.ctl.ecause = s.ctl.ecause ∧ t.ctl.estatus = s.ctl.estatus
  rest : t.regs = s.regs ∧ t.memory = s.memory ∧ t.lanes = s.lanes ∧ t.loops = s.loops ∧ t.instret = s.instret
  frames : SuspendedAt .firmware s t

/-- A trap from this state enters the kernel: the level is program, or kernel with nest clear (17_system.md R442, R443). -/
def State.kernelTakes (s : State) : Prop := s.level = .program ∨ (s.level = .kernel ∧ s.ctl.estatus.getLsbD 2 = false)

/-- A scalar memory access traps into the kernel and has no other effect (06_memory.md R155): the cause, `epc` at the
instruction, `eaddr`, and `estride` and `eremain` zero. -/
def AccessTraps (i : Instr) (s : State) (cause addr : Word) : Prop :=
  ∃ t, exec i s = .next t ∧ EntersKernel s t cause s.pc addr ∧ t.ctl.estride = 0 ∧ t.ctl.eremain = 0

/-- The words of a tile descriptor that is not rejected (10_matrix.md R277). That bits 15 and 23 count as reserved is the
model's choice (log 37). -/
def TileDescriptorOk (ws : List Word) : Prop :=
  let w := (ws.getD 0 0).toNat
  w / 2 ^ 37 = 0 ∧ w / 2 ^ 15 % 2 = 0 ∧ w / 2 ^ 23 % 2 = 0 ∧ w % 4 < 2 ∧ (w / 2 ^ 24 % 64 = 4 ∨ w / 2 ^ 24 % 64 = 8)

/-- A tile task is the running activation, and the given line of its sequence comes next (10_matrix.md R278). -/
def AtLine (s : State) (line : Nat) : Prop := s.level = .program ∧ s.sched.act.map (fun a => (a.isMacro, a.macroStep)) = some (true, line)

/-- The step from s is the given line of a tile task, whose descriptor holds the words ws; u is the state after the read of
the descriptor (10_matrix.md R277, R278). -/
structure RunsLine (s : State) (line : Nat) (ws : List Word) (u : State) : Prop where
  quiet : Quiet s
  plain : s.frame.live = false ∧ s.strip.live = false
  line : AtLine s line
  read : loadDescriptor { s with commit := none } s.pc = .ok (u, ws)
  sound : TileDescriptorOk ws

/-! ### The page walk (06_memory.md R147 to R151) -/

/-- The walker finds the entry e for an address in a table at level lev, which lies in memory (06_memory.md R147, R149): the
entry's place is `at_`. -/
structure PteAt (s : State) (va : Word) (lev t at_ e : Nat) : Prop where
  place : at_ = t + 8 * (va.toNat / 2 ^ (16 + 13 * lev) % 2 ^ 13)
  memory : isMemory at_ = true ∧ s.populated at_ = true
  entry : e = leNat ((upto at_ 8).map s.wideByte)

/-- An entry with V set, no reserved bit set and a listed type (06_memory.md R148). -/
def PteSound (e : Nat) : Prop := e % 2 = 1 ∧ e / 2 ^ 11 % 2 ^ 5 = 0 ∧ e / 2 ^ 46 % 2 ^ 12 = 0 ∧ e / 2 ^ 9 % 4 ≠ 3

/-- A pointer to the table of the next level: R, W, X, U, A, D, G and the type are zero (06_memory.md R149). -/
def PtePointer (e : Nat) : Prop := e / 2 ^ 5 % 2 = 0 ∧ e / 2 % 2 ^ 4 = 0 ∧ e / 2 ^ 6 % 2 ^ 5 = 0

/-- A leaf lets a scalar load or a scalar store through at a level (06_memory.md R151). -/
def LeafGrants (e : Nat) (store : Bool) (lvl : Level) : Prop :=
  e / 2 ^ (if store then 2 else 1) % 2 = 1 ∧ (lvl = .program → e / 2 ^ 4 % 2 = 1)

/-- The memory type at a physical address under a leaf (06_memory.md R145, R148). -/
def LeafType (pa e : Nat) (ty : MemType) : Prop :=
  ty = if 0x3FFF00000000 ≤ pa ∧ pa < 2 ^ 46 then .control else
    match e / 2 ^ 9 % 4 with
    | 0 => .normal
    | 1 => .sync
    | _ => .control

/-- The walk of a scalar access, at the core's level, from the table at t of level lev: how it fails, or the physical
address, the memory type and the place of the leaf (06_memory.md R149). -/
inductive Walks (s : State) (store : Bool) (va : Word) : Nat → Nat → Except FaultKind (Nat × MemType × Nat) → Prop
  | invalid {lev t at_ e} : PteAt s va lev t at_ e → e % 2 = 0 → Walks s store va lev t (.error .page)
  | reserved {lev t at_ e} : PteAt s va lev t at_ e → e % 2 = 1 → ¬ PteSound e → Walks s store va lev t (.error .access)
  | badPointer {lev t at_ e} : PteAt s va lev t at_ e → PteSound e → e / 2 ^ 5 % 2 = 0 → lev = 0 ∨ ¬ PtePointer e →
      Walks s store va lev t (.error .access)
  | pointer {lev t at_ e r} : PteAt s va (lev + 1) t at_ e → PteSound e → PtePointer e →
      Walks s store va lev (e / 2 ^ 16 % 2 ^ 30 * 2 ^ 16) r → Walks s store va (lev + 1) t r
  | unaligned {lev t at_ e} : PteAt s va lev t at_ e → PteSound e → e / 2 ^ 5 % 2 = 1 →
      e / 2 ^ 16 % 2 ^ 30 * 2 ^ 16 % 2 ^ (16 + 13 * lev) ≠ 0 → Walks s store va lev t (.error .access)
  | refused {lev t at_ e} : PteAt s va lev t at_ e → PteSound e → e / 2 ^ 5 % 2 = 1 → ¬ LeafGrants e store s.level →
      Walks s store va lev t (.error .access)
  | unpopulated {lev t at_ e} : PteAt s va lev t at_ e → PteSound e → e / 2 ^ 5 % 2 = 1 →
      s.populated (e / 2 ^ 16 % 2 ^ 30 * 2 ^ 16 + va.toNat % 2 ^ (16 + 13 * lev)) = false →
      Walks s store va lev t (.error .access)
  | leaf {lev t at_ e pa ty} : PteAt s va lev t at_ e → PteSound e → e / 2 ^ 5 % 2 = 1 →
      e / 2 ^ 16 % 2 ^ 30 * 2 ^ 16 % 2 ^ (16 + 13 * lev) = 0 → LeafGrants e store s.level →
      pa = e / 2 ^ 16 % 2 ^ 30 * 2 ^ 16 + va.toNat % 2 ^ (16 + 13 * lev) → s.populated pa = true → LeafType pa e ty →
      Walks s store va lev t (.ok (pa, ty, at_))

/-- The instruction is a command instruction (12_engines.md R314) with its function number, its fields, and a context of its
engine. -/
inductive CommandForm : Instr → Nat → BitVec 5 → BitVec 5 → BitVec 5 → BitVec 4 → Prop
  | xcopy (d a b : BitVec 5) (t : BitVec 4) : t.toNat ≤ 7 → CommandForm (.xcopy d a b t) 0 d a b t
  | xconv (d a b : BitVec 5) (t : BitVec 4) : t.toNat ≤ 7 → CommandForm (.xconv d a b t) 1 d a b t
  | xzip (d a b : BitVec 5) (t : BitVec 4) : t.toNat ≤ 7 → CommandForm (.xzip d a b t) 2 d a b t
  | xexp (d a b : BitVec 5) (t : BitVec 4) : t.toNat ≤ 7 → CommandForm (.xexp d a b t) 3 d a b t
  | xfmt (d a b : BitVec 5) (t : BitVec 4) : t.toNat ≤ 7 → CommandForm (.xfmt d a b t) 4 d a b t
  | xtile (d a b : BitVec 5) (t : BitVec 4) : 4 ≤ t.toNat → t.toNat ≤ 7 → CommandForm (.xtile d a b t) 5 d a b t
  | xput (d a b : BitVec 5) (t : BitVec 4) : 8 ≤ t.toNat → t.toNat ≤ 9 → CommandForm (.xput d a b t) 6 d a b t
  | xget (d a b : BitVec 5) (t : BitVec 4) : 8 ≤ t.toNat → t.toNat ≤ 9 → CommandForm (.xget d a b t) 7 d a b t

/-- The instruction is a Barchan instruction that waits for its result (16_kv.md R414), with the operation, the alignment of
sB, the destination field and the two operands. -/
inductive BarchanForm (s : State) : Instr → KvOp → Nat → BitVec 5 → Word → Word → Prop
  | pfxmatch (d a b : BitVec 5) : BarchanForm s (.pfxmatch d a b) .pfxmatch 4 d (s.rd a) (s.rd b)
  | pfxins (d a b : BitVec 5) : BarchanForm s (.pfxins d a b) .pfxins 4 d (s.rd a) (s.rd b)
  | pfxrel (d a b : BitVec 5) : BarchanForm s (.pfxrel d a b) .pfxrel 1 d (s.rd a) (s.rd b)
  | kvalloc (d a b : BitVec 5) : BarchanForm s (.kvalloc d a b) .kvalloc 1 d (s.rd a) (s.rd b)
  | kvcommit (d a b : BitVec 5) : BarchanForm s (.kvcommit d a b) .kvcommit 1 d (s.rd a) (s.rd b)
  | kvreject (d a : BitVec 5) : BarchanForm s (.kvreject d a) .kvreject 1 d (s.rd a) 0
  | kvcompact (d a b : BitVec 5) : BarchanForm s (.kvcompact d a b) .kvcompact 4 d (s.rd a) (s.rd b)

/-- The event is the arrival of a datagram at a port, for packets of a type (18_platform.md R461, R464, R465). -/
inductive PacketForm : Instr → Nat → BitVec 1 → List Byte → Prop
  | write (p : BitVec 1) (g : List Byte) : PacketForm (.write p g) 0 p g
  | writeSync (p : BitVec 1) (g : List Byte) : PacketForm (.writeSync p g) 1 p g
  | read (p : BitVec 1) (g : List Byte) : PacketForm (.read p g) 2 p g
  | readSync (p : BitVec 1) (g : List Byte) : PacketForm (.readSync p g) 3 p g
  | dataPacket (p : BitVec 1) (g : List Byte) : PacketForm (.dataPacket p g) 4 p g
  | ack (p : BitVec 1) (g : List Byte) : PacketForm (.ack p g) 5 p g
  | nak (p : BitVec 1) (g : List Byte) : PacketForm (.nak p g) 6 p g
  | putPacket (p : BitVec 1) (g : List Byte) : PacketForm (.putPacket p g) 7 p g
  | getPacket (p : BitVec 1) (g : List Byte) : PacketForm (.getPacket p g) 8 p g

/-! ### Barchan's structures in low memory (16_kv.md R405 to R412) -/

/-- n bytes of low memory, below every pool of the statements. -/
abbrev LowRange (a n : Nat) : Prop := a + n ≤ 2 ^ 36

/-- Two ranges of bytes have none in common. -/
abbrev ApartRanges (a n b m : Nat) : Prop := a + n ≤ b ∨ b + m ≤ a

/-- Of some ranges, each is apart from every later one. -/
abbrev AllApart (rs : List (Nat × Nat)) : Prop := rs.Pairwise (fun x y => ApartRanges x.1 x.2 y.1 y.2)

/-- 8-byte word k of a structure. -/
def State.kvWord (s : State) (a k : Nat) : Nat := s.num (a + 8 * k) 8

/-- The pool base and the block size of layer group g of the cache at ca (16_kv.md R405, R406). -/
def State.kvGroup (s : State) (ca g : Nat) : Nat × Nat :=
  (s.kvWord (s.kvWord ca 1 + 16 * g) 0, 16384 * 2 ^ s.kvWord (s.kvWord ca 1 + 16 * g) 1)

/-- The place of an id's block word (16_kv.md R407). -/
def State.kvBlock (s : State) (ca b : Nat) : Nat := s.kvWord ca 2 + 8 * b

/-- The id in table entry j of the sequence at sq (16_kv.md R409). -/
def State.kvEntry (s : State) (sq j : Nat) : Nat := s.num (s.kvWord sq 1 + 4 * j) 4 % 2 ^ 24

/-- The cache at ca: valid, in low memory with its group table, and its pools from 2^36 on (16_kv.md R405, R406). -/
structure KvCacheAt (s : State) (ca : Nat) : Prop where
  place : ca % 64 = 0 ∧ LowRange ca 128
  valid : Cache.ok ⟨BitVec.ofNat 64 ca, (upto 0 16).map (s.kvWord ca), []⟩ = true
  table : LowRange (s.kvWord ca 1) (16 * (s.kvWord ca 0 / 2 ^ 25 % 2 ^ 6 + 1))
  groups : ∀ g, g ≤ s.kvWord ca 0 / 2 ^ 25 % 2 ^ 6 → 2 ^ 36 ≤ (s.kvGroup ca g).1 ∧ (s.kvGroup ca g).1 % 65536 = 0 ∧
    s.kvWord (s.kvWord ca 1 + 16 * g) 1 ≤ 4

/-- The sequence at sq: valid, in low memory, and its cache apart from it (16_kv.md R409). -/
structure KvSequenceAt (s : State) (sq : Nat) : Prop where
  place : sq % 64 = 0 ∧ LowRange sq 64
  valid : Sequence.ok ⟨BitVec.ofNat 64 sq, (upto 0 8).map (s.kvWord sq)⟩ = true
  cache : KvCacheAt s (s.kvWord sq 0)
  apart : ApartRanges sq 64 (s.kvWord sq 0) 128

/-- The first n entries of the table, and the words of the blocks they name, lie in low memory apart from each other and from both
descriptors, and the words have no reserved bit (16_kv.md R407, R409). -/
structure KvTableAt (s : State) (sq n : Nat) : Prop where
  table : LowRange (s.kvWord sq 1) (4 * n) ∧ ApartRanges (s.kvWord sq 1) (4 * n) sq 64 ∧
    ApartRanges (s.kvWord sq 1) (4 * n) (s.kvWord sq 0) 128
  blocks : ∀ j, j < n → let b := s.kvBlock (s.kvWord sq 0) (s.kvEntry sq j)
    LowRange b 8 ∧ ApartRanges b 8 sq 64 ∧ ApartRanges b 8 (s.kvWord sq 0) 128 ∧
      ApartRanges b 8 (s.kvWord sq 1) (4 * n) ∧ s.num b 8 / 2 ^ 58 = 0

/-- The pools of the cache at ca lie on the first die from 2^36 on, apart from each other, and all of their units are resident,
by location words in low memory apart from some ranges (16_kv.md R406, R433). -/
structure KvPoolsAt (s : State) (ca : Nat) (rs : List (Nat × Nat)) : Prop where
  pools : ∀ g, g ≤ s.kvWord ca 0 / 2 ^ 25 % 2 ^ 6 →
    (s.kvGroup ca g).1 + s.kvWord ca 0 % 2 ^ 25 * (s.kvGroup ca g).2 ≤ 2 ^ 37 ∧
    ∀ g', g' < g → ApartRanges (s.kvGroup ca g).1 (s.kvWord ca 0 % 2 ^ 25 * (s.kvGroup ca g).2)
      (s.kvGroup ca g').1 (s.kvWord ca 0 % 2 ^ 25 * (s.kvGroup ca g').2)
  resident : ∀ u, u < s.kvWord ca 0 % 2 ^ 25 → LowRange (s.kvWord ca 7 + 8 * u) 8 ∧ s.kvWord (s.kvWord ca 7) u = 0 ∧
    ∀ r ∈ rs, ApartRanges (s.kvWord ca 7 + 8 * u) 8 r.1 r.2

/-- The words of the blocks of a cache, and its free list (16_kv.md R405, R407). -/
structure FreeIds where
  word : Nat → Nat
  head : Nat
  count : Nat

/-- Those of the cache at ca. -/
def State.kvFree (s : State) (ca : Nat) : FreeIds :=
  ⟨fun b => s.num (s.kvBlock ca b) 8, s.num (ca + 24) 4, s.num (ca + 28) 4⟩

/-- Decrement(b) (16_kv.md R407). -/
def FreeIds.decrement (f : FreeIds) (b : Nat) : FreeIds :=
  if f.word b % 2 ^ 32 = 0 then f
  else if 1 < f.word b % 2 ^ 32 then { f with word := fun c => if c = b then f.word b - 1 else f.word c }
  else ⟨fun c => if c = b then f.head * 2 ^ 32 else f.word c, b, f.count + 1⟩

/-- Pop with rc := 1 and tent := 0 (16_kv.md R407, R431). -/
def FreeIds.popped (f : FreeIds) : FreeIds :=
  ⟨fun c => if c = f.head then f.word c / 2 ^ 32 % 2 ^ 25 * 2 ^ 32 + 1 else f.word c, f.word f.head / 2 ^ 32 % 2 ^ 25, f.count - 1⟩

/-- The words of the blocks of the first n entries of the sequence's table, and the free list, are those of f. -/
def KvFreeIs (s x : State) (sq n : Nat) (f : FreeIds) : Prop :=
  (∀ j, j < n → x.num (s.kvBlock (s.kvWord sq 0) (s.kvEntry sq j)) 8 = f.word (s.kvEntry sq j)) ∧
    x.num (s.kvWord sq 0 + 24) 4 = f.head ∧ x.num (s.kvWord sq 0 + 28) 4 = f.count

/-- The locations of the words of the blocks of the first n entries, and of the free list. -/
def State.kvFreePlaces (s : State) (sq n : Nat) : List Nat :=
  upto (s.kvWord sq 0 + 24) 8 ++ (upto 0 n).flatMap (fun j => upto (s.kvBlock (s.kvWord sq 0) (s.kvEntry sq j)) 8)

/-- The sequence has nb entries, nt of them tentative, and the committed length lc (16_kv.md R409). -/
def SequenceIs (s x : State) (sq nb lc nt : Nat) : Prop :=
  x.num (sq + 16) 4 = s.num (sq + 16) 4 ∧ x.num (sq + 20) 4 = nb ∧ x.num (sq + 24) 4 = lc ∧ x.num (sq + 28) 4 = nt

/-- The hash of the 64 tokens in the bytes at a (16_kv.md R411). -/
def State.kvHash (s : State) (a : Nat) : BitVec 32 :=
  (List.range 64).foldl (fun h j => h ^^^ (BitVec.ofNat 32 (s.num (a + 4 * j) 4) * 0x9E3779B1#32).rotateLeft (j % 32)) 0

/-- Node i of a cache stands in low memory, with no reserved bit; so does its key (16_kv.md R411). -/
structure KvNodeAt (s : State) (ca i : Nat) : Prop where
  node : LowRange (s.kvWord ca 4 + 64 * i) 64
  key : LowRange (s.kvWord ca 5 + 256 * i) 256
  sound : s.num (s.kvWord ca 4 + 64 * i) 4 / 2 ^ 25 = 0 ∧ ∀ k, 32 ≤ k → k < 64 → s.byte (s.kvWord ca 4 + 64 * i + k) = 0

/-- Node i matches the tokens at a (16_kv.md R411). -/
def State.kvMatches (s : State) (ca i a : Nat) : Prop :=
  s.num (s.kvWord ca 4 + 64 * i + 4) 4 = (s.kvHash a).toNat ∧ ∀ k, k < 256 → s.byte (s.kvWord ca 5 + 256 * i + k) = s.byte (a + k)

/-- The oldest Barchan operation is o, of the firmware: nothing is hidden from it and nothing that it waits for is due (16_kv.md R415,
11_sync.md R301). -/
structure KvOldest (s : State) (o : BarOp) : Prop where
  oldest : s.kv.barOps.head? = some o
  firmware : o.level = .firmware ∧ o.root = none
  plain : o.view = [] ∧ o.behind = 0 ∧ s.memory.poison = []

/-- The oldest operation, of number n, ends with the result r and in a state x with Q; the instruction that waits is handed the result
(16_kv.md R414). -/
def KvEnds (s : State) (n : Nat) (r : Int) (Q : State → Prop) : Prop :=
  ∃ x, exec .barchanOperation s = .next x ∧ Q x ∧ x.kv.barResults = s.kv.barResults ++ [(n, BitVec.ofInt 64 r)] ∧ x.regs = s.regs

/-- The oldest operation, step n of a `kvappend`, ends in a state x with Q; it hands on no result (16_kv.md R424). -/
def KvSteps (s : State) (n : Nat) (Q : State → Prop) : Prop :=
  ∃ x, exec .barchanOperation s = .next x ∧ Q x ∧ x.kv.barResults = s.kv.barResults ∧ x.kv.tc10 = BitVec.ofNat 64 n ∧ x.regs = s.regs

end Sys2Proof.Machine
end

