-- ==== Sys2Proof/Certificates/Slice0/Obligations.lean ====
section
/-!
DEFINITION. The statements for the provers.
-/

open Sys2Proof Sys2Proof.Machine

/-! ### The machine -/

/-- What reset leaves (17_system.md R437, R441, R452, R458; 18_platform.md R469, R477; 07_lanes.md R185, R189; 10_matrix.md
R260 to R262; 06_memory.md R175): the values the spec gives. The core is halted. That the loop stack is empty and that the core holds no
activation is the model's choice (log 1). -/
def Obligations.ResetLeavesStatedValues : Prop :=
  State.reset.mode = .halted ∧
  (∀ n, mapGet State.reset.kbank n = 0 ∧ mapGet State.reset.fbank n = 0) ∧
  csrRead State.reset 0x403 = 0 ∧ csrRead State.reset 0x404 = 0 ∧ csrRead State.reset 0x050 = 0 ∧
  State.reset.ctl.tcmp = BitVec.allOnes 64 ∧
  csrRead State.reset 0x220 = 0 ∧ csrRead State.reset 0x221 = 0 ∧
  csrRead State.reset 0x222 = 0x48 ∧ csrRead State.reset 0x223 = 0x48 ∧ csrRead State.reset 0x224 = 0x48 ∧
  csrRead State.reset 0x225 = 256 + 256 * 65536 ∧
  State.reset.ctl.spl = 4 ∧ csrRead State.reset 0x021 = 4 ∧
  State.reset.hub.plim = 1900 ∧ State.reset.hub.gcap = 256 ∧
  csrRead State.reset 0x024 = 0 ∧ csrRead State.reset 0x025 = 0 ∧
  (∀ t k, mapGet (State.reset.tile t).elem k = 0 ∧ (State.reset.tile t).colScale k = 0x3F800000 ∧
    ∀ q, (State.reset.tile t).colExp k q = 0) ∧
  (∀ t, (State.reset.tile t).entries = [] ∧ (State.reset.tile t).overflow = 0) ∧
  State.reset.loops = [] ∧ State.reset.sched.act = none

/-- The state after reset meets the two invariants that every step keeps: memory in its canonical form (the model's own
form of it, log 3), and a legal vector configuration (07_lanes.md R186, R191). -/
def Obligations.ResetMeetsInvariants : Prop :=
  (State.reset.memory.wf = true) ∧
  (LanesLegal State.reset)

/-- Every step keeps memory in its canonical form: addresses strictly rising, no listed byte zero (the model's own form of
memory, log 3). -/
def Obligations.StepKeepsMemoryCanonical : Prop :=
  ∀ s t, s.memory.wf = true → step s = .next t → t.memory.wf = true

/-- Every step keeps the vector configuration legal: `vl` at most VLMAX, the widths among those listed (07_lanes.md R186,
R191, R192). -/
def Obligations.StepKeepsVectorConfigurationLegal : Prop :=
  ∀ s t, LanesLegal s → step s = .next t → LanesLegal t

/-- Decoding the encoding of a well-formed instruction gives the instruction (02_encoding.md R39 to R44); every well-formed
instruction that is no event has an encoding, of 32 bits, and an event has none. -/
def Obligations.DecodeOfEncodeIsIdentity : Prop :=
  (∀ i w, i.wf = true → encode i = some w → decode w = some i) ∧
  (∀ i, i.wf = true → i.isEvent = false → ∃ w, encode i = some w ∧ w < 2 ^ 32 ∧ decode w = some i) ∧
  (∀ i, i.isEvent = true → encode i = none)

/-- A 32-bit word that decodes is the encoding of what it decodes to, and that is well-formed: no two words are one
instruction, and every reserved field of a word that decodes is zero (02_encoding.md R41, R45). Every word that a repeat
frame or the strip threads accept decodes (02_encoding.md R55, 04_control.md R110). -/
def Obligations.EncodeOfDecodeIsIdentity : Prop :=
  (∀ i w, w < 2 ^ 32 → decode w = some i → encode i = some w ∧ i.wf = true) ∧
  (∀ w, w < 2 ^ 32 → (frameWordOk w = true ∨ stripWordOk w = true) → (decode w).isSome = true)

/-- Words written out from the spec: the examples of 03_scalar.md (R76), 04_control.md (R104), 17_system.md (R446) and
02_encoding.md (R60), and hints and a repeat frame by their fields (R47, R54), decode to the instructions they stand for;
`nop` is one word (R53), and the words of all zeros and all ones are illegal (R45). -/
def Obligations.ExampleWordsDecode : Prop :=
  decode 0x140C02C7 = some (.ihz 11 0 0x140C) ∧
  decode 0x00AB5304 = some (.bfxu 12 10 11) ∧
  decode 0x000E6343 = some (.mul 13 12 14) ∧
  decode 0x000F6B41 = some (.add 13 13 15) ∧
  decode 0x04466C02 = some (.shrai 16 13 8) ∧
  decode 0x0005924F = some (.loopr 9 11) ∧
  decode 0x0000428F = some (.lidx 10 0) ∧
  decode 0xFFF052C2 = some (.addi 11 10 (-2)) ∧
  decode 0x001D0ACC = some (.bgeu 11 1 3) ∧
  decode 0x00021B49 = some (.sw 13 3 0) ∧
  decode 0x002018C2 = some (.addi 3 3 4) ∧
  decode 0x00021308 = some (.lw 12 2 0) ∧
  decode 0x00001817 = some (.trap 3) ∧
  decode 0x00200017 = some .tret ∧
  decode 0x008B5257 = some (.tlbinv 9 10 11) ∧
  decode 0x00A05017 = some (.ctxsave 10) ∧
  decode 0x01000017 = some .halt ∧
  decode 0x01C0C07F = some (.rpt 0 3 7 0 0) ∧
  decode 0x29C0007F = some (.rpt 0 0 7 0 5) ∧
  decode 0x0000143E = some (.hint 5) ∧
  decode 0x00020C7E = some (.pfch 3 4) ∧
  decode 0xFFFF84BE = some (.pfl2 1 (-1)) ∧
  decode 0x000000FE = some (.hintKind 3 0) ∧
  decode 0x3F = some .nop ∧
  decode 0 = none ∧ decode 0xFFFFFFFF = none

/-- A step runs the instruction that the word at the program counter decodes to. When nothing else is due and no repeat
frame, strip threads or tile task drive the sequencer, the step is the instruction's meaning in the state after its fetch,
and then one cycle has passed: that each step is one cycle is the model's choice (log 7). A repeat frame whose buffer is
captured makes the step run its body word p with the stagger of replay j (02_encoding.md R56), and strip threads make it run
the word of the thread in hand; neither drives a handler (R59, 04_control.md R115). A misaligned program counter fetches
nothing: the misalignment trap is reported at the instruction that produced it (R38). What counts as due, and in which order,
is the model's (log 6). -/
def Obligations.StepRunsDecodedInstruction : Prop :=
  (∀ s h i, Quiet s →
     let u : State := { s with commit := none }
     ¬(u.strip.live = true ∧ u.strip.level = u.level ∧ u.strip.held = 0) →
     ¬(u.frame.live = true ∧ u.frame.level = u.level ∧ u.frame.held = 0) →
     u.inTask = false → u.pc.toNat % 4 = 0 → translate u .fetch u.pc = .ok h →
     firstPoison u u.pc (upto h.loc 4) = none → decode (u.num h.loc 4) = some i →
     step s = ticked (exec i { markLeaf u h false with source := u.pc })) ∧
  (∀ s i, Quiet s → s.strip.live = false → s.frame.live = true → s.frame.captured = true → s.frame.level = s.level →
     s.frame.held = 0 → s.pc.toNat % 4 = 0 →
     decode (stagger s.frame.head.toNat (s.frame.body.getD s.frame.p.toNat 0).toNat s.frame.j.toNat) = some i →
     step s = ticked (exec i { s with commit := none, source := s.pc })) ∧
  (∀ s i, Quiet s → s.inStrip = true → s.strip.held = 0 → s.thread < 256 → s.pc.toNat % 4 = 0 →
     decode (s.strip.body.getD (s.stripPos s.thread) 0).toNat = some i →
     step s = ticked (exec i { s with commit := none, source := s.pc })) ∧
  (∀ s, Quiet s → s.inTask = false → s.level = .program → s.pc.toNat % 4 ≠ 0 →
     step s = ticked (.next (kernelEntry { s with commit := none } { code := 6, epc := some s.source, eaddr := s.pc })))

/-- No instruction and no event ends the machine: every meaning answers a next state, and a step answers one whenever the
machine has power (18_platform.md R472 is the one rule that removes it). -/
def Obligations.OnlyLostPowerStops : Prop :=
  (∀ i s, ∃ t, exec i s = .next t) ∧
  (∀ s, s.hub.powered = true → SafeStep s)

/-! ### Registers and sequencing -/

/-- s0 reads as zero and a write to it is discarded; every other register reads what was written last (03_scalar.md R62).
The names s24 to s29 select one of four banks, and every other scalar register is shared by all levels (17_system.md
R437): a value written at one level is read at another exactly when both levels name the same storage. -/
def Obligations.RegisterFileBehaviour : Prop :=
  ((∀ s : State, s.rd 0 = 0) ∧ (∀ (s : State) v, s.wr 0 v = s) ∧
   ∀ (s : State) r q v, r ≠ 0 → (s.wr r v).rd q = if q = r then v else s.rd q) ∧
  (∀ (s : State) (r : BitVec 5) v (l : Level) (act : BitVec 17), r ≠ 0 →
     let u := { s.wr r v with level := l, ctl.ustat := act }
     let before := { s with level := l, ctl.ustat := act }
     (24 ≤ r.toNat ∧ r.toNat ≤ 29) →
       (l ≠ s.level ∨ (l = .program ∧ act.getLsbD 16 ≠ s.ctl.ustat.getLsbD 16) → u.rd r = before.rd r) ∧
       (l = s.level ∧ (l = .program → act.getLsbD 16 = s.ctl.ustat.getLsbD 16) → u.rd r = v)) ∧
  (∀ (s : State) (r : BitVec 5) v (l : Level) (act : BitVec 17), r ≠ 0 → (r.toNat < 24 ∨ 29 < r.toNat) →
     ({ s.wr r v with level := l, ctl.ustat := act } : State).rd r = v)

/-- A committed instruction that redirects nothing goes on at the next address; at the end of a counted hardware loop it goes
back to the start while iterations remain, and past the end, popping the entry, when none do (04_control.md R97). A body word
of a repeat frame leads to the next one, the last one of a replay to the first of the next replay, and the last of all past
the frame (02_encoding.md R56, R60). At the end of a loop over per-element trip counts m7 is computed anew for the next
index, and the body starts again while it holds an element (04_control.md R102). A word of a strip thread leads that thread
to its next position and leaves the others where they are (R111, R113); that the thread in hand is the lowest which has not
arrived is the model's choice among orders that R113 says give one result, and that `instret` counts each word once for each
thread that executes it is the model's choice too (03_scalar.md R85, log 37). -/
def Obligations.SequencingAfterCommit : Prop :=
  ((∀ s : State, s.straight → (retire s).pc = s.pc + 4 ∧ (retire s).loops = s.loops ∧ (retire s).frame = s.frame ∧
     (retire s).strip = s.strip ∧ (retire s).instret = s.instret + 1) ∧
   (∀ (s : State) e rest, s.inFrame = false → s.inStrip = false → s.loops = e :: rest → e.last = s.pc →
     e.kind = .counted → e.index.toNat + 1 < e.arg.toNat →
       (retire s).pc = e.start ∧ (retire s).loops = { e with index := e.index + 1 } :: rest ∧
       (retire s).commit = some .boundary) ∧
   (∀ (s : State) e rest, s.inFrame = false → s.inStrip = false → s.loops = e :: rest → e.last = s.pc →
     e.kind = .counted → e.arg.toNat ≤ e.index.toNat + 1 →
       (retire s).pc = e.last + 4 ∧ (retire s).loops = rest ∧ (retire s).commit = some .boundary) ∧
   (∀ (s : State) e rest, s.inFrame = false → s.inStrip = false → s.loops = e :: rest → e.last = s.pc →
     e.kind = .vector → e.arg.toNat < 64 →
       let loops_ := fun i => i < s.lanes.vl.toNat ∧ e.index.toNat + 1 < tripCount s e.arg.toNat i
       (∀ i, i < 262144 → mapGet (retire s).lanes.mask (7 * 262144 + i) =
         if s.vlmax ≤ i then mapGet s.lanes.mask (7 * 262144 + i) else if loops_ i then 1#1 else 0#1) ∧
       ((∃ i, i < s.vlmax ∧ loops_ i) →
         (retire s).pc = e.start ∧ (retire s).loops = { e with index := e.index + 1 } :: rest) ∧
       ((∀ i, i < s.vlmax → ¬ loops_ i) → (retire s).pc = e.last + 4 ∧ (retire s).loops = rest) ∧
       (retire s).commit = some .boundary ∧ (retire s).regs = s.regs ∧ (retire s).memory = s.memory ∧
       (∀ k, k < 7 * 262144 → mapGet (retire s).lanes.mask k = mapGet s.lanes.mask k))) ∧
  (∀ s : State, s.inFrame = false → s.inStrip = true → s.thread < 256 → s.stripPos s.thread < 255 →
     let u := retire s
     u.stripPos s.thread = s.stripPos s.thread + 1 ∧ (∀ k, k ≠ s.thread → u.stripPos k = s.stripPos k) ∧
     u.pc = s.pc ∧ u.loops = s.loops ∧ u.commit = some .plain ∧ u.instret = s.instret + 1 ∧
     (s.stripPos s.thread + 1 ≠ s.strip.len.toNat → u.thread = s.thread) ∧
     (s.stripPos s.thread + 1 = s.strip.len.toNat →
       (∀ k, s.thread < k → k < 256 → s.stripPos k ≠ s.strip.len.toNat →
         (∀ j, s.thread < j → j < k → s.stripPos j = s.strip.len.toNat) → u.thread = k) ∧
       ((∀ k, s.thread < k → k < 256 → s.stripPos k = s.strip.len.toNat) → u.thread = 256))) ∧
  (∀ s : State, s.inFrame = true →
     (s.frame.p.toNat + 1 < s.frame.body.length → s.frame.p ≠ 15 →
       (retire s).pc = s.pc + 4 ∧ (retire s).frame.p.toNat = s.frame.p.toNat + 1 ∧ (retire s).frame.j = s.frame.j ∧
       (retire s).frame.live = true) ∧
     (s.frame.p.toNat + 1 = s.frame.body.length → s.frame.j.toNat + 1 < s.frame.n.toNat →
       (retire s).pc = s.pc - BitVec.ofNat 64 (4 * s.frame.p.toNat) ∧ (retire s).frame.p = 0 ∧
       (retire s).frame.j.toNat = s.frame.j.toNat + 1 ∧ (retire s).commit = some .boundary) ∧
     (s.frame.p.toNat + 1 = s.frame.body.length → s.frame.n.toNat ≤ s.frame.j.toNat + 1 →
       (retire s).pc = s.pc + 4 ∧ (retire s).frame = Frame.none))

/-! ### Scalar arithmetic -/

/-- The register operations write what the table of 03_scalar.md R67 says, and the immediate operations and constant
builders what R68 to R72 say, for every operand, and commit. -/
def Obligations.ScalarOperationResults : Prop :=
  (∀ (s : State) (d a b : BitVec 5),
     let x := s.rd a
     let y := s.rd b
     let n := y.toNat % 256
     exec (.add d a b) s = .next (retire (s.wr d (BitVec.ofInt 64 (x.toInt + y.toInt)))) ∧
     exec (.sub d a b) s = .next (retire (s.wr d (BitVec.ofInt 64 (x.toInt - y.toInt)))) ∧
     exec (.and d a b) s = .next (retire (s.wr d (x &&& y))) ∧
     exec (.or d a b) s = .next (retire (s.wr d (x ||| y))) ∧
     exec (.xor d a b) s = .next (retire (s.wr d (x ^^^ y))) ∧
     exec (.andn d a b) s = .next (retire (s.wr d (x &&& ~~~y))) ∧
     exec (.shl d a b) s = .next (retire (s.wr d (BitVec.ofNat 64 (x.toNat * 2 ^ n)))) ∧
     exec (.shrl d a b) s = .next (retire (s.wr d (BitVec.ofNat 64 (x.toNat / 2 ^ n)))) ∧
     exec (.shra d a b) s = .next (retire (s.wr d (BitVec.ofInt 64 (x.toInt.fdiv (2 ^ n))))) ∧
     exec (.cmplt d a b) s = .next (retire (s.wr d (if x.toInt < y.toInt then 1 else 0))) ∧
     exec (.cmpltu d a b) s = .next (retire (s.wr d (if x.toNat < y.toNat then 1 else 0))) ∧
     exec (.min d a b) s = .next (retire (s.wr d (BitVec.ofInt 64 (min x.toInt y.toInt)))) ∧
     exec (.max d a b) s = .next (retire (s.wr d (BitVec.ofInt 64 (max x.toInt y.toInt)))) ∧
     exec (.minu d a b) s = .next (retire (s.wr d (BitVec.ofNat 64 (min x.toNat y.toNat)))) ∧
     exec (.maxu d a b) s = .next (retire (s.wr d (BitVec.ofNat 64 (max x.toNat y.toNat)))) ∧
     exec (.cmpeq d a b) s = .next (retire (s.wr d (if x = y then 1 else 0)))) ∧
  ((∀ (s : State) (d a : BitVec 5) (k : BitVec 13),
     let x := s.rd a
     exec (.addi d a k) s = .next (retire (s.wr d (BitVec.ofInt 64 (x.toInt + k.toInt)))) ∧
     exec (.cmplti d a k) s = .next (retire (s.wr d (if x.toInt < k.toInt then 1 else 0))) ∧
     exec (.cmpltiu d a k) s = .next (retire (s.wr d (if x.toNat < (BitVec.ofInt 64 k.toInt).toNat then 1 else 0))) ∧
     exec (.andi d a k) s = .next (retire (s.wr d (x &&& BitVec.ofInt 64 k.toInt))) ∧
     exec (.ori d a k) s = .next (retire (s.wr d (x ||| BitVec.ofInt 64 k.toInt))) ∧
     exec (.xori d a k) s = .next (retire (s.wr d (x ^^^ BitVec.ofInt 64 k.toInt))) ∧
     exec (.cmpeqi d a k) s = .next (retire (s.wr d (if x = BitVec.ofInt 64 k.toInt then 1 else 0)))) ∧
   (∀ (s : State) (d a : BitVec 5) (n : BitVec 6),
     let x := s.rd a
     exec (.shli d a n) s = .next (retire (s.wr d (BitVec.ofNat 64 (x.toNat * 2 ^ n.toNat)))) ∧
     exec (.shrli d a n) s = .next (retire (s.wr d (BitVec.ofNat 64 (x.toNat / 2 ^ n.toNat)))) ∧
     exec (.shrai d a n) s = .next (retire (s.wr d (BitVec.ofInt 64 (x.toInt.fdiv (2 ^ n.toNat)))))) ∧
   (∀ (s : State) (d : BitVec 5) (k : BitVec 21),
     exec (.lhi d k) s = .next (retire (s.wr d (BitVec.ofInt 64 (k.toInt * 8192)))) ∧
     exec (.pcrel d k) s = .next (retire (s.wr d (BitVec.ofInt 64 (s.pc.toInt + k.toInt * 8192))))) ∧
   (∀ (s : State) (d : BitVec 5) (h : BitVec 2) (k : BitVec 16),
     let q := 16 * h.toNat
     let old := (s.rd d).toNat
     exec (.ihz d h k) s = .next (retire (s.wr d (BitVec.ofNat 64 (k.toNat * 2 ^ q)))) ∧
     exec (.ihk d h k) s =
       .next (retire (s.wr d (BitVec.ofNat 64 (old - old / 2 ^ q % 2 ^ 16 * 2 ^ q + k.toNat * 2 ^ q)))) ∧
     exec (.ihs d h k) s = .next (retire (s.wr d (BitVec.ofInt 64 (k.toInt * 2 ^ q))))))

/-- Multiplication and division (03_scalar.md R74): the products, and for a nonzero divisor the quotient and remainder
that satisfy q × b + r = a with r between 0 and b; for a zero divisor 0 and the dividend. Bit counts (R75), described by
the bits of the operand. Bit fields (R76), clipped at bit 63. -/
def Obligations.MultiplyDivideAndBitResults : Prop :=
  (∀ (s : State) (d a b : BitVec 5),
     let x := s.rd a
     let y := s.rd b
     exec (.mul d a b) s = .next (retire (s.wr d (BitVec.ofInt 64 (x.toInt * y.toInt)))) ∧
     exec (.mulhSs d a b) s = .next (retire (s.wr d (BitVec.ofInt 64 ((x.toInt * y.toInt).fdiv (2 ^ 64))))) ∧
     exec (.mulhUu d a b) s = .next (retire (s.wr d (BitVec.ofNat 64 (x.toNat * y.toNat / 2 ^ 64)))) ∧
     exec (.mulhSu d a b) s = .next (retire (s.wr d (BitVec.ofInt 64 ((x.toInt * (y.toNat : Int)).fdiv (2 ^ 64))))) ∧
     (∃ q r : Int, q * y.toInt + r = x.toInt ∧ (y.toInt = 0 → q = 0) ∧ (0 < y.toInt → 0 ≤ r ∧ r < y.toInt) ∧
       (y.toInt < 0 → y.toInt < r ∧ r ≤ 0) ∧
       exec (.divs d a b) s = .next (retire (s.wr d (BitVec.ofInt 64 q))) ∧
       exec (.mods d a b) s = .next (retire (s.wr d (BitVec.ofInt 64 r)))) ∧
     (∃ q r : Nat, q * y.toNat + r = x.toNat ∧ (y.toNat = 0 → q = 0) ∧ (0 < y.toNat → r < y.toNat) ∧
       exec (.divu d a b) s = .next (retire (s.wr d (BitVec.ofNat 64 q))) ∧
       exec (.modu d a b) s = .next (retire (s.wr d (BitVec.ofNat 64 r))))) ∧
  (∀ (s : State) (d a : BitVec 5),
     let x := s.rd a
     (∃ n : Nat, n ≤ 64 ∧ x.toNat < 2 ^ (64 - n) ∧ (n < 64 → x.getLsbD (63 - n) = true) ∧
       exec (.clz d a) s = .next (retire (s.wr d (BitVec.ofNat 64 n)))) ∧
     (∃ n : Nat, n ≤ 64 ∧ (∀ k, k < n → x.getLsbD k = false) ∧ (n < 64 → x.getLsbD n = true) ∧
       exec (.ctz d a) s = .next (retire (s.wr d (BitVec.ofNat 64 n)))) ∧
     exec (.cpop d a) s = .next (retire (s.wr d (BitVec.ofNat 64 ((List.range 64).countP (fun k => x.getLsbD k))))) ∧
     (∃ v : Word, (∀ k, k < 64 → v.getLsbD k = x.getLsbD (63 - k)) ∧
       exec (.brev d a) s = .next (retire (s.wr d v)))) ∧
  (∀ (s : State) (d a b : BitVec 5),
     let x := (s.rd a).toNat
     let old := (s.rd d).toNat
     let pos := (s.rd b).toNat % 64
     let len := (s.rd b).toNat / 256 % 128
     let e := min len (64 - pos)
     let f := x / 2 ^ pos % 2 ^ e
     exec (.bfx d a b) s = .next (retire (s.wr d
       (BitVec.ofInt 64 (if e = 0 then 0 else if f < 2 ^ (e - 1) then (f : Int) else (f : Int) - (2 : Int) ^ e)))) ∧
     exec (.bfxu d a b) s = .next (retire (s.wr d (BitVec.ofNat 64 f))) ∧
     exec (.bfi d a b) s = .next (retire (s.wr d
       (BitVec.ofNat 64 (old - old / 2 ^ pos % 2 ^ e * 2 ^ pos + x % 2 ^ e * 2 ^ pos)))))

/-- The frame of scalar arithmetic: every scalar register but the destination, every byte of memory, every CSR but `instret`,
all of the lanes but m7 at the back edge of a vector loop, the activation, its commands and the scheduler but the present bit
of that m7, and all trap, control-block, Barchan and hub state is as before. The instruction pointer state may change. -/
def Obligations.ScalarArithmeticFrame : Prop :=
  ∀ i d s t, ScalarInto i d → exec i s = .next t →
    KeptRegs [d] s t ∧ KeptBytes s t ∧ t.memory = s.memory ∧ KeptCsrs [0x051] s t ∧ KeptLanes s t ∧ KeptSystem s t ∧
      KeptSched s t

/-! ### Control and status registers -/

/-- A CSR that the level may read is read by `crd`; one that it may write is written by the six writing forms, and the
destination receives the old value (03_scalar.md R80, R82). A write of `instret` does so too, commits, and sets the count
before the next instruction (R85). At every level an instruction is illegal, and has no other effect, when its register is not
in the index or belongs to a higher level, and a writing one also when the register is read-only there (R77, R79, R80); the
trap enters the kernel or, at firmware level and inside a handler, the firmware (17_system.md R442, R443). -/
def Obligations.CsrInstructionResult : Prop :=
  (∀ (s : State) (d : BitVec 5) (c : BitVec 12), csrListed c.toNat = true → csrLevel c.toNat ≤ s.level.code →
     exec (.crd d c) s = .next (retire (s.wr d (csrRead s c.toNat)))) ∧
  (∀ (s : State) i d c v, CsrWriter s i d c v → csrWritable s c.toNat = true → c ≠ 0x051 →
     exec i s = .next (retire ((csrWrite s c.toNat v).wr d (csrRead s c.toNat)))) ∧
  (∀ (s : State) i d v, CsrWriter s i d 0x051 v → s.level ≠ .program →
     exec i s = .next { retire (s.wr d (csrRead s 0x051)) with instret := v }) ∧
  (∀ (s : State) (c : BitVec 12),
     let illegal_ := fun i => (s.kernelTakes → exec i s = .next (kernelEntry s { code := 1 })) ∧
       (¬ s.kernelTakes → exec i s = .next (firmwareEntry s { code := 1 }))
     (csrListed c.toNat = false ∨ s.level.code < c.toNat / 1024 % 4 →
       (∀ d, illegal_ (.crd d c)) ∧ ∀ i d v, CsrWriter s i d c v → illegal_ i) ∧
     (c.toNat / 512 % 2 = 1 ∨ (c = 0x050 ∧ s.level ≠ .firmware) ∨ (c = 0x051 ∧ s.level = .program) →
       ∀ i d v, CsrWriter s i d c v → illegal_ i))

/-- What a written CSR then reads as: `fflags`, `qflags`, `frm`, `epc`, `eaddr`, `evec`, `kstat`, `ustat` (whose bit 16 keeps
its value), `uvec`, `uepc`, `vstart`, `cycle`, `instret`, `spl`, `vdirty` (whose bits from NR on read zero), `wdirty`,
`mcfg`, `acst` (whose tile formats are read-only), `smiss`, `ecause`, `estatus` (whose top three bits are read-only),
`estride` and `eremain`; a value that a field does not list, of `vstart` one at or above VLMAX, keeps the old one
(03_scalar.md R78, R85; the registers' own rules 05_numbers.md R124, R127, R128, 17_system.md R440, R441, R458, 12_engines.md
R326, 06_memory.md R167, R168, R175, 07_lanes.md R193, 09_word.md R230, 10_matrix.md R261, R262, 11_sync.md R309). That a
code of `ecause` and a kind of `eremain` which hardware never produces are placed as written is the model's choice (log 33).
-/
def Obligations.CsrReadsWhatWasWritten : Prop :=
  ∀ (s : State) (v : Word),
    csrRead (csrWrite s 0x011 v) 0x011 = v &&& 0x1F ∧
    csrRead (csrWrite s 0x012 v) 0x012 = v &&& 0xF ∧
    csrRead (csrWrite s 0x010 v) 0x010 = (if (v &&& 7).toNat ≤ 4 then v &&& 7 else csrRead s 0x010) ∧
    csrRead (csrWrite s 0x401 v) 0x401 = v &&& ~~~3#64 ∧
    csrRead (csrWrite s 0x402 v) 0x402 = v ∧
    csrRead (csrWrite s 0x404 v) 0x404 = v &&& ~~~3#64 ∧
    csrRead (csrWrite s 0x405 v) 0x405 = v ∧
    csrRead (csrWrite s 0x030 v) 0x030 = v &&& ~~~2#64 ∧
    csrRead (csrWrite s 0x031 v) 0x031 = v &&& ~~~3#64 ∧
    csrRead (csrWrite s 0x032 v) 0x032 = (csrRead s 0x032 &&& 0x10000) ||| (v &&& 0x7FF) ∧
    csrRead (csrWrite s 0x050 v) 0x050 = v ∧
    csrRead (csrWrite s 0x051 v) 0x051 = v ∧
    csrRead (csrWrite s 0x021 v) 0x021 = (if v.toNat % 16 ≤ 8 then v &&& 0xF else csrRead s 0x021) ∧
    csrRead (csrWrite s 0x022 v) 0x022 = v &&& BitVec.ofNat 64 (2 ^ s.nr - 1) ∧
    csrRead (csrWrite s 0x023 v) 0x023 = v &&& 0xFFFFFFFF ∧
    csrRead (csrWrite s 0x024 v) 0x024 = (if v.toNat % 4 ≤ 2 then v &&& 3 else csrRead s 0x024 &&& 3) ||| (v &&& 0xFC) ∧
    csrRead (csrWrite s 0x025 v) 0x025 = (csrRead s 0x025 &&& 0xF) ||| (v &&& 0x0000FFFFFF1F1FF0) ∧
    csrRead (csrWrite s 0x026 v) 0x026 = v &&& 0x1FFFFFFFFF07 ∧
    csrRead (csrWrite s 0x400 v) 0x400 = v &&& 0xFFFFF ∧
    csrRead (csrWrite s 0x403 v) 0x403 = (csrRead s 0x403 &&& 0xE0) ||| (v &&& 0x1C) |||
      (if v.toNat % 4 ≤ 1 then v &&& 3 else csrRead s 0x403 &&& 3) ∧
    csrRead (csrWrite s 0x410 v) 0x410 = v ∧
    csrRead (csrWrite s 0x411 v) 0x411 = v ∧
    csrRead (csrWrite s 0x020 v) 0x020 = (if v.toNat % 2 ^ 18 < s.vlmax then v &&& 0x3FFFF else csrRead s 0x020)

/-- The frame of a legal CSR instruction: every scalar register but the destination is as before, every CSR but the one
written (and `instret`; and the timer bit of `estatus`, bit 7, when `cycle` is written), and every trap, interrupt and
control-block register that no CSR shows, every byte of memory unless `spl` changes the scratchpad (06_memory.md R176), in
which case the timeline counters, whose values lie in memory, are left out; the lanes are as before but for m7 at the back
edge of a vector loop. The activation, its commands and the scheduler are as before, but for the present bit of m7 there, and
for what the commands and the Barchan operations see of memory when `spl` changes. A bit of `vdirty` or `wdirty` that goes
from 1 to 0 zeroes its register (07_lanes.md R193, 09_word.md R230). A change of `spl` zeroes the scratchpad above the
smaller of both sizes and no other byte, beside the arrivals of barriers queued before it, which are complete first (R176).
-/
def Obligations.CsrInstructionFrame : Prop :=
  (∀ (s : State) d c t, csrListed c.toNat = true → csrLevel c.toNat ≤ s.level.code → exec (.crd d c) s = .next t →
    KeptRegs [d] s t ∧ KeptBytes s t ∧ KeptCsrs [0x051] s t ∧ KeptSystem s t ∧ KeptLanes s t ∧ KeptSched s t) ∧
  (∀ (s : State) i d c v t, CsrWriter s i d c v → csrWritable s c.toNat = true → exec i s = .next t →
    KeptRegs [d] s t ∧ (c ≠ 0x021 → KeptBytes s t) ∧
      KeptCsrs (c.toNat :: 0x051 :: 0x403 :: if c = 0x021 then upto 0x240 16 else []) s t ∧
      (c ≠ 0x050 → c ≠ 0x403 → csrRead t 0x403 = csrRead s 0x403) ∧
      (c ≠ 0x403 → csrRead t 0x403 &&& 0x7F = csrRead s 0x403 &&& 0x7F) ∧
      { t.ctl with
        spl := s.ctl.spl, uvec := s.ctl.uvec, uepc := s.ctl.uepc, ustat := s.ctl.ustat, cycle := s.ctl.cycle,
        ecause := s.ctl.ecause, epc := s.ctl.epc, eaddr := s.ctl.eaddr, estatus := s.ctl.estatus, evec := s.ctl.evec,
        kstat := s.ctl.kstat, estride := s.ctl.estride, eremain := s.ctl.eremain } = s.ctl ∧
      (c ≠ 0x021 → KeptSched s t) ∧ KeptSched s { t with sched.commands := s.sched.commands } ∧ t.hub = s.hub ∧ t.mode = s.mode ∧
      (c ≠ 0x021 → t.kv = s.kv) ∧ { t.kv with barOps := s.kv.barOps } = s.kv ∧
      { t.lanes with
        mask := s.lanes.mask, frm := s.lanes.frm, fflags := s.lanes.fflags, qflags := s.lanes.qflags,
        vstart := s.lanes.vstart, vdirty := s.lanes.vdirty, wdirty := s.lanes.wdirty, mcfg := s.lanes.mcfg,
        acst := s.lanes.acst, smiss := s.lanes.smiss, vreg := s.lanes.vreg, wreg := s.lanes.wreg } = s.lanes ∧
      (∀ k, k < 7 * 262144 → mapGet t.lanes.mask k = mapGet s.lanes.mask k) ∧
      (c ≠ 0x022 → t.lanes.vreg = s.lanes.vreg) ∧ (c ≠ 0x023 → t.lanes.wreg = s.lanes.wreg)) ∧
  ((∀ (s : State) i d v t, CsrWriter s i d 0x022 v → exec i s = .next t → ∀ r e, e < 262144 →
      mapGet t.lanes.vreg (vkey r e) =
        if s.lanes.vdirty.getLsbD r = true ∧ (v.getLsbD r = false ∨ s.nr ≤ r) then 0 else mapGet s.lanes.vreg (vkey r e)) ∧
   (∀ (s : State) i d v t, CsrWriter s i d 0x023 v → exec i s = .next t → ∀ r k, r < 32 → k < 1024 →
      t.word r k = if s.lanes.wdirty.getLsbD r = true ∧ v.getLsbD r = false then 0 else s.word r k) ∧
   (∀ (s : State) i d v t, CsrWriter s i d 0x021 v → exec i s = .next t → s.memory.arrivals = [] → ∀ a,
      t.byte a = if v.toNat % 16 ≤ 8 ∧ v.toNat % 16 ≠ s.ctl.spl.toNat ∧
        2 ^ 46 + 2 ^ 18 * min s.ctl.spl.toNat (v.toNat % 16) ≤ a ∧ a < 2 ^ 46 + 2 ^ 21 then 0 else s.byte a))

/-! ### Branches and loops -/

/-- A conditional branch that is taken goes to pc + 4 × SExt(OFF13, 13), and one that is not goes on (04_control.md R87);
a taken branch whose target is not above its own address is an iteration boundary (R105). `jal` and `jalr` link the next
address and go to their target; `jalr` reads sA before it writes sD (R88, R89). -/
def Obligations.BranchAndJumpResult : Prop :=
  (∀ (s : State) i p o, BranchWhen s i p o → s.atLoopEnd = false →
     let t : Word := BitVec.ofInt 64 (s.pc.toInt + 4 * o.toInt)
     (¬p → exec i s = .next (retire s)) ∧
     (p → t.toNat % 4 = 0 → canonical t = true → ∃ u, exec i s = .next u ∧ u.pc = t ∧ u.instret = s.instret + 1 ∧
       u.commit = some (if t.toNat ≤ s.pc.toNat then .boundary else .plain) ∧ u.loops = s.loops ∧ u.frame = s.frame ∧
       KeptRegs [] s u ∧ KeptBytes s u ∧ KeptCsrs [0x051] s u ∧ KeptSystem s u ∧ u.lanes = s.lanes)) ∧
  (∀ (s : State) (d a : BitVec 5), s.atLoopEnd = false →
     (∀ o : BitVec 21, let t : Word := BitVec.ofInt 64 (s.pc.toInt + 4 * o.toInt)
       t.toNat % 4 = 0 → canonical t = true →
         exec (.jal d o) s = .next (goto (s.wr d (s.pc + 4)) t (decide (t.toNat ≤ s.pc.toNat)))) ∧
     (∀ k : BitVec 13, let t : Word := BitVec.ofInt 64 ((s.rd a).toInt + k.toInt)
       t.toNat % 4 = 0 → canonical t = true →
         exec (.jalr d a k) s = .next (goto (s.wr d (s.pc + 4)) t (decide (t.toNat ≤ s.pc.toNat)))))

/-- The target of a taken branch or jump is checked before it commits: one that is not canonical raises the fetch page
fault and a canonical misaligned one the misalignment trap, with the target in `eaddr` and no other effect (04_control.md
R90; the fetch page fault comes first, 17_system.md R439). A redirecting instruction at the end of the top hardware loop is
illegal, the `sjoin` of strip threads included (R98), once its target has passed the fetch page fault, which comes first
(17_system.md R439). -/
def Obligations.RedirectChecks : Prop :=
  (∀ (s : State) i (t : Word), s.level = .program →
     ((∃ p o, BranchWhen s i p o ∧ p ∧ t = BitVec.ofInt 64 (s.pc.toInt + 4 * o.toInt)) ∨
      (∃ d o, i = .jal d o ∧ t = BitVec.ofInt 64 (s.pc.toInt + 4 * o.toInt)) ∨
      (∃ d a k, i = .jalr d a k ∧ t = BitVec.ofInt 64 ((s.rd a).toInt + k.toInt))) →
     (s.atLoopEnd = false → canonical t = true → t.toNat % 4 ≠ 0 → exec i s = .next (kernelEntry s { code := 6, eaddr := t })) ∧
     (canonical t = false → exec i s = .next (kernelEntry s { code := 2, eaddr := t }))) ∧
  (∀ s : State, s.level = .program → s.inStrip = false → s.atLoopEnd = true →
     let trapped := (.next (kernelEntry s { code := 1 }) : Out)
     (∀ i p o, BranchWhen s i p o → (p → canonical (BitVec.ofInt 64 (s.pc.toInt + 4 * o.toInt)) = true) →
       exec i s = trapped) ∧
     (∀ d o, canonical (BitVec.ofInt 64 (s.pc.toInt + 4 * o.toInt)) = true → exec (.jal d o) s = trapped) ∧
     (∀ d a k, canonical (BitVec.ofInt 64 ((s.rd a).toInt + k.toInt)) = true → exec (.jalr d a k) s = trapped) ∧
     (∀ x k, exec (.loop x k) s = trapped) ∧ (∀ r k, exec (.loopr r k) s = trapped) ∧
     (∀ v k, exec (.loopv v k) s = trapped) ∧ exec .lbrk s = trapped ∧ (∀ d k, exec (.lidx d k) s = trapped) ∧
     exec .sfork s = trapped ∧ (∀ m c o, exec (.sbra m c o) s = trapped) ∧ (∀ m c o, exec (.sloop m c o) s = trapped) ∧
     exec .sjoin s = trapped ∧ exec .done s = trapped ∧ (∀ a, exec (.yield a) s = trapped) ∧
     (∀ a b, exec (.join a b) s = trapped) ∧ (∀ e c n, exec (.sweep e c n) s = trapped) ∧
     (∀ n, exec (.snext n) s = trapped) ∧
     (∀ k, exec (.trap k) s = trapped) ∧ exec .tret s = trapped ∧ exec .uret s = trapped ∧ exec .brk s = trapped ∧
     exec .halt s = trapped) ∧
  (∀ (s : State) e rest, s.level = .program → s.inStrip = true → s.loops = e :: rest →
     e.last = s.pc + BitVec.ofNat 64 (4 * (s.strip.len.toNat + 1)) →
     exec .sjoin s = .next (kernelEntry s { code := 1 }) ∧
     (s.thread = 256 → exec .stripThreadModeEnd s = .next (kernelEntry s { code := 1 })))

/-- Counted loops (04_control.md R95, R96): with a nonzero count an entry is pushed and the body starts; with a count of
zero nothing is pushed and the body is passed over. A loop over per-element trip counts (R102): m7 holds the elements
whose count is not exhausted, and the body starts exactly when there is one. `lbrk` leaves the top loop and `lidx` reads
the index of an entry (R100, R101). -/
def Obligations.HardwareLoopResult : Prop :=
  (∀ (s : State) (k : BitVec 17), s.loops.length < 6 → s.inStrip = false → s.inFrame = false → s.atLoopEnd = false →
     let last : Word := s.pc + 4 * BitVec.ofNat 64 k.toNat
     (∀ x : BitVec 6, exec (.loop x k) s = .next (goto
       { s with loops := ⟨.counted, s.pc + 4, last, BitVec.ofNat 64 (x.toNat + 1), 0, false⟩ :: s.loops } (s.pc + 4) false)) ∧
     (∀ r : BitVec 5, s.rd r = 0 → exec (.loopr r k) s = .next (goto s (last + 4) false)) ∧
     (∀ r : BitVec 5, s.rd r ≠ 0 → exec (.loopr r k) s = .next (goto
       { s with loops := ⟨.counted, s.pc + 4, last, s.rd r, 0, false⟩ :: s.loops } (s.pc + 4) false))) ∧
  (∀ (s : State) (v : BitVec 6) (k : BitVec 17), s.loops.length < 6 → s.inStrip = false → s.inFrame = false →
     s.atLoopEnd = false → v.toNat < s.nr → (∀ e ∈ s.loops, e.kind ≠ .vector) →
     let u := loopEval s v.toNat 0
     let last : Word := s.pc + 4 * BitVec.ofNat 64 k.toNat
     (∀ e, e < 262144 → mapGet u.lanes.mask (7 * 262144 + e) =
       if s.vlmax ≤ e then mapGet s.lanes.mask (7 * 262144 + e)
       else if e < s.lanes.vl.toNat ∧ 0 < tripCount s v.toNat e then 1#1 else 0#1) ∧
     (anyM7 u = true → exec (.loopv v k) s = .next (goto
       { u with loops := ⟨.vector, s.pc + 4, last, BitVec.ofNat 64 v.toNat, 0, false⟩ :: s.loops } (s.pc + 4) false)) ∧
     (anyM7 u = false → exec (.loopv v k) s = .next (goto u (last + 4) false))) ∧
  (∀ s : State, s.atLoopEnd = false →
     (∀ e rest, s.loops = e :: rest → e.kind ≠ .sweep →
       exec .lbrk s = .next (goto { s with loops := rest } (e.last + 4) false)) ∧
     (∀ d (k : BitVec 17) e, s.loops[k.toNat]? = some e → exec (.lidx d k) s = .next (retire (s.wr d e.index))))

/-- `rpt` captures its body and starts replay 0 with its own word as the frame's head; with a count of zero it passes over
the body once that is checked, and a count above 65,535, a place or a body that fails a check, is illegal (02_encoding.md R54
to R57). Strip threads (04_control.md R109 to R113): `sfork` starts the threads at position 0, those without elements at the
end, and keeps the scalar registers, NR and the widths that they read (R110; log 34); a strip branch tests the mask bits of
the thread's own elements j < vl_t for any, none or all (R112), and moves the thread in hand by its offset when the test
holds and by one otherwise; `sjoin` ends the thread; when all have ended, execution goes on at a + 4 (L + 2), the word after
`sjoin`: that address is the model's choice from the example of R116, where R113 writes a + 4 (L + 1) (log 13). That a strip
branch counts one in `instret` for each thread that executes it, and `sjoin` nothing, neither for a thread nor at the end of
the mode, is the model's choice (03_scalar.md R85, log 37). The bodies of these clauses hold no poisoned word. That an
`sfork` directly before its `sjoin` is accepted, and that the checks of a body which depend on state are made in the state in
which replay 0 executes the word, are the model's too (log 32). -/
def Obligations.CapturedBodyResult : Prop :=
  (∀ (s : State) l n g st r,
     let k := l.toNat + 1
     let count := if r = 0 then n.toNat + 1 else (s.rd r).toNat
     st ≠ 3 → (r = 0 ∨ n = 0) → rptPlaceOk s k = true →
     ∀ ws, fetchWords s (s.pc + 4) k = .ok ws → firstBad s 0 0 0 (s.pc + 4) ws.1 = none → (∀ f ∈ ws.1, f.clean = true) →
       (65535 < count → s.level = .program → exec (.rpt l n g st r) s = .next (kernelEntry s { code := 1 })) ∧
       (count = 0 → exec (.rpt l n g st r) s = .next (goto ws.2 (s.pc + BitVec.ofNat 64 (4 * (k + 1))) false)) ∧
       (count ≠ 0 → count ≤ 65535 → ∃ f : Frame, f.live = true ∧ f.captured = true ∧ f.j = 0 ∧ f.p = 0 ∧
         f.n.toNat = count ∧ f.level = s.level ∧ f.held = 0 ∧ f.body = ws.1.map (fun f => BitVec.ofNat 32 f.word) ∧
         f.head = BitVec.ofNat 32 (0x7F + l.toNat * 2 ^ 10 + n.toNat * 2 ^ 14 + g.toNat * 2 ^ 22 + st.toNat * 2 ^ 25 +
           r.toNat * 2 ^ 27) ∧
         exec (.rpt l n g st r) s = .next (goto { ws.2 with frame := f } (s.pc + 4) false))) ∧
  (∀ (s : State) l n g st r ws, st ≠ 3 → (r = 0 ∨ n = 0) → s.level = .program →
     fetchWords s (s.pc + 4) (l.toNat + 1) = .ok ws → (rptPlaceOk s (l.toNat + 1) = false ∨ firstBad s 0 0 0 (s.pc + 4) ws.1 ≠ none) →
       exec (.rpt l n g st r) s = .next (kernelEntry s { code := 1 })) ∧
  ((∀ (s : State) ws u, s.strip.live = false → s.atLoopEnd = false →
     fetchBody s (s.pc + 4) 256 = .ok ((ws, .join), u) → firstStripBad s ws.length s.pc 0 ws = none →
     stripPlaceOk s s.pc ws.length = true → ws.length < 256 →
       ∃ t, exec .sfork s = .next t ∧ t.strip.live = true ∧ t.strip.level = s.level ∧ t.strip.len.toNat = ws.length ∧
         t.pc = u.pc ∧ t.strip.body = ws.map (BitVec.ofNat 32) ∧ t.inStrip = true ∧ t.strip.held = 0 ∧
         (∀ r : BitVec 5, mapGet t.strip.scalars r.toNat = s.rd r) ∧ t.strip.vcfg = s.lanes.vcfg ∧
         t.strip.ewa = s.lanes.ewa ∧ t.strip.ewb = s.lanes.ewb ∧ t.strip.ewd = s.lanes.ewd ∧
         ∀ k, k < 256 → t.stripPos k = if s.lanes.vl.toNat ≤ 128 * k then ws.length else 0) ∧
   (∀ (s : State) m c (o : BitVec 18), s.inStrip = true → c ≠ 3 →
     let here := s.stripPos s.thread
     let own := min 128 (s.lanes.vl.toNat - 128 * s.thread)
     let set := fun j => s.maskBit m.toNat (128 * s.thread + j) = true
     let holds := (c = 0 ∧ ∃ j, j < own ∧ set j) ∨ (c = 1 ∧ ∀ j, j < own → ¬ set j) ∨ (c = 2 ∧ ∀ j, j < own → set j)
     ∀ i, (i = .sbra m c o ∨ i = .sloop m c o) →
       (holds → exec i s = .next (stripGoto (counted s) ((here : Int) + o.toInt).toNat)) ∧
       (¬ holds → exec i s = .next (stripGoto (counted s) (here + 1)))) ∧
   (∀ s : State, s.inStrip = true → s.joinAtLoopEnd = false →
     exec .sjoin s = .next (stripGoto s s.strip.len.toNat)) ∧
   (∀ s : State, s.inStrip = true → s.joinAtLoopEnd = false → s.thread = 256 →
     exec .stripThreadModeEnd s = .next { s with
       strip := Strip.none
       pc := s.pc + BitVec.ofNat 64 (4 * (s.strip.len.toNat + 2))
       commit := some .plain }))

/-! ### Scalar memory accesses -/

/-- A scalar load of n bytes of normal memory writes them, extended, to its destination, after the walker has marked the
leaves it used (06_memory.md R150, R153) and after the queued barrier arrivals, when one of them adds to those bytes
(11_sync.md R286); from a page of any type it writes what `loadNum` reads. A scalar store of n bytes to normal memory writes
the low n bytes of sD, lowest first, at the bytes its address translates to, and changes no other byte but, before it, the
page-table entries whose A and D bits the walker sets and what such arrivals add; to a page of any type it does what
`storeNum` does. Where no cached translation is used, an address is translated by the walk of the page tables (R147 to R151),
the window and firmware addresses are not (R144, R146), and an address that is not canonical has no translation (R149). An
access traps, and has no other effect (R155): into the page fault or the access violation of its translation, with the lowest
failing address (R154; 17_system.md R439), into the misalignment trap off a normal page, and into the access violation when
it has 1 or 2 bytes on a control page (R151). That the misalignment comes first where the leaf refuses the access too is not
said here. -/
def Obligations.ScalarMemoryAccessResult : Prop :=
  (∀ (s : State) i sgn n d a o, LoadInto i sgn n d a o →
     let va : Word := BitVec.ofInt 64 ((s.rd a).toInt + o.toInt)
     (∀ hs, scalarHits s .load va n = .ok hs → hitsType hs = .normal → firstPoison s va (hitLocs hs) = none →
       let u := arriveBefore (markAll s .load (hs.map (·.1))) (hitLocs hs)
       let x := leNat ((hitLocs hs).map u.byte)
       exec i s = .next (retire (u.wr d (BitVec.ofInt 64 (if sgn then signedBytes x n else x))))) ∧
     (∀ x u, loadNum s va n = .ok (x, u) →
       exec i s = .next (retire (u.wr d (BitVec.ofInt 64 (if sgn then signedBytes x n else x)))))) ∧
  (∀ (s : State) i n d a o, StoreFrom i n d a o →
     let va : Word := BitVec.ofInt 64 ((s.rd a).toInt + o.toInt)
     (∀ u, storeNum s va n (s.rd d).toNat = .ok u → exec i s = .next (retire u)) ∧
     (∀ h, scalarHits s .store va n = .ok [(h, n)] → h.type = .normal →
       let u := markAll s .store [h]
       KeptBytesBut h.leaf.toList s u ∧ ∃ t, exec i s = .next t ∧ t.num h.loc n = (s.rd d).toNat % 2 ^ (8 * n) ∧
         KeptBytesBut (upto h.loc n) (arriveBefore u (upto h.loc n)) t ∧ KeptRegs [] s t) ∧
     (∀ hs t, scalarHits s .store va n = .ok hs → hitsType hs = .normal → exec i s = .next t →
       let u := markAll s .store (hs.map (·.1))
       KeptBytesBut (hs.filterMap (fun h => h.1.leaf)) s u ∧ KeptBytesBut (hitLocs hs) (arriveBefore u (hitLocs hs)) t ∧
         KeptRegs [] s t ∧ KeptLanes s t)) ∧
  (∀ (s : State) (va : Word) (store : Bool),
     let k : Access := if store then .store else .load
     let low : Prop := va.toNat < 2 ^ 54 ∨ (2 ^ 64 - 2 ^ 54 ≤ va.toNat ∧ va.toNat < 2 ^ 64 - 2 ^ 21)
     (2 ^ 54 ≤ va.toNat → va.toNat < 2 ^ 64 - 2 ^ 54 → translate s k va = .error ⟨.page, va⟩) ∧
     (2 ^ 64 - 2 ^ 21 ≤ va.toNat → let x := va.toNat - (2 ^ 64 - 2 ^ 21)
       (x < 2 ^ 18 * s.ctl.spl.toNat → translate s k va = .ok { loc := 2 ^ 46 + x, type := .normal, leaf := none }) ∧
       (2 ^ 18 * s.ctl.spl.toNat ≤ x → translate s k va = .error ⟨.access, va⟩)) ∧
     (s.level = .firmware → low →
       (2 ^ 46 ≤ va.toNat ∨ s.populated va.toNat = false → translate s k va = .error ⟨.access, va⟩) ∧
       (va.toNat < 2 ^ 46 → s.populated va.toNat = true → ∃ h, translate s k va = .ok h ∧ h.loc = va.toNat ∧
         h.leaf = none ∧ h.type = if 0x3FFF00000000 ≤ va.toNat then .control else .normal)) ∧
     (s.level ≠ .firmware → low → (s.root = none → translate s k va = .error ⟨.access, va⟩) ∧
       ∀ r, s.root = some r → s.cachedAt va = none →
         (∀ f, Walks s store va 2 r (.error f) → translate s k va = .error ⟨f, va⟩) ∧
         (∀ pa ty place, Walks s store va 2 r (.ok (pa, ty, place)) →
           ∃ h, translate s k va = .ok h ∧ h.loc = pa ∧ h.type = ty ∧ h.leaf = some place))) ∧
  (∀ (s : State) i (store : Bool) n, s.kernelTakes → ∀ va : Word,
     ((∃ sgn d a o, store = false ∧ LoadInto i sgn n d a o ∧ va = BitVec.ofInt 64 ((s.rd a).toInt + o.toInt)) ∨
      (∃ d a o, store = true ∧ StoreFrom i n d a o ∧ va = BitVec.ofInt 64 ((s.rd a).toInt + o.toInt))) →
     let k : Access := if store then .store else .load
     let fault : Word := if store then 4 else 3
     let room := 65536 - va.toNat % 65536
     (translate s k va = .error ⟨.page, va⟩ → (n ≤ room ∨ pageType s (va + BitVec.ofNat 64 room) = .normal) →
       s.cachedAt va = none → AccessTraps i s fault va) ∧
     (translate s k va = .error ⟨.access, va⟩ → va.toNat % n = 0 → AccessTraps i s 5 va) ∧
     (room < n → pageType s va = .normal → pageType s (va + BitVec.ofNat 64 room) = .normal →
       ∀ h, translate s k va = .ok h → let next := va + BitVec.ofNat 64 room
       (translate s k next = .error ⟨.page, next⟩ → AccessTraps i s fault next) ∧
       (translate s k next = .error ⟨.access, next⟩ → AccessTraps i s 5 next)) ∧
     (∀ h, translate s k va = .ok h → s.cachedAt va = none → h.type ≠ .normal → va.toNat % n ≠ 0 → AccessTraps i s 6 va) ∧
     (∀ h, translate s k va = .ok h → h.type = .control → va.toNat % n = 0 → n < 4 → AccessTraps i s 5 va))

/-- An atomic reads n bytes, stores the new value its table entry gives and returns the old bytes sign-extended
(06_memory.md R157): a synchronising access, before which publications begun and queued arrivals are complete (11_sync.md
R289, R293, R296). One whose address is not a multiple of its size raises the misalignment trap on every page type, with
no other effect (06_memory.md R155, R158). -/
def Obligations.AtomicResult : Prop :=
  (∀ (s : State) i n c d a b f h, AtomicWith i n c d a b f → c ≠ 3 → (s.rd a).toNat % n = 0 →
     translate s .atomic (s.rd a) = .ok h → firstPoison s (s.rd a) (upto h.loc n) = none →
     let u := syncOrder (markLeaf s h true)
     let old := u.num h.loc n
     let new := f old ((s.rd b).toNat % 2 ^ (8 * n)) ((s.rd d).toNat % 2 ^ (8 * n))
     exec i s = .next (retire ((syncNum u h.loc n (new % 2 ^ (8 * n))).wr d (BitVec.ofInt 64 (signedBytes old n))))) ∧
  (∀ (s : State) i n c d a b f, AtomicWith i n c d a b f → c ≠ 3 → s.level = .program → (s.rd a).toNat % n ≠ 0 →
     exec i s = .next (kernelEntry s { code := 6, eaddr := s.rd a }))

/-! ### The lane array -/

/-- How the sources are read (07_lanes.md R181, R194): A and B by planes 0 to w − 1 under `ewa` and `ewb`, D under `ewd`,
from the pair of registers when w > 16, and the scalar operand by its low ewb.w bits, each signed or unsigned by its width
register; in strip threads the widths, and the scalar, are those of the `sfork` (04_control.md R110). The element-wise
instructions write the exact result of R195, R197 and R199, cut to ewd.w bits, to every performed element; masked-off
elements keep all their planes, tail elements follow the tail policy, the dirty bits of the destination are set, and nothing
else of the machine changes before the commit. -/
def Obligations.ElementwiseResult : Prop :=
  (∀ (s : State) (a : BitVec 6) e, LanesLegal s →
     let planes := (mapGet s.lanes.vreg (vkey a.toNat e)).toNat
     let w := widthOf s.ewa
     (s.uA a e = (planes % 2 ^ w : Nat)) ∧
     (s.sA a e = if planes % 2 ^ w < 2 ^ (w - 1) then ((planes % 2 ^ w : Nat) : Int) else (planes % 2 ^ w : Nat) - 2 ^ w) ∧
     (s.srcA a e = if signedOf s.ewa then s.sA a e else s.uA a e) ∧
     (let wb := widthOf s.ewb
      s.uB a e = planes % 2 ^ wb ∧
      s.sB a e = (if planes % 2 ^ wb < 2 ^ (wb - 1) then ((planes % 2 ^ wb : Nat) : Int) else (planes % 2 ^ wb : Nat) - 2 ^ wb) ∧
      (s.srcB a e = if signedOf s.ewb then s.sB a e else s.uB a e)) ∧
     (let pair := planes + (mapGet s.lanes.vreg (vkey (a.toNat + 1) e)).toNat * 65536
      let x := (if s.wd ≤ 16 then planes else pair) % 2 ^ s.wd
      s.srcD a e = if signedOf s.ewd = true ∧ 2 ^ (s.wd - 1) ≤ x then (x : Int) - 2 ^ s.wd else x)) ∧
  (∀ (s : State) (b : BitVec 5), LanesLegal s →
     let wb := widthOf s.ewb
     let x := (if s.inStrip then mapGet s.strip.scalars b.toNat else s.rd b).toNat % 2 ^ wb
     s.uS b = x ∧ s.sS b = (if x < 2 ^ (wb - 1) then (x : Int) else x - 2 ^ wb) ∧
     (s.srcS b = if signedOf s.ewb then s.sS b else s.uS b)) ∧
  (∀ s : State, s.inStrip = true → s.ewa = s.strip.ewa ∧ s.ewb = s.strip.ewb ∧ s.ewd = s.strip.ewd) ∧
  (∀ (s : State) i d m ok x, LaneInto s i d m ok x → LanesLegal s → DestLegal s d → ok →
     ∃ u, exec i s = .next (retire u) ∧ OnlyVector false false s u ∧
       WritesElems s u d.toNat (fun e => if s.maskBit m.toNat e then some (truncN (x e) s.wd) else none))

/-- The saturating instructions clamp to the range and set `qflags.si` when a performed element is clamped (07_lanes.md R198,
05_numbers.md R128). `vadc` and `vsbc` are unmasked; they read the carry mask as the carry in of each element and write the
carry out there (07_lanes.md R196), so that this mask becomes present (17_system.md R454) and nothing else of the scheduler
changes. A vector field that names a register at or above NR, an odd destination pair, and `vadc` or `vsbc` without a carry
mask are illegal (R200). -/
def Obligations.SaturationAndCarryResult : Prop :=
  (∀ (s : State) i d m ok x l h, LaneSatInto s i d m ok x l h → LanesLegal s → DestLegal s d → ok →
     ∃ u, exec i s = .next (retire u) ∧ OnlyVector false true s u ∧
       WritesElems s u d.toNat (fun e => if s.maskBit m.toNat e then
         some (truncN (if x e < l then l else if h < x e then h else x e) s.wd) else none) ∧
       ((∃ e, e ∈ s.performed m.toNat ∧ (x e < l ∨ h < x e)) → u.lanes.qflags = s.lanes.qflags ||| 1) ∧
       ((∀ e, e ∈ s.performed m.toNat → l ≤ x e ∧ x e ≤ h) → u.lanes.qflags = s.lanes.qflags)) ∧
  (∀ (s : State) i d c ok x out, LaneCarryInto s i d c ok x out → LanesLegal s → DestLegal s d → ok → c ≠ 0 →
     let y := fun e => x e (if s.maskBit c.toNat e then 1 else 0)
     ∃ u, exec i s = .next (retire u) ∧ OnlyVector true false s u ∧
       WritesElems s u d.toNat (fun e => some (truncN (y e) s.wd)) ∧
       (∀ e, s.window.lo ≤ e → e < s.window.lo + s.window.n → (u.maskBit c.toNat e = true ↔ out (y e))) ∧
       (∀ k e, e < 262144 → (k ≠ c.toNat ∨ e < s.window.lo ∨ s.window.lo + s.window.n ≤ e) →
         mapGet u.lanes.mask (vkey k e) = mapGet s.lanes.mask (vkey k e)) ∧ u.sched = s.maskPresent c.toNat) ∧
  (∀ (s : State), s.level = .program →
     (∀ i d m ok x, LaneInto s i d m ok x → (¬ DestLegal s d ∨ ¬ ok) → exec i s = .next (kernelEntry s { code := 1 })) ∧
     (∀ i d m ok x l h, LaneSatInto s i d m ok x l h → (¬ DestLegal s d ∨ ¬ ok) →
       exec i s = .next (kernelEntry s { code := 1 })) ∧
     (∀ i d c ok x out, LaneCarryInto s i d c ok x out → (¬ DestLegal s d ∨ ¬ ok ∨ c = 0) →
       exec i s = .next (kernelEntry s { code := 1 })))

/-- `vcfg`, `setvl` and `setw` (07_lanes.md R188, R190, R192), outside strip-thread mode: what each
writes, and that it leaves every other register, every byte of memory and every other CSR as they were. -/
def Obligations.VectorConfigurationResult : Prop :=
  ∀ (s : State) (d a : BitVec 5), s.inStrip = false → s.lanes.vl.toNat ≤ s.vlmax →
    (∃ u : State, exec (.vcfg d a) s = .next (retire (u.wr d (BitVec.ofNat 64 u.vlmax))) ∧
      u.lanes.vcfg = (s.rd a).setWidth 4 ∧ u.vlmax = 262144 / 2 ^ ((s.rd a).toNat % 4) ∧
      ((s.rd a).toNat % 4 ≠ s.lanes.vcfg.toNat % 4 → (∀ k, mapGet u.lanes.vreg k = 0) ∧ u.lanes.vdirty = 0 ∧ u.lanes.vl = 0) ∧
      ((s.rd a).toNat % 4 = s.lanes.vcfg.toNat % 4 → u.lanes.vdirty = s.lanes.vdirty ∧ u.lanes.vl = s.lanes.vl ∧
        ∀ r e, e < 262144 → mapGet u.lanes.vreg (vkey r e) =
          if s.tailDead = false ∧ u.tailDead = true ∧ s.lanes.vl.toNat ≤ e then 0 else mapGet s.lanes.vreg (vkey r e)) ∧
      (let l : Lanes :=
        { s.lanes with vcfg := u.lanes.vcfg, vreg := u.lanes.vreg, vdirty := u.lanes.vdirty, vl := u.lanes.vl }
      u = { s with lanes := l })) ∧
    (∃ u : State, exec (.setvl d a) s = .next (retire (u.wr d (BitVec.ofNat 64 u.lanes.vl.toNat))) ∧
      u.lanes.grantE = s.lanes.grantG ∧
      u.lanes.vl.toNat = min (s.rd a).toNat (min s.vlmax
        (if s.lanes.grantG.toNat = 256 then s.vlmax else 128 * s.lanes.grantG.toNat)) ∧
      (∀ r e, e < 262144 → mapGet u.lanes.vreg (vkey r e) =
        if s.tailDead = true ∧ u.lanes.vl.toNat < s.lanes.vl.toNat ∧ u.lanes.vl.toNat ≤ e then 0
        else mapGet s.lanes.vreg (vkey r e)) ∧
      u = { s with lanes := { s.lanes with vl := u.lanes.vl, grantE := u.lanes.grantE, vreg := u.lanes.vreg } }) ∧
    (∀ x ∈ [(Instr.vcfg d a, [0x051, 0x022, 0x220, 0x221]), (.setvl d a, [0x051, 0x220, 0x225]),
        (.setw d a, [0x051, 0x222, 0x223, 0x224])], ∀ t, exec x.1 s = .next t →
      KeptRegs [d] s t ∧ KeptBytes s t ∧ KeptCsrs x.2 s t ∧ KeptSystem s t ∧ KeptSched s t ∧
      (∀ k, k < 7 * 262144 → mapGet t.lanes.mask k = mapGet s.lanes.mask k) ∧
      { t.lanes with
        mask := s.lanes.mask, vreg := s.lanes.vreg, vdirty := s.lanes.vdirty, vl := s.lanes.vl, vcfg := s.lanes.vcfg,
        grantE := s.lanes.grantE, ewa := s.lanes.ewa, ewb := s.lanes.ewb, ewd := s.lanes.ewd } = s.lanes) ∧
    (∃ u : State, exec (.setw d a) s = .next (retire (u.wr d (BitVec.ofNat 64
        (s.lanes.ewa.toNat + s.lanes.ewb.toNat * 2 ^ 8 + s.lanes.ewd.toNat * 2 ^ 16)))) ∧
      let v := (s.rd a).toNat
      u.lanes.ewa.toNat = (if 1 ≤ v % 64 ∧ v % 64 ≤ 16 then v % 128 else s.lanes.ewa.toNat) ∧
      u.lanes.ewb.toNat = (if 1 ≤ v / 256 % 64 ∧ v / 256 % 64 ≤ 16 then v / 256 % 128 else s.lanes.ewb.toNat) ∧
      u.lanes.ewd.toNat = (if 1 ≤ v / 65536 % 64 ∧ v / 65536 % 64 ≤ 32 then v / 65536 % 128 else s.lanes.ewd.toNat) ∧
      u = { s with lanes := { s.lanes with ewa := u.lanes.ewa, ewb := u.lanes.ewb, ewd := u.lanes.ewd } })

/-! ### Masks, reductions and permutes -/

/-- A compare writes its condition to every performed bit of a mask other than m0 and keeps the others (08_masks.md R210,
R211). The mask operations write their bit to every element below the vector length (R213, R214). Of the scheduler state both
change nothing but the present bit of the mask they write (17_system.md R454); where no bit is written, which the model
settles in log 37, the statement leaves that bit open. `vfirst`, `vlast` and `mcnt` (R215): the least and the greatest
element below `vl` whose bit is set, all ones when there is none, and how many there are. -/
def Obligations.MaskInstructionResult : Prop :=
  (∀ (s : State) i d m ok c, CompareInto s i d m ok c → LanesLegal s → d ≠ 0 → ok →
     ∃ u, exec i s = .next (retire u) ∧
       WritesMask s u d.toNat (fun e => if s.maskBit m.toNat e then c e else s.maskBit d.toNat e = true)) ∧
  (∀ (s : State) i d x, MaskInto s i d x → LanesLegal s → d ≠ 0 →
     ∃ u, exec i s = .next (retire u) ∧ WritesMask s u d.toNat x) ∧
  (∀ (s : State) (a : BitVec 3) (d : BitVec 5),
     let has := fun e => e < s.lanes.vl.toNat ∧ s.maskBit a.toNat e = true
     (∀ e, has e → (∀ k, k < e → ¬ has k) → exec (.vfirst a d) s = .next (retire (s.wr d (BitVec.ofNat 64 e)))) ∧
     (∀ e, has e → (∀ k, e < k → ¬ has k) → exec (.vlast a d) s = .next (retire (s.wr d (BitVec.ofNat 64 e)))) ∧
     ((∀ e, ¬ has e) → exec (.vfirst a d) s = .next (retire (s.wr d (BitVec.allOnes 64))) ∧
       exec (.vlast a d) s = .next (retire (s.wr d (BitVec.allOnes 64)))) ∧
     exec (.mcnt a d) s = .next (retire (s.wr d (BitVec.ofNat 64
       ((List.range s.lanes.vl.toNat).countP (fun e => s.maskBit a.toNat e))))))

/-- The reductions combine exactly the performed elements, in any order the same (08_masks.md R217, R218). -/
def Obligations.ReductionResult : Prop :=
  ∀ (s : State) (d : BitVec 5) (a : BitVec 6) (m : BitVec 3), LanesLegal s → a.toNat < s.nr →
    let l := s.performed m.toNat
    let w := widthOf s.ewa
    let pats := l.map (fun e => s.elem a.toNat e w)
    let by_s := fun (n : Nat) => readAs n s.ewa
    exec (.vredsum d a m) s = .next (retire (s.wr d (BitVec.ofInt 64 (l.map (s.sA a)).sum))) ∧
    exec (.vredsumu d a m) s = .next (retire (s.wr d (BitVec.ofInt 64 (l.map (s.uA a)).sum))) ∧
    exec (.vredmin d a m) s = .next (retire (s.wr d (BitVec.ofInt 64 ((l.map (s.sA a)).foldr min (2 ^ (w - 1) - 1))))) ∧
    exec (.vredmax d a m) s = .next (retire (s.wr d (BitVec.ofInt 64 ((l.map (s.sA a)).foldr max (-2 ^ (w - 1)))))) ∧
    exec (.vredminu d a m) s = .next (retire (s.wr d (BitVec.ofInt 64 ((l.map (s.uA a)).foldr min (2 ^ w - 1))))) ∧
    exec (.vredmaxu d a m) s = .next (retire (s.wr d (BitVec.ofInt 64 ((l.map (s.uA a)).foldr max 0)))) ∧
    exec (.vredand d a m) s = .next (retire (s.wr d (BitVec.ofInt 64 (by_s (pats.foldr (· &&& ·) (2 ^ w - 1)))))) ∧
    exec (.vredor d a m) s = .next (retire (s.wr d (BitVec.ofInt 64 (by_s (pats.foldr (· ||| ·) 0))))) ∧
    exec (.vredxor d a m) s = .next (retire (s.wr d (BitVec.ofInt 64 (by_s (pats.foldr (· ^^^ ·) 0)))))

/-- The permutes (08_masks.md R221 to R223): which source element each element receives. -/
def Obligations.PermuteResult : Prop :=
  ∀ (s : State) (d a : BitVec 6) (m : BitVec 3), LanesLegal s → DestLegal s d → a.toNat < s.nr →
    let at_ := fun (k : Nat) => truncN (if k < s.lanes.vl.toNat then s.srcA a k else 0) s.wd
    let picked := (List.range s.lanes.vl.toNat).filter (fun e => s.maskBit m.toNat e)
    (∀ b : BitVec 6, b.toNat < s.nr → ∃ u, exec (.vperm d a b m) s = .next (retire u) ∧ OnlyVector false false s u ∧
      WritesElems s u d.toNat (fun e => if s.maskBit m.toNat e then some (at_ (s.uB b e)) else none)) ∧
    (∀ b : BitVec 5, ∃ u, exec (.vslup d a b m) s = .next (retire u) ∧ OnlyVector false false s u ∧
      WritesElems s u d.toNat (fun e => if s.maskBit m.toNat e ∧ (s.rd b).toNat ≤ e then
        some (truncN (s.srcA a (e - (s.rd b).toNat)) s.wd) else none)) ∧
    (∀ b : BitVec 5, ∃ u, exec (.vsldn d a b m) s = .next (retire u) ∧ OnlyVector false false s u ∧
      WritesElems s u d.toNat (fun e => if s.maskBit m.toNat e then some (at_ (e + (s.rd b).toNat)) else none)) ∧
    (∃ u, exec (.vcomp d a m) s = .next (retire u) ∧ OnlyVector false false s u ∧
      WritesElems s u d.toNat (fun e => some (match picked[e]? with
        | some k => truncN (s.srcA a k) s.wd
        | none => 0))) ∧
    (∃ u, exec (.vexpd d a m) s = .next (retire u) ∧ OnlyVector false false s u ∧
      WritesElems s u d.toNat (fun e => if s.maskBit m.toNat e then
        some (truncN (s.srcA a ((List.range e).countP (fun k => s.maskBit m.toNat k))) s.wd) else none))

/-! ### Vector memory accesses -/

/-- A vector load whose performed elements all translate within one pass and read no poisoned byte writes every element's
container, extended or cut, to its destination, clears `vstart` and commits (06_memory.md R159 to R166, R170, R171);
elements of an ordinary load that lie on synchronisation pages are missed and recorded (11_sync.md R308, R309). A vector
store stores them in ascending order, after the barrier arrivals queued before it, and adds its bytes to the pending-byte
counters (R294, R296). `vscadd` adds, for each distinct address, the sum of its elements, as package-scope atomics in the order of the
lowest contributing element (06_memory.md R173, R174). At firmware level, in normal memory, the bytes and bits that each store
and `vscadd` leave there are given by address, for every container and however many passes it takes, and the rest is kept
(R144, R160 to R165). -/
def Obligations.VectorMemoryResult : Prop :=
  (∀ (s : State) i d m near first ok place stride, VectorLoadForm s i d m near first ok place stride →
     DestLegal s d → ok →
     let p := enumerate (probe s .vload near (!near)) place [] (s.vmPerformed m)
     p.fault = none → p.rest = [] → checkItems s p.items = .ok () →
       let u := p.items.foldl (fun t x => markAll t .vload x.hits) s
       let r := loadItems near u p.items
       let noted := if near then r.1 else recordMisses r.1 s.lanes.vl.toNat p.missed
       exec i s = .next (retire (setVstart (writeLoaded noted d r.2) 0))) ∧
  ((∀ (s : State) i d m c ok place stride, VectorStoreForm s i d m c ok place stride → d.toNat < s.nr → ok →
     let l := s.vmPerformed m
     let r := releaseArrivals s
     let p := enumerate (probe r .vstore false false) place [] l
     let bytes := storedBytes c (widthOf s.ewa) l.length
     p.fault = none → p.rest = [] → s.memory.poison = [] → pendingFull s bytes = false →
       let u := p.items.foldl (fun t x => markAll t .vstore x.hits) r
       let v := addPending (storeItems d u p.items) bytes
       exec i s = .next (retire (setVstart v 0)) ∧ v.regs = s.regs ∧ v.lanes = s.lanes ∧
         KeptBytesBut (p.items.flatMap Item.locs ++ p.items.flatMap (fun x => x.hits.filterMap Hit.leaf)) r v) ∧
   (∀ (s : State) i d m c ok place stride, VectorStoreForm s i d m c ok place stride → d.toNat < s.nr → ok →
     LanesLegal s → s.level = .firmware → s.memory.poison = [] → s.memory.arrivals = [] →
     let l := s.vmPerformed m
     let n := containerBytes c
     let at_ := fun e => ((place e).starts.headD 0).toNat
     pendingFull s (storedBytes c (widthOf s.ewa) l.length) = false →
       (3 ≤ c.toNat → c.toNat ≤ 5 → (∀ e ∈ l, at_ e % n = 0 ∧ at_ e + n ≤ 2 ^ 37) →
         ∃ t, exec i s = .next (retire t) ∧ t.regs = s.regs ∧ KeptBytesBut (l.flatMap (fun e => upto (at_ e) n)) s t ∧
           ∀ e ∈ l, (∀ j ∈ l, e < j → at_ j ≠ at_ e) → t.num (at_ e) n = truncN (s.elemInt d.toNat e s.ewa) (8 * n)) ∧
       (c.toNat < 3 → ∀ a, i = .vst d a m c → (s.rd a).toNat + 2 ^ 17 ≤ 2 ^ 37 →
         let w := 2 ^ c.toNat
         ∃ t, exec i s = .next (retire t) ∧ t.regs = s.regs ∧ ∀ x k, k < 8 → (t.byte x).getLsbD k =
           if (s.rd a).toNat ≤ x ∧ (8 * (x - (s.rd a).toNat) + k) / w ∈ l then
             (truncN (s.elemInt d.toNat ((8 * (x - (s.rd a).toNat) + k) / w) s.ewa) w).testBit (k % w)
           else (s.byte x).getLsbD k) ∧
       (c.toNat = 6 → ∀ a, i = .vst d a m c → (s.rd a).toNat % 64 = 0 → (s.rd a).toNat + 2 ^ 19 ≤ 2 ^ 37 →
         let base := (s.rd a).toNat
         let w := widthOf s.ewa
         ∃ t, exec i s = .next (retire t) ∧ t.regs = s.regs ∧ ∀ x k, k < 8 →
           let row := (x - base) / 4096
           let e := row / w * 32768 + (x - base) % 4096 * 8 + k
           (t.byte x).getLsbD k = if base ≤ x ∧ e ∈ l then (truncN (s.elemInt d.toNat e s.ewa) w).testBit (row % w)
             else (s.byte x).getLsbD k))) ∧
  ((∀ (s : State) d a b m c, d.toNat < s.nr → b.toNat < s.nr →
     let p := enumerate (probe s .atomic false false) (s.indexedPlace c (s.rd a) b) [] (s.vmPerformed m)
     p.fault = none → p.rest = [] → checkItems s p.items = .ok () →
       let u := p.items.foldl (fun t x => markAll t .atomic x.hits) s
       exec (.vscadd d a b m c) s =
         .next (retire (setVstart (applySums (containerBytes c) u (mergeSums u d p.items [])) 0))) ∧
   (∀ (s : State) d a b m c, d.toNat < s.nr → b.toNat < s.nr → 3 ≤ c.toNat → c.toNat ≤ 5 → s.level = .firmware →
     s.memory.poison = [] → s.memory.arrivals = [] →
     let l := s.vmPerformed m
     let n := containerBytes c
     let at_ := fun e => (s.rd a + BitVec.ofInt 64 (s.elemInt b.toNat e s.ewb * n)).toNat
     (∀ e ∈ l, at_ e % n = 0 ∧ at_ e + n ≤ 2 ^ 37) →
       ∃ t, exec (.vscadd d a b m c) s = .next (retire t) ∧ t.regs = s.regs ∧
         KeptBytesBut (l.flatMap (fun e => upto (at_ e) n)) s t ∧
         ∀ e ∈ l, t.num (at_ e) n = (s.num (at_ e) n +
           ((l.filter (fun j => at_ j == at_ e)).map (fun j => truncN (s.elemInt d.toNat j s.ewa) (8 * n))).sum) %
             2 ^ (8 * n)))

/-- A vector memory instruction that meets a fault at element e raises the vector memory fault there: `vstart` names the
element, the trap registers say what and where, and the performed elements before it are complete: a store has stored them, a
load has written them, and `vscadd` has added their sums and nothing of a later element (06_memory.md R166, R168, R174). A
`vldff` that faults at a later element than its first one is trimmed: it writes the elements before, sets `vl` to e and
commits (R170). That a load which faults after elements it has written leaves the dirty bit of its destination set is the
model's choice (log 16). -/
def Obligations.VectorMemoryFault : Prop :=
  let fault := fun (s : State) (stride : Word) (write : Nat) (e : Nat) (f : MemFault) => ({
    code := 7
    eaddr := f.addr
    estride := stride
    eremain := BitVec.ofNat 64 (s.lanes.vl.toNat - e + f.kind.code * 2 ^ 20 + write * 2 ^ 23 + loopLeft s * 2 ^ 24) } : Trap)
  (∀ (s : State) i d m c ok place stride, VectorStoreForm s i d m c ok place stride → d.toNat < s.nr → ok →
    s.level = .program → s.memory.poison = [] →
    let r := releaseArrivals s
    let p := enumerate (probe r .vstore false false) place [] (s.vmPerformed m)
    let bytes e := storedBytes c (widthOf s.ewa) ((s.vmPerformed m).filter (fun k => decide (k < e))).length
    ∀ e f, p.fault = some (e, f) → pendingFull s (bytes e) = false →
      let u := p.items.foldl (fun t x => markAll t .vstore x.hits) r
      let v := addPending (storeItems d u p.items) (bytes e)
      exec i s = .next (kernelEntry (setVstart v e) (fault s stride 1 e f)) ∧
      KeptBytesBut (p.items.flatMap Item.locs ++ p.items.flatMap (fun x => x.hits.filterMap Hit.leaf)) r v ∧
      v.regs = s.regs ∧ v.lanes = s.lanes ∧ v.instret = s.instret) ∧
  (∀ (s : State) i d m near first ok place stride, VectorLoadForm s i d m near first ok place stride →
    DestLegal s d → ok → s.level = .program →
    let p := enumerate (probe s .vload near (!near)) place [] (s.vmPerformed m)
    checkItems s p.items = .ok () → ∀ e f, p.fault = some (e, f) →
      let u := p.items.foldl (fun t x => markAll t .vload x.hits) s
      let r := loadItems near u p.items
      let noted := if near then r.1 else recordMisses r.1 e p.missed
      (first = false ∨ (s.vmPerformed m).head? = some e →
        exec i s = .next (kernelEntry (setVstart (if r.2 = [] then noted else writeLoaded noted d r.2) e)
          (fault s stride 0 e f))) ∧
      (first = true → (s.vmPerformed m).head? ≠ some e →
        exec i s = .next (retire (setVstart (setLength (writeLoaded noted d r.2) e) 0)))) ∧
  (∀ (s : State) d a b m c, d.toNat < s.nr → b.toNat < s.nr → s.level = .program →
    let p := enumerate (probe s .atomic false false) (s.indexedPlace c (s.rd a) b) [] (s.vmPerformed m)
    checkItems s p.items = .ok () → ∀ e f, p.fault = some (e, f) →
      let u := p.items.foldl (fun t x => markAll t .atomic x.hits) s
      exec (.vscadd d a b m c) s = .next (kernelEntry
        (setVstart (applySums (containerBytes c) u (mergeSums u d p.items [])) e) (fault s 0 1 e f)))

/-- A unit-stride load of bytes, halfwords or words by firmware from normal memory reads them: every element below the vector
length receives the number its bytes make (06_memory.md R144, R160 to R163), after the queued barrier arrivals when one of
them adds to the bytes read (11_sync.md R286). -/
def Obligations.UnitStrideLoadReadsMemory : Prop :=
  ∀ (s : State) (d : BitVec 6) (a : BitVec 5) (c : BitVec 3), LanesLegal s → DestLegal s d → s.level = .firmware →
    s.inStrip = false → 3 ≤ c.toNat → c.toNat ≤ 5 → signedOf s.ewd = false → s.wd ≤ 16 → s.lanes.vstart = 0 →
    s.memory.poison = [] →
    let n := containerBytes c
    (s.rd a).toNat % n = 0 → (s.rd a).toNat + n * s.lanes.vl.toNat ≤ 2 ^ 37 →
      let r := arriveBefore s (upto (s.rd a).toNat (n * s.lanes.vl.toNat))
      ∃ t, exec (.vld d a 0 c) s = .next (retire t) ∧ t.memory = r.memory ∧ t.regs = s.regs ∧
        ∀ e, e < s.lanes.vl.toNat → t.elem d.toNat e 16 = r.num ((s.rd a).toNat + n * e) n % 2 ^ s.wd

/-! ### Numbers and the word unit -/

/-- Rounding to a grid of spacing 2^g (05_numbers.md R125): the exact value m × 2^e, or one just above it, lies on the grid or
between two neighbours; nearest-even picks the nearer, the even one on a tie; toward zero the lower magnitude; up and down by
the sign; odd the odd one; and the result is inexact exactly when the value is not on the grid. Rounding into FP32 is rounding
to the grid of the value's own spacing, written as a code, or the overflow of its mode (R120, R125 to R127). Rounding a finite
FP32 value into FP32 gives its code back, in every mode and with no flag (R120, R125, R127). -/
def Obligations.RoundingResult : Prop :=
  (∀ (mode : Rounding) (neg rest : Bool) (m : Nat) (e g : Int),
     let r := roundGrid mode ⟨neg, m, e, rest⟩ g
     let more := if rest then 1 else 0
     (g ≤ e → r = (m * 2 ^ (e - g).toNat, rest)) ∧
     (e < g → let p := 2 ^ (g - e).toNat
       (r.2 = true ↔ m % p ≠ 0 ∨ rest = true) ∧ (r.2 = false → r.1 * p = m) ∧ (r.1 * p < m + p + more ∧ m < r.1 * p + p) ∧
       (r.2 = true → mode = .rne → 2 * (r.1 * p) ≤ 2 * m + p ∧ 2 * m + more ≤ 2 * (r.1 * p) + p ∧
         (2 * (m % p) = p → rest = false → r.1 % 2 = 0)) ∧
       (r.2 = true → mode = .rtz → r.1 * p < m + more) ∧
       (r.2 = true → mode = .rup → (neg = true → r.1 * p < m + more) ∧ (neg = false → m < r.1 * p)) ∧
       (r.2 = true → mode = .rdn → (neg = true → m < r.1 * p) ∧ (neg = false → r.1 * p < m + more)) ∧
       (r.2 = true → mode = .rod → r.1 % 2 = 1))) ∧
  (∀ (mode : Rounding) (x : Exact) (k : Nat), 2 ^ k ≤ x.m → x.m < 2 ^ (k + 1) →
     let g := max (x.e + k) (-126) - 23
     let y := roundGrid mode x g
     let r := roundF mode x
     let sign := if x.neg then 2 ^ 31 else 0
     (y.1 * 2 ^ (g + 149).toNat ≤ 2 ^ 277 - 2 ^ 253 →
       (fixed32 r.val).natAbs = y.1 * 2 ^ (g + 149).toNat ∧ sign ≤ r.val ∧ r.val < sign + 0x7F800000 ∧
       r.f.getLsbD 0 = y.2 ∧ r.f.getLsbD 2 = false ∧ r.q = 0) ∧
     (2 ^ 277 - 2 ^ 253 < y.1 * 2 ^ (g + 149).toNat → r.f = fOf ||| fNx ∧ r.q = 0 ∧
       (mode = .rne → r.val = sign + 0x7F800000) ∧ (mode = .rtz ∨ mode = .rod → r.val = sign + 0x7F7FFFFF) ∧
       (mode = .rup → r.val = if x.neg then sign + 0x7F7FFFFF else 0x7F800000) ∧
       (mode = .rdn → r.val = if x.neg then sign + 0x7F800000 else 0x7F7FFFFF))) ∧
  (∀ (mode : Rounding) (sat : Bool) (x : Nat), x < 2 ^ 32 → x % 2 ^ 31 < 0x7F800000 →
     cvtFp fp32 mode sat (valFp fp32 x) = ⟨x, 0, 0⟩)

/-- An element-wise instruction of the word unit writes its result to all 1,024 elements and sets the union of their
flags; nothing else changes before the commit (09_word.md R231). Sums, products, fused operations, quotients and square roots
of finite values round the exact result once, with the sign of a zero sum that R231 gives; a signalling NaN sets nv and a NaN
gives the canonical one; infinities, zeros and negative operands give what R233 lists. `wmin`, `wmax` and the compares order by
value (R234). The special cases of the functions are those of R237, and `wrcp`, `wrsq`, `wexp2` and `wlog2` give their exact or
once rounded results (R236). The conversions read their sources by 05_numbers.md R119 to R122 and give the results and flags of
R131 to R133; `wupmx` rounds the element times its scale once (R140), and so does `wscl` (R245). That E4M3 overflow from an
integer gives the NaN code is the model's choice (log 36), and so is nv for a signalling NaN under a NaN scale (log 28), which is
not stated here. That a finite product and an infinity of the other sign are invalid is the model's reading
(log 31). -/
def Obligations.WordArithmeticResult : Prop :=
  (∀ (s : State) i d g, WordInto s i d g →
    ∃ u, exec i s = .next (retire u) ∧ WritesWord s u d.toNat (fun k => (g k).val) ∧
      SetsFlags s u ((List.range 1024).map g) ∧ OnlyWord s u) ∧
  (∀ (mode : Rounding) (a b c : Nat), a < 2 ^ 32 → b < 2 ^ 32 → c < 2 ^ 32 →
    let invalid : Flagged := ⟨nan32, fNv, 0⟩
    let isNan := fun (sig : Prop) (g : Flagged) => g.val = nan32 ∧ g.q = 0 ∧ (sig → g.f = fNv) ∧ (¬ sig → g.f = 0)
    let sgn := fun (x : Nat) => decide (2 ^ 31 ≤ x)
    let xor_ := (sgn a != sgn b)
    let signed := fun (n : Bool) (mag : Nat) (f : BitVec 5) => (⟨(if n then 2 ^ 31 else 0) + mag, f, 0⟩ : Flagged)
    let zero := fun (x : Nat) => fixed32 x = 0
    let zeroInf := (zero a ∧ Inf32 b) ∨ (Inf32 a ∧ zero b)
    let add := addNum mode (val32 a) (val32 b)
    let mul := mulNum mode (val32 a) (val32 b)
    let div := divNum mode (val32 a) (val32 b)
    let root := sqrtNum mode (val32 a)
    let fma := fmaNum mode (val32 a) (val32 b) (val32 c)
    ((Nan32 a ∨ Nan32 b → ∀ g ∈ [add, mul, div], isNan (Sig32 a ∨ Sig32 b) g) ∧ (Nan32 a → isNan (Sig32 a) root) ∧
     (¬ zeroInf → Nan32 a ∨ Nan32 b ∨ Nan32 c → isNan (Sig32 a ∨ Sig32 b ∨ Sig32 c) fma)) ∧
    ((zeroInf → mul = invalid ∧ fma = invalid) ∧
     (Inf32 a → Inf32 b → (a = b → add = ⟨a, 0, 0⟩) ∧ (a ≠ b → add = invalid) ∧ div = invalid) ∧
     (Inf32 a → Fin32 b → add = ⟨a, 0, 0⟩ ∧ div = signed xor_ 0x7F800000 0) ∧
     (Fin32 a → Inf32 b → add = ⟨b, 0, 0⟩ ∧ div = signed xor_ 0 0) ∧
     (zero a → zero b → div = invalid) ∧ (zero a → ¬ zero b → Fin32 b → div = signed xor_ 0 0) ∧
     (Fin32 a → ¬ zero a → zero b → div = signed xor_ 0x7F800000 fDz) ∧
     (¬ Nan32 a → ¬ Nan32 b → ¬ zeroInf → Inf32 a ∨ Inf32 b → mul = signed xor_ 0x7F800000 0 ∧
       (Fin32 c ∨ (Inf32 c ∧ sgn c = xor_) → fma = signed xor_ 0x7F800000 0)) ∧
     (¬ Nan32 a → ¬ Nan32 b → ¬ zeroInf → Inf32 c → sgn c ≠ xor_ → fma = invalid) ∧
     (Fin32 a → Fin32 b → Inf32 c → sgn c = xor_ → fma = ⟨c, 0, 0⟩) ∧
     (zero a → root = ⟨a, 0, 0⟩) ∧ (¬ Nan32 a → ¬ zero a → sgn a = true → root = invalid) ∧
     (a = 0x7F800000 → root = ⟨a, 0, 0⟩)) ∧
    (Fin32 a → Fin32 b →
      (∃ x : Exact, add = roundF mode x ∧ x.rest = false ∧ -149 ≤ x.e ∧ x.units 149 = fixed32 a + fixed32 b ∧
        (x.m = 0 → x.neg = if sgn a = sgn b then sgn a else mode == .rdn)) ∧
      (∃ x : Exact, mul = roundF mode x ∧ x.rest = false ∧ x.neg = xor_ ∧ -298 ≤ x.e ∧
        x.units 298 = fixed32 a * fixed32 b) ∧
      (Fin32 c → ∃ x : Exact, fma = roundF mode x ∧ x.rest = false ∧ -298 ≤ x.e ∧
        x.units 298 = fixed32 a * fixed32 b + fixed32 c * 2 ^ 149 ∧
        (x.m = 0 → x.neg = if xor_ = sgn c then xor_ else mode == .rdn)) ∧
      (¬ zero a → ¬ zero b → ∃ x : Exact, div = roundF mode x ∧ x.neg = xor_ ∧
        Encloses x (fixed32 a).natAbs (fixed32 b).natAbs) ∧
      (0 < fixed32 a → (∃ x : Exact, root = roundF mode x ∧ x.neg = false ∧
          EnclosesRoot x (fixed32 a).natAbs (2 ^ 149)) ∧
        ∃ x : Exact, funcNum .rsq mode a = roundF mode x ∧ x.neg = false ∧
          EnclosesRoot x (2 ^ 149) (fixed32 a).natAbs) ∧
      (¬ zero a → ∃ x : Exact, funcNum .rcp mode a = roundF mode x ∧ x.neg = sgn a ∧
        Encloses x (2 ^ 149) (fixed32 a).natAbs)) ∧
    (∀ k : Int, -149 ≤ k → k ≤ 127 →
      (fixed32 a = k * 2 ^ 149 → ∃ r, funcNum .exp2 mode a = ⟨r, 0, 0⟩ ∧ fixed32 r = 2 ^ (k + 149).toNat) ∧
      (fixed32 a = 2 ^ (k + 149).toNat → ∃ r, funcNum .log2 mode a = ⟨r, 0, 0⟩ ∧ fixed32 r = k * 2 ^ 149)) ∧
    ((¬ Nan32 a → ¬ Nan32 b →
       weq32 a b = ⟨if fixed32 a = fixed32 b then 1 else 0, 0, 0⟩ ∧
       wlt32 false a b = ⟨if fixed32 a < fixed32 b then 1 else 0, 0, 0⟩ ∧
       wlt32 true a b = ⟨if fixed32 a ≤ fixed32 b then 1 else 0, 0, 0⟩ ∧
       minmax32 false a b = ⟨if fixed32 a < fixed32 b ∨ (fixed32 a = fixed32 b ∧ 2 ^ 31 ≤ a) then a else b, 0, 0⟩ ∧
       minmax32 true a b = ⟨if fixed32 b < fixed32 a ∨ (fixed32 a = fixed32 b ∧ a < 2 ^ 31) then a else b, 0, 0⟩) ∧
     (Nan32 a ∨ Nan32 b → (weq32 a b).val = 0 ∧ (Sig32 a ∨ Sig32 b → (weq32 a b).f = fNv) ∧
       (¬ (Sig32 a ∨ Sig32 b) → (weq32 a b).f = 0) ∧ wlt32 false a b = ⟨0, fNv, 0⟩ ∧ wlt32 true a b = ⟨0, fNv, 0⟩ ∧
       ∀ m : Bool, let r := minmax32 m a b
         r.val = (minmax32 m b a).val ∧ (Nan32 a → Nan32 b → r.val = nan32) ∧ (Nan32 a → ¬ Nan32 b → r.val = b) ∧
         (Sig32 a ∨ Sig32 b → r.f = fNv) ∧ (¬ (Sig32 a ∨ Sig32 b) → r.f = 0))) ∧
    (let ninf := (0xFF800000 : Nat)
     let pinf := (0x7F800000 : Nat)
     let nzero := (0x80000000 : Nat)
     (∀ g ∈ [Func.exp, .exp2], funcNum g mode ninf = ⟨0, 0, 0⟩ ∧ funcNum g mode pinf = ⟨pinf, 0, 0⟩ ∧
       ∀ x ∈ [nzero, 0], funcNum g mode x = ⟨0x3F800000, 0, 0⟩) ∧
     (∀ g ∈ [Func.log, .log2], funcNum g mode pinf = ⟨pinf, 0, 0⟩ ∧ funcNum g mode 0x3F800000 = ⟨0, 0, 0⟩ ∧
       (∀ x ∈ [nzero, 0], funcNum g mode x = ⟨ninf, fDz, 0⟩) ∧
       (¬ Nan32 a → ¬ zero a → sgn a = true → funcNum g mode a = invalid)) ∧
     funcNum .rcp mode ninf = ⟨nzero, 0, 0⟩ ∧ funcNum .rcp mode nzero = ⟨ninf, fDz, 0⟩ ∧
     funcNum .rcp mode 0 = ⟨pinf, fDz, 0⟩ ∧ funcNum .rcp mode pinf = ⟨0, 0, 0⟩ ∧
     funcNum .rsq mode nzero = ⟨ninf, fDz, 0⟩ ∧ funcNum .rsq mode 0 = ⟨pinf, fDz, 0⟩ ∧
     funcNum .rsq mode pinf = ⟨0, 0, 0⟩ ∧ (¬ Nan32 a → ¬ zero a → sgn a = true → funcNum .rsq mode a = invalid) ∧
     funcNum .tanh mode ninf = ⟨0xBF800000, 0, 0⟩ ∧ funcNum .tanh mode pinf = ⟨0x3F800000, 0, 0⟩ ∧
     funcNum .sig mode ninf = ⟨0, 0, 0⟩ ∧ funcNum .sig mode pinf = ⟨0x3F800000, 0, 0⟩ ∧
     (∀ x ∈ [nzero, 0], funcNum .tanh mode x = ⟨x, 0, 0⟩ ∧ funcNum .sin mode x = ⟨x, 0, 0⟩ ∧
       funcNum .sig mode x = ⟨0x3F000000, 0, 0⟩ ∧ funcNum .cos mode x = ⟨0x3F800000, 0, 0⟩) ∧
     (∀ x ∈ [ninf, pinf], funcNum .sin mode x = invalid ∧ funcNum .cos mode x = invalid) ∧
     ∀ g, Nan32 a → isNan (Sig32 a) (funcNum g mode a))) ∧
  ((∀ x : Nat, ∀ q ∈ ([(0, 32, 23, 127, 0x7F7FFFFF, 0x7F800000), (1, 16, 10, 15, 0x7BFF, 0x7C00),
      (2, 16, 7, 127, 0x7F7F, 0x7F80), (3, 8, 3, 7, 0x7E, 0x80), (4, 8, 2, 15, 0x7B, 0x7C), (5, 4, 1, 1, 7, 8),
      (6, 6, 3, 1, 0x1F, 0x20), (7, 6, 2, 3, 0x1F, 0x20)] : List (Nat × Nat × Nat × Nat × Nat × Nat)),
     let (code, w, m, bias, top, inf) := q
     let neg := decide (x / 2 ^ (w - 1) % 2 = 1)
     let mag := x % 2 ^ (w - 1)
     (mag ≤ top → valOf code x = .fin neg (if mag / 2 ^ m = 0 then mag else 2 ^ m + mag % 2 ^ m)
       ((max 1 (mag / 2 ^ m) : Nat) - (bias : Int) - m)) ∧
     (mag = inf → valOf code x = .inf neg) ∧
     (top < mag → mag ≠ inf → valOf code x = .nan neg (decide (code ≠ 3 ∧ mag / 2 ^ (m - 1) % 2 = 0)))) ∧
   (∀ x : Nat, valOf 8 x = if x % 2 ^ 8 = 255 then .badScale else .fin false 1 ((x % 2 ^ 8 : Nat) - 127)) ∧
   (∀ x : Nat, ∀ q ∈ ([(9, 8, true), (10, 16, true), (11, 32, true), (12, 8, false), (13, 16, false), (14, 32, false)] :
       List (Nat × Nat × Bool)),
     let (code, k, signed) := q
     let z : Int := if signed = true ∧ 2 ^ (k - 1) ≤ x % 2 ^ k then (x % 2 ^ k : Nat) - 2 ^ k else (x % 2 ^ k : Nat)
     valOf code x = .fin (decide (z < 0)) z.natAbs 0) ∧
   (∀ x : Nat, let z : Int := if 2 ^ 7 ≤ x % 2 ^ 8 then (x % 2 ^ 8 : Nat) - 2 ^ 8 else (x % 2 ^ 8 : Nat)
     valOf 15 x = .fin (decide (z < 0)) z.natAbs (-6))) ∧
  (∀ (mode : Rounding) (sat neg : Bool), ∀ q ∈ ([(0, 32, 23, 127, 0x7F7FFFFF, 0x7F800000, 0x7FC00000),
      (1, 16, 10, 15, 0x7BFF, 0x7C00, 0x7E00), (2, 16, 7, 127, 0x7F7F, 0x7F80, 0x7FC0), (3, 8, 3, 7, 0x7E, 0x7F, 0x7F),
      (4, 8, 2, 15, 0x7B, 0x7C, 0x7E)] : List (Nat × Nat × Nat × Nat × Nat × Nat × Nat)),
     let (code, w, mb, bias, top, inf, nan) := q
     let cvt := cvtFp (fmtOf code) mode sat
     let sgn := if neg then 2 ^ (w - 1) else 0
     let units := fun c => if c / 2 ^ mb = 0 then c else (2 ^ mb + c % 2 ^ mb) * 2 ^ (c / 2 ^ mb - 1)
     let emin : Int := 1 - bias
     (∀ e, cvt (.fin neg 0 e) = ⟨sgn, 0, 0⟩) ∧
     cvt (.inf neg) = (if sat then ⟨sgn + top, 0, qSf⟩ else ⟨sgn + inf, if code = 3 then fNv else 0, 0⟩) ∧
     (∀ sig, cvt (.nan neg sig) = ⟨sgn + nan, if sig then fNv else 0, 0⟩) ∧ cvt .badScale = ⟨nan, 0, qMn⟩ ∧
     ∀ (m k : Nat) (e : Int), 2 ^ k ≤ m → m < 2 ^ (k + 1) →
       let x : Exact := ⟨neg, m, e, false⟩
       let g := max (e + k) emin - mb
       let y := roundGrid mode x g
       let n := y.1 * 2 ^ (g - (emin - mb)).toNat
       let r := cvt (.fin neg m e)
       let loose := (roundGrid mode x (e + k - mb)).1
       (n ≤ units top → sgn ≤ r.val ∧ r.val ≤ sgn + top ∧ units (r.val - sgn) = n ∧ r.q = 0 ∧
         r.f = (if y.2 then fNx else 0) |||
           (if y.2 = true ∧ e + k < emin ∧ ¬ (loose = 2 ^ (mb + 1) ∧ e + k + 1 = emin) then fUf else 0)) ∧
       (units top < n → r.f = fOf ||| fNx ∧ (sat = true → r.val = sgn + top ∧ r.q = qSf) ∧
         (sat = false → r.q = 0 ∧ r.val = sgn + match mode with
           | .rne => inf
           | .rtz => top
           | .rup => if neg then top else inf
           | .rdn => if neg then inf else top
           | .rod => top))) ∧
  (∀ (mode : Rounding) (sat : Bool),
     ∀ q ∈ ([(9, 8, true), (10, 16, true), (11, 32, true), (12, 8, false), (13, 16, false), (14, 32, false)] :
       List (Nat × Nat × Bool)),
     let (code, k, signed) := q
     let cvt := cvtInt (intFmtOf code) mode sat
     let lo : Int := if signed then -2 ^ (k - 1) else 0
     let hi : Int := if signed then 2 ^ (k - 1) - 1 else 2 ^ k - 1
     let el := fun z : Int => (if signed = true ∧ 2 ^ (k - 1) ≤ z % 2 ^ k then z % 2 ^ k - 2 ^ k + 2 ^ 32 else z % 2 ^ k).toNat
     let bad := if signed then el (2 ^ (k - 1)) else 0
     (∀ neg m e, let y := roundGrid mode ⟨neg, m, e, false⟩ 0
       let z : Int := if neg then -(y.1 : Int) else y.1
       let nx : BitVec 5 := if y.2 then fNx else 0
       cvt (.fin neg m e) = if lo ≤ z ∧ z ≤ hi then ⟨el z, nx, 0⟩
         else if sat then ⟨el (if z < lo then lo else hi), fNv ||| nx, qSi⟩ else ⟨el z, fNv ||| nx, 0⟩) ∧
     (∀ neg, cvt (.inf neg) = if sat then ⟨el (if neg then lo else hi), fNv, qSi⟩ else ⟨bad, fNv, 0⟩) ∧
     (∀ neg sig, cvt (.nan neg sig) = ⟨if sat then 0 else bad, fNv, 0⟩) ∧
     cvt .badScale = ⟨if sat then 0 else bad, fNv, qMn⟩) ∧
  (∀ (mode : Rounding) (code scale x : Nat), code ∈ [5, 6, 7, 15] →
     (scale % 2 ^ 8 = 255 → unpackElem code mode scale x = ⟨0x7FC00000, 0, qMn⟩) ∧
     (scale % 2 ^ 8 ≠ 255 → ∀ neg m e, valOf code x = .fin neg m e →
       unpackElem code mode scale x = roundF mode ⟨neg, m, e + ((scale % 2 ^ 8 : Nat) - 127), false⟩)) ∧
  (∀ (mode : Rounding) (shape x c : Nat), x < 2 ^ 32 → c < 2 ^ 32 →
     let isrc := shape / 2 ^ 35 % 2
     let sfmt := shape / 2 ^ 36 % 2
     let r := scaleElem mode shape x c
     let z : Int := if 2 ^ 31 ≤ x then (x : Int) - 2 ^ 32 else x
     let sx := decide (2 ^ 31 ≤ x)
     let sc := decide (2 ^ 31 ≤ c)
     let Rounds := fun (neg : Bool) (k : Nat) (v : Int) => ∃ y : Exact, r = roundF mode y ∧ y.rest = false ∧ y.neg = neg ∧
       -(k : Int) ≤ y.e ∧ y.units k = v
     (sfmt = 1 → c % 2 ^ 8 = 255 → r.val = nan32 ∧ r.q = qMn) ∧
     (isrc = 0 → sfmt = 0 → r = mulNum mode (val32 x) (val32 c)) ∧
     (isrc = 0 → sfmt = 1 → c % 2 ^ 8 ≠ 255 → (Fin32 x → Rounds sx 276 (fixed32 x * 2 ^ (c % 2 ^ 8))) ∧
       (Inf32 x → r = ⟨x, 0, 0⟩) ∧ (Nan32 x → r.val = nan32 ∧ r.q = 0 ∧ (Sig32 x → r.f = fNv) ∧ (¬ Sig32 x → r.f = 0))) ∧
     (isrc = 1 → sfmt = 1 → c % 2 ^ 8 ≠ 255 → Rounds sx 127 (z * 2 ^ (c % 2 ^ 8))) ∧
     (isrc = 1 → sfmt = 0 → (Fin32 c → Rounds (sx != sc) 149 (z * fixed32 c)) ∧
       (Inf32 c → r = if z = 0 then ⟨nan32, fNv, 0⟩ else ⟨(if (sx != sc) = true then 2 ^ 31 else 0) + 0x7F800000, 0, 0⟩) ∧
       (Nan32 c → r.val = nan32 ∧ r.q = 0 ∧ (Sig32 c → r.f = fNv) ∧ (¬ Sig32 c → r.f = 0))))

/-- Scans (09_word.md R242): `iscan` gives in every row the running sums modulo 2^32 over its valid positions, inclusive or
exclusive, the last sum standing in the positions after them; `fscan` the running FP32 sums, with the flags of all its
additions; elements past the rows are zero. The row reductions (R239 to R241): one result per row in the leading elements of
the destination, the others zero; `wredsum` adds in the order that la selects, one tree over the row padded with +0 to a
power of two, or from the initial value tree by tree of 32 values. A NaN that no addition or comparison has met is copied and
sets no flag (log 36). -/
def Obligations.RowOperationResult : Prop :=
  (∀ (s : State) (d a b c : BitVec 5),
     let shape := (s.rd b).toNat
     let l := rowLength shape
     let valid := rowValid shape
     ∃ u, exec (.iscan d a b c) s = .next (retire u) ∧ OnlyWord s u ∧ SetsFlags s u [] ∧
       WritesWord s u d.toNat (fun q =>
         let r := q / l
         let k := q % l
         let upTo := if shape / 2 ^ 34 % 2 = 1 then min k valid else min (k + 1) valid
         if r < 1024 / l then s.word c.toNat r + ((List.range upTo).map (fun j => s.word a.toNat (r * l + j))).sum
         else 0)) ∧
  (∀ (s : State) (d a b c : BitVec 5),
     let shape := (s.rd b).toNat
     let l := rowLength shape
     let row := fun r => (List.range (rowValid shape)).map (fun j => s.word a.toNat (r * l + j))
     (∀ h, LeastPower h (rowValid shape) →
       let mode := if s.la = true then .rne else s.frm
       let total := fun r => sumOrder s.la mode (s.word c.toNat r) (fun j => s.word a.toNat (r * l + j)) (rowValid shape) h
       ∃ u, exec (.wredsum d a b c) s = .next (retire u) ∧ OnlyWord s u ∧
         WritesWord s u d.toNat (fun k => if k < 1024 / l then (total k).val else 0) ∧
         SetsFlags s u ((List.range (1024 / l)).map total)) ∧
     (∀ i g, ((i = .wredmax d a b c ∧ g = foldMinmax true) ∨ (i = .wredmin d a b c ∧ g = foldMinmax false)) →
       ∃ u, exec i s = .next (retire u) ∧ OnlyWord s u ∧
         WritesWord s u d.toNat (fun k => if k < 1024 / l then (g (s.word c.toNat k) (row k)).val else 0) ∧
         SetsFlags s u ((List.range (1024 / l)).map (fun r => g (s.word c.toNat r) (row r)))) ∧
     (∃ u, exec (.fscan d a b c) s = .next (retire u) ∧ OnlyWord s u ∧ u.lanes.qflags = s.lanes.qflags ∧
       WritesWord s u d.toNat (fun q =>
         let r := q / l
         let k := q % l
         let upTo := if shape / 2 ^ 34 % 2 = 1 then min k (rowValid shape) else min (k + 1) (rowValid shape)
         if r < 1024 / l then ((row r).take upTo).foldl (fun x y => (add32 s.rowMode x y).val) (s.word c.toNat r)
         else 0) ∧
       u.lanes.fflags = (List.range (1024 / l)).foldl (fun f r => ((row r).foldl (fun p y =>
         ((add32 s.rowMode p.1 y).val, p.2 ||| (add32 s.rowMode p.1 y).f)) (s.word c.toNat r, f)).2) s.lanes.fflags))

/-- Selection, softmax, block packing and merging write two word registers (09_word.md R243, R244; 05_numbers.md R139;
14_sparse.md R377 to R380): with two different destinations (even ones for `smerge`) they complete, and only those registers,
their dirty bits, the sticky flags and the status register of `smerge` change. `wtopk` writes in every row the eligible
positions and their values in rank order, at most K of them, and a signalling NaN sets nv; `wsmx` writes NaNs for a row with
a NaN or +∞, zeros and status 1 for a row whose keys are all masked, and the quotients by the row's sum in the order of R239
otherwise, and sets the flags of the exponentials, the sum and the quotients, or nv for a signalling NaN or +∞; `wpkmx`
scales each block of 32 by the exponent of its largest element, writes the rounded and clamped element codes and the scales,
zero after the 32 scales, and sets the flags of each element; `smerge` writes what its loop writes when it ends. -/
def Obligations.TwoResultWordOperations : Prop :=
  ∀ (s : State) (d a b c : BitVec 5),
    let shape := (s.rd b).toNat
    let l := rowLength shape
    let valid := rowValid shape
    let most := min (shape / 2 ^ 22 % 2 ^ 11) l
    let smallest := shape.testBit 33
    let x := fun r j => s.word a.toNat (r * l + j)
    (d ≠ c →
      (∀ i, (i = .wtopk d a b c ∨ i = .wsmx d a b c ∨ i = .wpkmx d a b c) → ∃ u, exec i s = .next (retire u) ∧
        OnlyWord s u ∧ (∀ r k, k < 1024 → r ≠ d.toNat → r ≠ c.toNat → u.word r k = s.word r k) ∧
        (∀ r, r < 32 → u.lanes.wdirty.getLsbD r = (s.lanes.wdirty.getLsbD r || r == d.toNat || r == c.toNat))) ∧
      (∃ u, exec (.wtopk d a b c) s = .next (retire u) ∧ u.lanes.qflags = s.lanes.qflags ∧
        (∀ r, r < 1024 / l → ∃ order : List Nat,
          (∀ j, j ∈ order ↔ j < valid ∧ (val32 (x r j)).isNan = false) ∧
          order.Pairwise (fun i j => ranksBefore smallest (x r i) (x r j) ∨
            (¬ ranksBefore smallest (x r j) (x r i) ∧ i < j)) ∧
          ∀ q, q < l →
            let got := if q < most then order[q]? else none
            u.word d.toNat (r * l + q) = (got.map (x r)).getD nan32 ∧ u.word c.toNat (r * l + q) = got.getD 0xFFFFFFFF) ∧
        (∀ k, 1024 / l * l ≤ k → k < 1024 → u.word d.toNat k = nan32 ∧ u.word c.toNat k = 0xFFFFFFFF) ∧
        ((∃ r j, r < 1024 / l ∧ j < valid ∧ (val32 (x r j)).isSig = true) → u.lanes.fflags = s.lanes.fflags ||| fNv) ∧
        ((∀ r j, r < 1024 / l → j < valid → (val32 (x r j)).isSig = false) → u.lanes.fflags = s.lanes.fflags)) ∧
      (∀ h, LeastPower h valid → ∃ (u : State) (f : Nat → BitVec 5), exec (.wsmx d a b c) s = .next (retire u) ∧
        u.lanes.qflags = s.lanes.qflags ∧
        u.lanes.fflags = (List.range (1024 / l)).foldl (fun y r => y ||| f r) s.lanes.fflags ∧
        (∀ r, r < 1024 / l →
          let bad := fun j => j < valid ∧ ((val32 (x r j)).isNan = true ∨ x r j = 0x7F800000)
          let key := fun j => x r j ≠ 0xFF800000
          let invalid := fun j => j < valid ∧ (Sig32 (x r j) ∨ x r j = 0x7F800000)
          ((∃ j, bad j) → u.word c.toNat r = 0 ∧ (∀ k, k < l → u.word d.toNat (r * l + k) = nan32) ∧
            ((∃ j, invalid j) → f r = fNv) ∧ ((∀ j, ¬ invalid j) → f r = 0)) ∧
          ((∀ j, j < valid → ¬ key j) → u.word c.toNat r = 1 ∧ (∀ k, k < l → u.word d.toNat (r * l + k) = 0) ∧ f r = 0) ∧
          ((∀ j, ¬ bad j) → (∃ j, j < valid ∧ key j) → ∃ m : Nat, (∃ j, j < valid ∧ m = x r j) ∧
            (∀ j, j < valid → lt32 m (x r j) = false) ∧
            let e := fun j => if key j then
                expExact 10 (x r j) s.rowMode (addExact .rne (val32 (x r j)).exact (val32 m).negate.exact) else ⟨0, 0, 0⟩
            let sum := sumOrder s.la s.rowMode 0 (fun j => (e j).val) valid h
            let quotient := fun k => divNum s.rowMode (val32 (e k).val) (val32 sum.val)
            u.word c.toNat r = 0 ∧ (∀ k, k < l → u.word d.toNat (r * l + k) = if k < valid then (quotient k).val else 0) ∧
            f r = (List.range valid).foldl (fun y k => y ||| (e k).f ||| (quotient k).f) sum.f)) ∧
        (∀ k, 1024 / l * l ≤ k → k < 1024 → u.word d.toNat k = 0) ∧ ∀ k, 1024 / l ≤ k → k < 1024 → u.word c.toNat k = 0) ∧
      (∃ (u : State) (f : Nat → Nat → BitVec 5), exec (.wpkmx d a b c) s = .next (retire u) ∧
        let mode := if b.getLsbD 4 then .rod else s.frm
        let el := fun k j => s.word a.toNat (32 * k + j)
        let bad := fun k => ∃ j, j < 32 ∧ (Nan32 (el k j) ∨ Inf32 (el k j))
        let scaled := fun (k : Nat) (emax : Int) (Q : Int → Nat → Bool → Nat → Int → Prop) =>
          ¬ bad k → ∀ g : Nat, (∀ j, j < 32 → (fixed32 (el k j)).natAbs < 2 ^ (g + 1)) →
            (∃ j, j < 32 ∧ 2 ^ g ≤ (fixed32 (el k j)).natAbs) →
            let e : Int := max (-127) (min 127 ((g : Int) - 149 - emax))
            u.word c.toNat k = (e + 127).toNat ∧ ∀ j, j < 32 → ∀ neg m ex, val32 (el k j) = .fin neg m ex → Q e j neg m ex
        (∀ k, k < 32 →
          (bad k → u.word c.toNat k = 255 ∧ ∀ j, j < 32 → u.word d.toNat (32 * k + j) = 0 ∧
            (Sig32 (el k j) ∨ Inf32 (el k j) → f k j = fNv) ∧ (¬ (Sig32 (el k j) ∨ Inf32 (el k j)) → f k j = 0)) ∧
          ((∀ j, j < 32 → el k j % 2 ^ 31 = 0) → u.word c.toNat k = 127 ∧
            ∀ j, j < 32 → u.word d.toNat (32 * k + j) = 0 ∧ f k j = 0) ∧
          (∀ q ∈ ([(5, 4, 1, 1, 7, 2), (6, 6, 3, 1, 0x1F, 2), (7, 6, 2, 3, 0x1F, 4)] : List (Nat × Nat × Nat × Nat × Nat × Nat)),
            let (code, w, mb, bias, top, emax) := q
            let units := fun c => if c / 2 ^ mb = 0 then c else (2 ^ mb + c % 2 ^ mb) * 2 ^ (c / 2 ^ mb - 1)
            b.toNat % 16 = code → scaled k emax (fun e j neg m ex =>
              let got := u.word d.toNat (32 * k + j)
              let sgn := if neg then 2 ^ (w - 1) else 0
              let y : Exact := ⟨neg, m, ex - e, false⟩
              let emin : Int := 1 - bias
              (m = 0 → got = sgn ∧ f k j = 0) ∧
              ∀ n : Nat, 2 ^ n ≤ m → m < 2 ^ (n + 1) →
                let log := ex - e + n
                let z := roundGrid mode y (max log emin - mb)
                let v := z.1 * 2 ^ (max log emin - emin).toNat
                let loose := (roundGrid mode y (log - mb)).1
                (v ≤ units top → sgn ≤ got ∧ got ≤ sgn + top ∧ units (got - sgn) = v ∧
                  f k j = (if z.2 then fNx else 0) |||
                    (if z.2 = true ∧ log < emin ∧ ¬ (loose = 2 ^ (mb + 1) ∧ log + 1 = emin) then fUf else 0)) ∧
                (units top < v → got = sgn + top ∧ f k j = fNx))) ∧
          (b.toNat % 16 = 15 → scaled k 0 (fun e j neg m ex =>
            let y := roundGrid mode ⟨neg, m, ex - e + 6, false⟩ 0
            let v : Int := if neg then -(y.1 : Int) else y.1
            let z := max (-128) (min 127 v)
            u.word d.toNat (32 * k + j) = (z % 2 ^ 8).toNat ∧ f k j = if y.2 = true ∨ z ≠ v then fNx else 0))) ∧
        (∀ k, 32 ≤ k → k < 1024 → u.word c.toNat k = 0) ∧
        ((∃ k, k < 32 ∧ bad k) → u.lanes.qflags = s.lanes.qflags ||| qMn) ∧
        ((∀ k, k < 32 → ¬ bad k) → u.lanes.qflags = s.lanes.qflags) ∧
        u.lanes.fflags = (List.range 1024).foldl (fun y q => y ||| f (q / 32) (q % 32)) s.lanes.fflags ∧
        ((∃ k j, k < 32 ∧ j < 32 ∧ (Sig32 (el k j) ∨ Inf32 (el k j))) → u.lanes.fflags.getLsbD 4 = true))) ∧
    (d.toNat % 2 = 0 → a.toNat % 2 = 0 → c.toNat % 2 = 0 →
      let nx := min (shape % 2 ^ 11) 1024
      let ny := min (shape / 2 ^ 11 % 2 ^ 11) 1024
      ∃ u i j out, exec (.smerge d a b c) s = .next (retire (u.wr b (BitVec.ofNat 64
          (out.length + i * 2 ^ 11 + j * 2 ^ 22 + if i = nx ∧ j = ny then 2 ^ 33 else 0)))) ∧
        Merged (shape.testBit 22) (s.word a.toNat) (s.word (a + 1).toNat) (s.word c.toNat) (s.word (c + 1).toNat) nx ny i j
          out ∧ (out.length = 1024 ∨ (i = nx ∧ j = ny)) ∧
        OnlyWord s u ∧ u.lanes.qflags = s.lanes.qflags ∧
        (∀ k, k < 1024 → u.word d.toNat k = ((out[k]?).map (·.1)).getD 0xFFFFFFFF ∧
          u.word (d + 1).toNat k = ((out[k]?).map (·.2)).getD 0) ∧
        (∀ r k, k < 1024 → r ≠ d.toNat → r ≠ (d + 1).toNat → u.word r k = s.word r k))

/-- The corner-turn moves copy elements between vector registers, word registers and tiles (09_word.md R248 to R250). -/
def Obligations.CornerTurnMoveResult : Prop :=
  ∀ (s : State) (w a : BitVec 5) (v : BitVec 6) (t : BitVec 2), LanesLegal s →
    let start := (s.rd a).toNat
    let g := start % 8
    (DestLegal s v →
      (∃ u, exec (.wmvv w v a) s = .next (retire u) ∧ OnlyWord s u ∧ WritesWord s u w.toNat (fun k =>
        if start + k < s.lanes.vl.toNat then truncN (s.elemInt v.toNat (start + k) s.ewd) 32 else 0) ∧
        SetsFlags s u []) ∧
      (∃ u, exec (.vmvw w v a) s = .next (retire u) ∧ OnlyVector false false s u ∧ WritesElems s u v.toNat (fun e =>
        if start ≤ e ∧ e < start + 1024 then some (s.word w.toNat (e - start) % 2 ^ s.wd) else none))) ∧
    (∃ u, exec (.wmva w t a) s = .next (retire u) ∧ OnlyWord s u ∧ SetsFlags s u [] ∧
      WritesWord s u w.toNat (fun k => (mapGet (s.tile t).elem (1024 * g + k)).toNat)) ∧
    (∃ u, exec (.amvw w t a) s = .next (retire u) ∧
      (∀ k, k < 8192 → mapGet (u.tile t).elem k =
        if 1024 * g ≤ k ∧ k < 1024 * g + 1024 then BitVec.ofNat 32 (s.word w.toNat (k - 1024 * g))
        else mapGet (s.tile t).elem k) ∧
      (∀ x, x ≠ t → u.tile x = s.tile x) ∧ u.lanes.wreg = s.lanes.wreg ∧ u.lanes.vreg = s.lanes.vreg ∧
      u.regs = s.regs ∧ u.memory = s.memory ∧ (u.tile t).cscale = (s.tile t).cscale)

/-! ### Tiles and latches -/

/-- The tile and latch instructions that always complete (10_matrix.md R269 to R273): zeroing, promotion, scales,
exponents and outliers, and the status reads. -/
def Obligations.TileMetadataResult : Prop :=
  ∀ (s : State) (t : BitVec 2) (l : BitVec 1) (d : BitVec 5),
    (∀ i f, ((i = .mzeroI32 t ∧ f = false) ∨ (i = .mzeroF32 t ∧ f = true)) → ∃ u, exec i s = .next (retire u) ∧
      u.tile t = { s.tile t with elem := [] } ∧ (∀ k, mapGet (u.tile t).elem k = 0) ∧ u.tileF32 t = f ∧
      u.lanes.acst.getLsbD (4 + t.toNat) = false ∧ u.lanes.acst.getLsbD (8 + t.toNat) = false ∧
      (∀ x, x ≠ t → u.tile x = s.tile x ∧ u.tileF32 x = s.tileF32 x) ∧ u.memory = s.memory ∧ u.regs = s.regs) ∧
    (let conv := fun (v : BitVec 32) => cvtFp fp32 .rne false (valInt v.toInt)
     ∃ u, exec (.mpro t) s = .next (retire u) ∧ u.tileF32 t = true ∧ (s.tileF32 t = true → u = s) ∧
      (s.tileF32 t = false → (∀ k, (mapGet (u.tile t).elem k).toNat = (conv (mapGet (s.tile t).elem k)).val) ∧
        ((∃ k, (conv (mapGet (s.tile t).elem k)).f ≠ 0) → u.lanes.fflags = s.lanes.fflags ||| fNx) ∧
        ((∀ e ∈ (s.tile t).elem, (conv e.2).f = 0) → u.lanes.fflags = s.lanes.fflags)) ∧
      (∀ x, x ≠ t → u.tile x = s.tile x) ∧ u.memory = s.memory ∧ u.regs = s.regs) ∧
    (∃ u, exec (.msclRs l d) s = .next (retire u) ∧ (∀ m, m < 32 → (u.bank l).rowScale m = s.word d.toNat m) ∧
      (u.bank l).data = (s.bank l).data ∧ ∀ x, x ≠ l → u.bank x = s.bank x) ∧
    (∃ u, exec (.msclRe l d) s = .next (retire u) ∧
      (∀ m q, m < 32 → q < 4 → (u.bank l).rowExp m q = (BitVec.ofNat 16 (s.word d.toNat (4 * m + q))).toInt) ∧
      (u.bank l).data = (s.bank l).data ∧ ∀ x, x ≠ l → u.bank x = s.bank x) ∧
    (∃ u, exec (.msclCs t d) s = .next (retire u) ∧ (∀ c, c < 256 → (u.tile t).colScale c = s.word d.toNat c) ∧
      (u.tile t).elem = (s.tile t).elem ∧ ∀ x, x ≠ t → u.tile x = s.tile x) ∧
    (∃ u, exec (.msclCe t d) s = .next (retire u) ∧
      (∀ c q, c < 256 → q < 4 → (u.tile t).colExp c q = (BitVec.ofNat 8 (s.word d.toNat (4 * c + q))).toInt) ∧
      (u.tile t).elem = (s.tile t).elem ∧ ∀ x, x ≠ t → u.tile x = s.tile x) ∧
    (∃ u, exec (.msclOl t d) s = .next (retire u) ∧
      (u.tile t).entries.length = s.word d.toNat 0 % 1024 ∧
      (u.tile t).overflow.toNat = s.word d.toNat 0 / 1024 % 2 ^ 22 ∧
      (∀ k, k < s.word d.toNat 0 % 1024 →
        (u.tile t).entries[k]? = some (BitVec.ofNat 32 (s.word d.toNat (k + 1)))) ∧ (u.tile t).elem = (s.tile t).elem) ∧
    (∃ v, exec (.mstatBank l d) s = .next (retire (s.wr d v)) ∧ ((s.bank l).rows < 64 → (s.bank l).klen < 2048 →
      (s.bank l).w < 32 → v.toNat % 64 = (s.bank l).rows ∧ v.toNat / 64 % 2048 = (s.bank l).klen ∧
      v.toNat / 2 ^ 17 % 32 = (s.bank l).w ∧ v.getLsbD 22 = (s.bank l).sgn ∧
      v.toNat / 2 ^ 23 % 4 = (s.bank l).cls.toNat ∧ v.getLsbD 25 = (s.bank l).valid)) ∧
    (∃ v, exec (.mstatTile t d) s = .next (retire (s.wr d v)) ∧ v.getLsbD 0 = s.tileF32 t ∧
      v.getLsbD 1 = s.lanes.acst.getLsbD (4 + t.toNat) ∧ v.getLsbD 2 = s.lanes.acst.getLsbD (8 + t.toNat) ∧
      ((s.tile t).entries.length < 1024 → v.toNat / 8 % 1024 = (s.tile t).entries.length ∧
        v.toNat / 2 ^ 13 % 2 ^ 22 = (s.tile t).overflow.toNat))

/-- An `mmac` with no overflow trap and no pre-emption pending promotes into every live element of every row the dot product
of its row of A and column of B, clamped to ±(2^23 − 1), and leaves the other elements and tiles as they were (10_matrix.md
R263 to R266): in kmode 0, here with one block, the integer sum with the INT8 corrections of the outlier list, modulo 2^32;
in kmode 1 and 2 the FP32 promotion, which rounds a + sa × (sb × (nar + INT8 corrections) + FP16 corrections) once, for each
sub-block in turn. The outlier counter takes the entries that were not applied. A dot product takes the elements of A and B
that are present and performed, read by their widths or as ±1 (R253, R254). `mmac` in every mode completes when no row traps
or is pre-empted (R263 to R267), and is illegal with an operand or a format that R268 excludes. `vdot` writes the clamped dot
product of one strip, or of a quarter of one, to each element, and zero beyond the last strip (R275). -/
def Obligations.MatrixProductResult : Prop :=
  (∀ (s : State) (t : BitVec 2) (l : BitVec 1) (b : BitVec 6) (a : BitVec 5),
     let x : Mac := ⟨t, s.bank l, b, (s.rd a).toNat % 8, (s.rd a).toNat / 256 % 256⟩
     let nar := fun m n q w => max (-8388607) (min 8388607 (blockDot s x.bank b x.seg m n 0 (upto q w)))
     let liveAt := fun m c rows => m < rows ∧ x.c0 ≤ c ∧ x.seg * 32768 + 128 * (c - x.c0) < s.lanes.vl.toNat ∧
       c - x.c0 < s.lanes.grantE.toNat
     let old := fun m c => mapGet (s.tile t).elem (256 * m + c)
     let outliers := fun m n => (s.tile t).entries.filterMap (fun e =>
       if e.toNat / 2 ^ 16 % 2 ^ 8 = n then
         (s.dotTerm x.bank b x.seg m n 0 (e.toNat / 2 ^ 24 % 2 ^ 7)).map (fun p => (e.toNat, p.1, p.2))
       else none)
     let fix := fun m n => ((outliers m n).map (fun o => if o.1 / 2 ^ 31 = 0 then (signedBytes o.1 1 - o.2.2) * o.2.1 else 0)).sum
     mmacOk s x = true → s.ovftrap = false → s.ctl.preReq = none → fld s.lanes.acst.toNat 16 5 = 0 → x.bank.rows ≤ 32 →
       ∃ u, exec (.mmac t l b a) s = .next (retire u) ∧
         (∀ y, y ≠ t → u.tile y = s.tile y) ∧ u.memory = s.memory ∧ u.regs = s.regs ∧
         u.lanes.acst.toNat / 2 ^ 24 % 2 ^ 24 = min (2 ^ 24 - 1) (s.lanes.acst.toNat / 2 ^ 24 % 2 ^ 24 +
           if s.kmode = 2 then 0 else (s.tile t).overflow.toNat +
             if s.kmode = 0 then (s.tile t).entries.countP (fun e => decide (e.toNat / 2 ^ 31 = 1)) else 0) ∧
         ∀ m c, m < 32 → c < 256 →
           let n := c - x.c0
           let new := mapGet (u.tile t).elem (256 * m + c)
           (s.kmode = 0 → s.blocks = 1 → (liveAt m c x.bank.rows → new = BitVec.ofInt 32 ((old m c).toInt + nar m n 0 128 + fix m n)) ∧
             (¬ liveAt m c x.bank.rows → new = old m c)) ∧
           (s.kmode = 1 → (liveAt m c x.bank.rows → new = BitVec.ofNat 32 (promoteReal (old m c).toNat (x.bank.rowScale m)
               ((s.tile t).colScale c) (x.bank.rowExp m 0) ((s.tile t).colExp c 0) (nar m n 0 128 + fix m n)
               ((outliers m n).map (fun o => ⟨o.1, o.2.1, o.2.2⟩))).val) ∧
             (¬ liveAt m c x.bank.rows → new = old m c)) ∧
           (s.kmode = 2 → (liveAt m c (min x.bank.rows 8) → new = BitVec.ofNat 32 ((upto 0 4).foldl (fun v q =>
               (promoteReal v (x.bank.rowScale m) ((s.tile t).colScale c) (x.bank.rowExp m q) ((s.tile t).colExp c q)
                 (nar m n (32 * q) 32) []).val) (old m c).toNat)) ∧
             (¬ liveAt m c (min x.bank.rows 8) → new = old m c))) ∧
  (∀ (s : State) (bank : Bank) (b : BitVec 6) seg m n j ks, blockDot s bank b seg m n j ks =
     ((ks : List Nat).map (fun k => match s.dotTerm bank b seg m n j k with
       | some p => p.1 * p.2
       | none => 0)).sum) ∧
  (∀ (a rs cs : Nat) (eA eB n : Int) (os : List Outlier), a < 2 ^ 32 → rs < 2 ^ 32 → cs < 2 ^ 32 →
     let r := promoteReal a rs cs eA eB n os
     let real := os.filter (fun o => decide (o.word / 2 ^ 31 % 2 = 1))
     (eA = -32768 ∨ eB = -128 → r = ⟨nan32, 0, qMn, false⟩) ∧
     (eA ≠ -32768 → eB ≠ -128 →
       (Nan32 a ∨ Nan32 rs ∨ Nan32 cs → r.val = nan32 ∧ r.q = 0) ∧
       (Fin32 a → Fin32 rs → Fin32 cs → (∀ o ∈ real, o.word / 2 ^ 10 % 2 ^ 5 ≠ 31) →
         ∀ K : Nat, 400 + eA.natAbs + eB.natAbs ≤ K →
         let two := fun z : Int => (2 : Int) ^ (K + z).toNat
         let term := fixed32 rs * (fixed32 cs * n * two (eA + eB - 298) +
           (real.map (fun o => (fixed16 o.word * two (eA - 173) - fixed32 cs * o.b * two (eA + eB - 298)) * o.a)).sum)
         ∃ y : Exact, r.val = (roundF .rne y).val ∧ r.f = (roundF .rne y).f ∧ r.q = 0 ∧ y.rest = false ∧ -(K : Int) ≤ y.e ∧
           y.units K = fixed32 a * two (-149) + term ∧ (y.m = 0 → y.neg = false)))) ∧
  (∀ (s : State) (t : BitVec 2) (l : BitVec 1) (b : BitVec 6) (a : BitVec 5),
     let x : Mac := ⟨t, s.bank l, b, (s.rd a).toNat % 8, (s.rd a).toNat / 256 % 256⟩
     let rows := if s.kmode = 2 then min x.bank.rows 8 else x.bank.rows
     let m := fld s.lanes.acst.toNat 16 5
     (mmacOk s x = true → ∀ u, mmacRows x (rows - m) m s = .ok u →
       exec (.mmac t l b a) s = .next (retire (addOcnt (setMrow u 0) (ocntStep s t)))) ∧
     (mmacOk s x = true → s.ovftrap = false → s.ctl.preReq = none → ∃ u, mmacRows x (rows - m) m s = .ok u) ∧
     (s.level = .program → mmacOk s x = false → exec (.mmac t l b a) s = .next (kernelEntry s { code := 1 }))) ∧
  (∀ (s : State) (l : BitVec 1) (b : BitVec 6) (a d : BitVec 5), b.toNat < s.nr → b1Ok s (s.bank l) = true →
     let v := (s.rd a).toNat
     let per := if v / 256 % 2 = 1 then 4 else 1
     let dot := fun q => if 256 * per ≤ q then (0 : Int) else
       blockDot s (s.bank l) b (v / 512 % 8) (v % 32) (q / per) 0 (upto (128 / per * (q % per)) (128 / per))
     ∃ u, exec (.vdot l b a d) s = .next (retire u) ∧ u.memory = s.memory ∧ u.regs = s.regs ∧
       WritesWord s u d.toNat (fun q => truncN (max (-8388607) (min 8388607 (dot q))) 32) ∧
       ((∀ q, q < 1024 → -8388607 ≤ dot q ∧ dot q ≤ 8388607) → u.lanes.acst = s.lanes.acst) ∧
       ((∃ q, q < 1024 ∧ (dot q < -8388607 ∨ 8388607 < dot q)) → u.lanes.acst.getLsbD 12 = true))

/-- Filling the latch from the scratchpad and moving tiles to and from memory (10_matrix.md R257, R258, R272): when every
byte is there, the bank holds the gathered rows with their scales and exponents, which `mgathc` converts: an E4M3 row to
integers aligned at the exponent of its largest element (05_numbers.md R135), an MX row to its lane integers and block
exponents (R134), the tile holds the words read, and the memory of the tile's rows holds its elements, a byte that two rows
share holding the later one; the barrier arrivals queued to those bytes precede the access (11_sync.md R286). That `mgathc`
asks only for the bytes that are present is the model's choice (log 17). -/
def Obligations.LatchAndTileTransfers : Prop :=
  (∀ (s : State) (l : BitVec 1) (b a d : BitVec 5),
    let shape := (s.rd b).toNat
    let cb := if bitOf shape 6 then 2 else 1
    let klen := shapeLen shape
    let p := ceilDiv klen 128
    let rows := shapeRows shape (32 / p)
    checkGather s ((upto 0 rows).map (fun m => (rowAddr s shape a d m, klen * cb))) = .ok () →
      ∃ u, exec (.mgath l b a d) s = .next (retire u) ∧ (u.bank l).valid = true ∧ (u.bank l).rows = rows ∧
        (u.bank l).klen = klen ∧ (u.bank l).w = widthOf s.ewa ∧ (u.bank l).sgn = signedOf s.ewa ∧
        (u.bank l).p = p ∧ (u.bank l).cls = 0 ∧
        (∀ m, (u.bank l).rowScale m = 0x3F800000 ∧ ∀ q, (u.bank l).rowExp m q = 0) ∧
        (∀ m k, m < rows → k < klen → (u.bank l).code m k =
          s.num (padLoc (rowAddr s shape a d m) + k * cb) cb % 2 ^ widthOf s.ewa % 2 ^ 16) ∧
        (∀ x, x ≠ l → u.bank x = s.bank x) ∧ u.memory = s.memory ∧ u.regs = s.regs) ∧
  (∀ (s : State) (l : BitVec 1) (b a d : BitVec 5) g,
    let shape := (s.rd b).toNat
    let klen := min (shapeLen shape) 128
    let rows := shapeRows shape (if g.align.isSome then 32 else 8)
    let bytes := if g.nibbles then ceilDiv klen 2 else klen
    gatherFormat (shape / 2 ^ 28 % 16) = some g →
    checkGather s ((upto 0 rows).flatMap (fun m =>
      [(rowAddr s shape a d m, bytes), (rowAddr s shape a d m + w64 g.side, 4)])) = .ok () →
      ∃ u, exec (.mgathc l b a d) s = .next (retire u) ∧ (u.bank l).valid = true ∧ (u.bank l).rows = rows ∧
        (u.bank l).klen = klen ∧ (u.bank l).w = g.width ∧ (u.bank l).p = 1 ∧ (u.bank l).sgn = true ∧
        (u.bank l).cls = (if g.align.isSome then 1 else 2) ∧
        (∀ m, m < rows → let row := convertRow s g (padLoc (rowAddr s shape a d m)) klen
          (u.bank l).rowScale m = row.scale % 2 ^ 32 ∧
          ∀ q, q < 4 → (u.bank l).rowExp m q = (BitVec.ofInt 16 (row.exps.getD q 0)).toInt) ∧
        (∀ m k, m < rows → k < klen → (u.bank l).code m k =
          truncN ((convertRow s g (padLoc (rowAddr s shape a d m)) klen).ints.getD k 0) g.width % 2 ^ 16) ∧
        u.lanes.qflags = (upto 0 rows).foldl (fun q m => q ||| (convertRow s g (padLoc (rowAddr s shape a d m)) klen).q)
          s.lanes.qflags ∧
        (∀ x, x ≠ l → u.bank x = s.bank x) ∧ u.memory = s.memory ∧ u.regs = s.regs) ∧
  ((upto 0 16).map gatherFormat = [some ⟨3, false, 128, 8, some 6⟩, some ⟨3, false, 128, 16, some 14⟩,
    some ⟨5, true, 64, 5, none⟩, some ⟨6, false, 128, 7, none⟩, some ⟨7, false, 128, 10, none⟩,
    some ⟨15, false, 128, 8, none⟩] ++ List.replicate 10 none) ∧
  (∀ (s : State) (g : Gathered) (loc klen : Nat), klen ≤ 128 →
    let row := convertRow s g loc klen
    let code := fun k => if g.nibbles then (s.byte (loc + k / 2)).toNat / 16 ^ (k % 2) % 16 else (s.byte (loc + k)).toNat
    row.ints.length = klen ∧
    (∀ most : Int, g.align = some most → g.fmt = 3 →
      let element := fun k neg m e => k < klen ∧ valOf 3 (code k) = .fin neg m e
      let isNan := ∃ k neg sig, k < klen ∧ valOf 3 (code k) = .nan neg sig
      row.scale = s.num (loc + g.side) 4 ∧ ∃ emax : Int, -6 ≤ emax ∧
        (∀ k neg m e (n : Nat), element k neg m e → 2 ^ n ≤ m → n + e ≤ emax) ∧
        (emax = -6 ∨ ∃ k neg m e, ∃ n : Nat, element k neg m e ∧ 2 ^ n ≤ m ∧ n + e = emax) ∧
        (isNan → row.exps = [-32768, 0, 0, 0]) ∧
        (¬ isNan → row.exps = [emax - most, 0, 0, 0]) ∧
        (∀ k neg sig, k < klen → valOf 3 (code k) = .nan neg sig → row.ints.getD k 0 = 0) ∧
        (∀ k neg m e, element k neg m e → let y := roundGrid .rne ⟨neg, m, e + (most - emax), false⟩ 0
          row.ints.getD k 0 = if neg then -(y.1 : Int) else y.1) ∧
        let inexact := ∃ k neg m e, element k neg m e ∧ (roundGrid .rne ⟨neg, m, e + (most - emax), false⟩ 0).2 = true
        ∃ x y : BitVec 4, row.q = x ||| y ∧ (inexact → x = qAl) ∧ (¬ inexact → x = 0) ∧ (isNan → y = qMn) ∧ (¬ isNan → y = 0)) ∧
    (∀ f : Nat, g.align = none → (g.fmt, f) ∈ ([(5, 1), (6, 3), (7, 4), (15, 6)] : List (Nat × Nat)) →
      let c := fun t => (s.byte (loc + g.side + t)).toNat
      row.scale = 0x3F800000 ∧
      (∀ t, t < 4 → row.exps.getD t 0 = if c t = 255 then -32768 else (c t : Int) - 127 - f) ∧
      (∀ k, k < klen → (c (k / 32) = 255 → row.ints.getD k 0 = 0) ∧
        (c (k / 32) ≠ 255 → ∀ neg m e, valOf g.fmt (code k) = .fin neg m e →
          row.ints.getD k 0 = if neg then -(m * 2 ^ (e + f).toNat : Int) else m * 2 ^ (e + f).toNat)) ∧
      ((∃ t, t < 4 ∧ c t = 255) → row.q = qMn) ∧ ((∀ t, t < 4 → c t ≠ 255) → row.q = 0))) ∧
  (∀ (s : State) (t : BitVec 2) (a b : BitVec 5) hs, (s.rd a).toNat % 4 = 0 → (s.rd b).toNat % 4 = 0 →
    s.memory.poison = [] →
    (tileHits s .vload 3 a b = .ok hs →
      ∀ i f, ((i = .mldI32 t b a ∧ f = false) ∨ (i = .mldF32 t b a ∧ f = true)) →
        let r := arriveBefore s (hitLocs hs)
        ∃ u, exec i s = .next (retire u) ∧ u.tileF32 t = f ∧
          u.lanes.acst.getLsbD (4 + t.toNat) = false ∧ u.lanes.acst.getLsbD (8 + t.toNat) = false ∧
          u.tile t = { s.tile t with elem := (u.tile t).elem } ∧ (∀ x, x ≠ t → u.tile x = s.tile x) ∧
          KeptBytesBut (hs.filterMap (fun h => h.1.leaf)) r u ∧ u.regs = s.regs ∧
          ∀ k, k < 8192 → (mapGet (u.tile t).elem k).toNat = (wordsOf r (hitLocs hs) 8192).getD k 0) ∧
    (tileHits s .vstore 4 a b = .ok hs →
      let ls := hitLocs hs
      let bs := (List.range 8192).flatMap (fun k => leBytes (mapGet (s.tile t).elem k).toNat 4)
      ∃ u, exec (.mst t b a) s = .next (retire u) ∧
        KeptBytesBut (ls ++ hs.filterMap (fun h => h.1.leaf)) (arriveBefore s ls) u ∧ u.regs = s.regs ∧ u.lanes = s.lanes ∧
        (∀ i, i < 32768 → (∀ j, i < j → j < 32768 → ls.getD j 0 ≠ ls.getD i 0) → u.byte (ls.getD i 0) = bs.getD i 0) ∧
        (ls.Nodup → ∀ k, k < 8192 → (wordsOf u ls 8192).getD k 0 = (mapGet (s.tile t).elem k).toNat)))

/-! ### Publication, barriers and timelines -/

/-- Publication and acquisition (11_sync.md R287, R293, R296): `pub` begins a publication and shows nothing yet; `phase` and
`fence` at `pkg`, and the end of a publication, leave every store of the activation visible to the package (what an earlier
activation of the core published at a narrower scope alone is not its to publish, R290, log 23). An acquisition waits for the
publications begun and for the queued barrier arrivals, synchronising reads. That where none is queued no byte that the core
reads changes is the model's choice: its loads always return the latest byte (log 11). Scope code 3 is illegal. -/
def Obligations.PublicationResult : Prop :=
  ∀ (s : State) (c : BitVec 2),
    (c ≠ 3 →
      (∃ t, exec (.pub c) s = .next (retire t) ∧ KeptBytes s t ∧ (∀ a, t.pubByte a = s.pubByte a) ∧
        t.memory.own = [] ∧ (c = 2 → ∀ x ∈ t.memory.unpub, s.isLeft x.1 = true) ∧ t.regs = s.regs) ∧
      (∃ t, exec (.acq c) s = .next (retire t) ∧ t.memory.arrivals = [] ∧ publicationDone t = true ∧
        (s.memory.arrivals = [] → KeptBytes s t ∧ t.memory.unpub = s.memory.unpub) ∧ t.regs = s.regs) ∧
      (∀ i ∈ [Instr.phase c, .fence c], ∃ t, exec i s = .next (retire t) ∧ t.memory.arrivals = [] ∧
        publicationDone t = true ∧ (s.memory.arrivals = [] → KeptBytes s t) ∧
        (c = 2 → ∀ a, s.isLeft a = false → t.pubByte a = t.byte a) ∧ t.regs = s.regs)) ∧
    (s.level = .program → ∀ i ∈ [Instr.pub 3, .acq 3, .phase 3, .fence 3],
      exec i s = .next (kernelEntry s { code := 1 })) ∧
    (∃ t, exec .publication s = .next t ∧ KeptBytes s t ∧ publicationDone t = true ∧ t.memory.unpub = s.memory.unpub ∧
      t.memory.pendPkg = s.memory.pendPkg - s.memory.pubPkg ∧ t.regs = s.regs)

/-- Barriers (11_sync.md R295 to R297, R310): `vfence` queues an arrival at its object; the arrival adds one to the first
word once the publication before it is complete and the pending-byte counter of its scope is zero, and not before; `bar`
commits when the arrivals reach count × sB and waits otherwise. -/
def Obligations.BarrierResult : Prop :=
  (∀ (s : State) a c h, c ≠ 3 → (s.rd a).toNat % 64 = 0 → (s.rd a).toNat < windowBase →
    translate s .atomic (s.rd a) = .ok h → h.type ≠ .control → firstPoison s (s.rd a) (upto h.loc 8) = none →
    ∃ t, exec (.vfence a c) s = .next (retire t) ∧ t.memory.arrivals = s.memory.arrivals ++ [⟨h.loc, c.toNat⟩] ∧
      KeptBytesBut h.leaf.toList s t ∧ t.regs = s.regs) ∧
  (∀ (s : State) x rest, s.memory.arrivals = x :: rest →
    let pending := if x.scope = 0 then s.memory.pendCore else if x.scope = 1 then s.memory.pendDie else s.memory.pendPkg
    (publicationDone s = true → pending = 0 →
      ∃ t, exec .arrival s = .next t ∧ t.memory.arrivals = rest ∧ KeptBytesBut (upto x.loc 8) s t ∧
        t.num x.loc 8 = (s.num x.loc 8 + 1) % 2 ^ 64 ∧ (∀ a ∈ upto x.loc 8, t.pubByte a = t.byte a) ∧ t.regs = s.regs) ∧
    ((publicationDone s = false ∨ pending ≠ 0) → exec .arrival s = .next s)) ∧
  (∀ (s : State) a b c h, c ≠ 3 → (s.rd a).toNat % 64 = 0 → (s.rd a).toNat < windowBase →
    translate s .load (s.rd a) = .ok h → h.type ≠ .control → firstPoison s (s.rd a) (upto h.loc 16) = none →
    let u := syncOrder (beginPublish (markLeaf s h false) c.toNat)
    let arrived := u.num h.loc 8
    let count := u.num (h.loc + 8) 8
    (0 < count → count < 2 ^ 32 → count * (s.rd b).toNat ≤ arrived →
      ∃ t, exec (.bar a b c) s = .next (retire t) ∧ KeptBytes u t ∧ t.regs = s.regs ∧ publicationDone t = true) ∧
    (0 < count → count < 2 ^ 32 → arrived < count * (s.rd b).toNat → exec (.bar a b c) s = .next (waitHere u .bar)) ∧
    (s.level = .program → (count = 0 ∨ 2 ^ 32 ≤ count) →
      exec (.bar a b c) s = .next (kernelEntry s { code := 5, eaddr := s.rd a }))) ∧
  (∀ (s : State) a b c r, s.wait = some .bar → fetchWord s s.pc = .ok r → decode r.1 = some (.bar a b c) →
    exec .barPass s = exec (.bar a b c) s)

/-- Timelines (11_sync.md R300, R310): a counter that has reached the threshold lets `tlwait` and `tlpoll` pass and
acquire; one that has not makes `tlwait` wait and `tlpoll` write 0. -/
def Obligations.TimelineResult : Prop :=
  ∀ (s : State) (n : BitVec 4) (b d : BitVec 5),
    ((s.rd b).toNat ≤ (s.tc n.toNat).toNat → exec (.tlwait n b) s = .next (retire (syncOrder s)) ∧
      exec (.tlpoll d n b) s = .next (retire ((syncOrder s).wr d 1))) ∧
    ((s.tc n.toNat).toNat < (s.rd b).toNat → exec (.tlwait n b) s = .next (waitHere s .timeline) ∧
      exec (.tlpoll d n b) s = .next (retire (s.wr d 0))) ∧
    exec (.tlrd d n) s = .next (retire (s.wr d (s.tc n.toNat))) ∧
    (∀ r, s.wait = some .timeline → fetchWord s s.pc = .ok r → decode r.1 = some (.tlwait n b) →
      exec .tlwaitPass s = exec (.tlwait n b) s)

/-! ### Engines and work -/

/-- A command instruction whose descriptor and record can be accessed, whose descriptor is valid and whose context has
room is accepted (12_engines.md R316, R318): it takes the number after the context's last one, writes it to sD, and the
command holds the descriptor's words, the record address and the level, which is the level at the issue (log 18). It reads the arrivals of the barriers that were queued before it (11_sync.md R301). A full queue makes it wait (R317); a
context that is not of its engine is illegal (R314). A header whose capacity is not listed is rejected, and so, by the model's
reading of 00_scope.md R15, is one with a reserved bit set (log 33). -/
def Obligations.CommandIssueResult : Prop :=
  (∀ (s : State) i fn d a b t u ws k, CommandForm i fn d a b t → s.block = some k →
    let record := if b = 0 then none else some (s.rd b)
    readDescriptor s fn (s.rd a) record = .ok (u, ws) →
    let hdr := queueHeader k t.toNat
    let n := (u.num hdr 8 + 1) % 2 ^ 64
    (s.level = .program → queueCap u k t.toNat < 4 ∨ 12 < queueCap u k t.toNat ∨ headerReserved u hdr = true →
      exec i s = .next (kernelEntry s { code := 10, sub := 1, eaddr := BitVec.ofNat 64 hdr })) ∧
    (4 ≤ queueCap u k t.toNat → queueCap u k t.toNat ≤ 12 → headerReserved u hdr = false →
    (u.num hdr 8 < u.num (hdr + 8) 8 + 2 ^ queueCap u k t.toNat →
      ∃ (v : State) (c : Command), exec i s = .next (retire (v.wr d (BitVec.ofNat 64 n))) ∧ v.num hdr 8 = n ∧ v.regs = s.regs ∧
        v.sched.commands.length = s.sched.commands.length + 1 ∧ v.sched.commands.getLast? = some c ∧
        c.block = k ∧ c.ctx = t.toNat ∧ c.num = n ∧ c.fn = fn ∧ c.desc = s.rd a ∧ c.words = ws ∧ c.record = record ∧
        c.level = s.level ∧ c.ended = none ∧ c.view = [] ∧ c.behind = u.memory.arrivals.length) ∧
    (u.num (hdr + 8) 8 + 2 ^ queueCap u k t.toNat ≤ u.num hdr 8 → exec i s = .next (waitHere s .queue)))) ∧
  (∀ (s : State) (d a b : BitVec 5) (t : BitVec 4), s.level = .program →
    (7 < t.toNat → ∀ i ∈ [Instr.xcopy d a b t, .xconv d a b t, .xzip d a b t, .xexp d a b t, .xfmt d a b t, .xtile d a b t],
      exec i s = .next (kernelEntry s { code := 1 })) ∧
    (t.toNat < 4 → exec (.xtile d a b t) s = .next (kernelEntry s { code := 1 })) ∧
    (t.toNat < 8 ∨ 9 < t.toNat → exec (.xput d a b t) s = .next (kernelEntry s { code := 1 }) ∧
      exec (.xget d a b t) s = .next (kernelEntry s { code := 1 })))

/-- What engines do (12_engines.md R318 to R328): a running context performs the next unit of its oldest command or stops
with the fault of the failed access or the poison, and a faulted unit of an `xget` keeps nothing and reads its source again
(R322); a unit of a plain `xcopy` at firmware addresses in memory below the activation block copies its bytes and changes no
other byte but its queue entry (R318, R330); a unit of a transposed `xcopy` and of one to or from bit planes moves each
element or bit to its place; the same is stated, for firmware addresses, of a unit of an `xconv` from BF16 to FP32 without a
scale, where every element is finite (R335), a unit of an `xtile`, which writes a tile of zeros, the record's bytes or an
earlier tile (R337), of a unit of an `xfmt`, which clears a dense row or places a row's entries, or writes a row's nonzero
columns and values and then the row pointers (R336), of the three phases of `xzip` and a unit of `xexp`, whose blocks hold a
mask and the lines that are not zero (R334; the measuring phase is the model's reading, log 22), and of a unit of `xput` or
`xget`, which translates its local bytes, sends its packet, waits, and goes on with the answer (R320, R338; that a GET
carries its byte count as its payload is the model's choice, log 19); a command that has ended is shown in its queue header,
raises its signal and writes its completion record (R325), and a record that cannot be written faults the context with the
counter already shown. The pending fault of the activation is taken at program level, an integrity error before an engine
fault (17_system.md R439) and of each kind the oldest first, which is the model's reading (log 15); the `tret` from an engine
fault restarts a faulted context at the unit that faulted, or, with abort set, ends its command with status 1 (R322, R323); a
pending signal is taken at program level, which saves the pc with bits [1:0] zero (R326), and `uret` returns from its
handler. -/
def Obligations.EngineEventResult : Prop :=
  ((∀ (s : State) (t : BitVec 4) c, runnable s t.toNat = some c → c.shown = false → c.ended = none →
    (∀ u, performUnit s c = .ok u → exec (.engineUnit t) s = .next u) ∧
    (∀ a kind w hs, performUnit s c = .error (.fault a kind w hs) → ∃ u, exec (.engineUnit t) s = .next u ∧
      queueState u c.block c.ctx = 3 ∧ u.ctl.engPend = s.ctl.engPend ++ [⟨c.ctx, a, kind, w, false⟩] ∧ u.regs = s.regs ∧
      (c.fn = 7 → ∀ d ∈ u.sched.commands, c.same d = true → d.aux = [])) ∧
    (∀ sub hs, performUnit s c = .error (.poison sub hs) → ∃ u, exec (.engineUnit t) s = .next u ∧
      queueState u c.block c.ctx = 3 ∧ u.ctl.engPend = s.ctl.engPend ++ [⟨c.ctx, 0, sub, false, true⟩] ∧ u.regs = s.regs)) ∧
   (∀ (s : State) (t : BitVec 4) c va, runnable s t.toNat = some c → c.shown = true → c.record = some va →
    ∀ i ∈ [Instr.engineUnit t, .commandComplete t],
      (∀ a kind w hs, (engLocs s c true va 32).run {} = .error (.fault a kind w hs) → ∃ u, exec i s = .next u ∧
        queueState u c.block c.ctx = 3 ∧ u.ctl.engPend = s.ctl.engPend ++ [⟨c.ctx, a, kind, w, false⟩] ∧
        u.sched.commands.map (·.num) = s.sched.commands.map (·.num) ∧ u.regs = s.regs) ∧
      (∀ r, (engLocs s c true va 32).run {} = .ok r → ∃ u, exec i s = .next u ∧
        u.sched.commands.map (·.num) = (s.sched.commands.filter (fun d => !c.same d)).map (·.num) ∧ u.regs = s.regs ∧
        u.ctl = s.ctl))) ∧
  (∀ (s : State) (t : BitVec 4) c, runnable s t.toNat = some c → c.shown = false → c.ended = none → c.fn = 0 →
    c.level = .firmware → s.memory.poison = [] →
    let w := fun k => (c.words.getD k 0).toNat
    let row := w 3 / 2 ^ 32 * 2 ^ (w 0 / 2 ^ 4 % 4)
    let per := (row + 4095) / 4096
    let off := c.unit % per * 4096
    let n := min 4096 (row - off)
    let src := w 1 + (c.unit / per * w 4 + off)
    let dst := w 2 + (c.unit / per * w 5 + off)
    let cap := queueCap s c.block c.ctx
    let entry := c.block + 0x1000 + c.ctx * 2 ^ cap * 128 + (c.num - 1) % 2 ^ cap * 128
    w 0 / 2 % 8 = 0 → 0 < w 3 % 2 ^ 32 * per → src + n ≤ 2 ^ 37 → dst + n ≤ 2 ^ 37 → dst + n ≤ c.block →
    ∃ u, exec (.engineUnit t) s = .next u ∧ u.regs = s.regs ∧ KeptBytesBut (upto dst n ++ upto entry 128) s u ∧
      (∀ k, k < n → u.byte (dst + k) = (cellFind c.view (src + k)).getD (s.byte (src + k)))) ∧
  (∀ (s : State) (t : BitVec 4) c, runnable s t.toNat = some c → c.shown = false → c.ended = none → c.level = .firmware →
    s.memory.poison = [] →
    let w := fun k => (c.words.getD k 0).toNat
    let seen := fun a n => leNat ((upto a n).map (fun b => (cellFind c.view b).getD (s.byte b)))
    let cap := queueCap s c.block c.ctx
    let entry := c.block + 0x1000 + c.ctx * 2 ^ cap * 128 + (c.num - 1) % 2 ^ cap * 128
    let Low := fun a n => a + n ≤ 2 ^ 37
    let Out := fun a n => Low a n ∧ a + n ≤ c.block
    let Does := fun (cells : List Nat) (Q : State → Prop) =>
      ∃ u, exec (.engineUnit t) s = .next u ∧ u.regs = s.regs ∧ KeptBytesBut (cells ++ upto entry 128) s u ∧ Q u
    (c.fn = 1 → w 0 / 2 ^ 5 % 2 ^ 11 = 2 →
      let i := 4096 * c.unit
      let n := min 4096 (w 3 - i)
      let el := fun x => seen (w 1 + 2 * (i + x)) 2
      i < w 3 → Low (w 1 + 2 * i) (2 * n) → Out (w 2 + 4 * i) (4 * n) →
      (∀ x, x < n → el x / 2 ^ 7 % 2 ^ 8 ≠ 255) →
      Does (upto (w 2 + 4 * i) (4 * n)) (fun u => ∀ x, x < n → u.num (w 2 + 4 * (i + x)) 4 = el x * 2 ^ 16)) ∧
    (c.fn = 5 → w 3 ≠ 0 →
      let size := 4096 * (w 0 / 2 % 2 ^ 4 + 1)
      let pos := c.aux.headD 0
      let dst := w 2 + c.unit * size
      let hdr := seen (w 1 + pos) 8
      let ref := hdr / 2 ^ 8
      let Tile := fun (next : Nat) (f : Nat → Nat) => Does (upto dst size) (fun u =>
        (∀ k, k < size → (u.byte (dst + k)).toNat = f k) ∧
        ∃ d, u.sched.commands.find? c.same = some d ∧ d.unit = c.unit + 1 ∧ d.aux = [next])
      pos + 8 ≤ w 4 → Low (w 1 + pos) 8 → Out dst size →
      (hdr = 2 → Tile (pos + 8) (fun _ => 0)) ∧
      (hdr = 0 → pos + 8 + size ≤ w 4 → Low (w 1 + pos + 8) size →
        Tile (pos + 8 + size) (fun k => seen (w 1 + pos + 8 + k) 1)) ∧
      (hdr % 2 ^ 8 = 1 → ref < c.unit → Tile (pos + 8) (fun k => seen (w 2 + ref * size + k) 1))) ∧
    (c.fn = 4 → w 0 / 2 % 2 = 1 →
      let eb := 2 ^ (w 0 / 2 ^ 2 % 2 ^ 2)
      let rows := w 2 % 2 ^ 32
      let cols := w 2 / 2 ^ 32
      let row := w 1 + c.unit * w 3
      let lo := seen (w 4 + 4 * c.unit) 4
      let hi := seen (w 4 + 4 * (c.unit + 1)) 4
      let col := fun k => seen (w 5 + 4 * k) 4
      rows ≠ 0 → cols ≠ 0 → Out row (cols * eb) →
      (c.phase = 0 → Does (upto row (cols * eb)) (fun u => ∀ k, k < cols * eb → u.byte (row + k) = 0)) ∧
      (c.phase = 1 → c.unit + 1 < rows → lo ≤ hi → Low (w 4 + 4 * c.unit) 8 → Low (w 5) (4 * hi) → Low (w 6) (eb * hi) →
        (∀ k, lo ≤ k → k < hi → col k < cols) →
        Does ((upto lo (hi - lo)).flatMap (fun k => upto (row + col k * eb) eb)) (fun u => ∀ k, lo ≤ k → k < hi →
          (∀ x, k < x → x < hi → col x ≠ col k) → u.num (row + col k * eb) eb = seen (w 6 + eb * k) eb))) ∧
    let Next := fun (u : State) (phase unit count : Nat) (ended : Option Nat) =>
      ∃ d, u.sched.commands.find? c.same = some d ∧ d.phase = phase ∧ d.unit = unit ∧ d.count = count ∧ d.ended = ended
    (c.fn = 0 → 1 ≤ w 0 / 2 ^ 2 % 4 → w 0 / 2 % 2 = 0 →
      let eb := 2 ^ (w 0 / 2 ^ 4 % 4)
      let pw := w 0 / 2 ^ 6 % 2 ^ 5
      let rows := w 3 % 2 ^ 32
      let cols := w 3 / 2 ^ 32
      let per := (cols * eb + 4095) / 4096
      let lo := c.unit % per * (4096 / eb)
      let hi := min cols (lo + 4096 / eb)
      let r := c.unit / per
      let i := 32768 * c.unit
      let n := min (rows * cols - i) 32768
      let from_ := fun x => w 1 + x / cols * w 4 + x % cols * eb
      let to_ := fun x => w 2 + x / cols * w 5 + x % cols * eb
      let rowOf := fun q => (c.unit * pw + q) * 4096
      (w 0 / 2 ^ 2 % 4 = 1 → r < rows → 0 < cols → eb ≤ w 5 → Low (w 1 + r * w 4 + lo * eb) (4096) →
        Out (w 2 + r * eb) (cols * w 5 + eb) →
        Does ((upto lo (hi - lo)).flatMap (fun k => upto (w 2 + k * w 5 + r * eb) eb)) (fun u => ∀ k, lo ≤ k → k < hi →
          u.num (w 2 + k * w 5 + r * eb) eb = seen (w 1 + r * w 4 + k * eb) eb)) ∧
      (w 0 / 2 ^ 2 % 4 = 2 → i < rows * cols → 1 ≤ pw → (∀ x, x < n → Low (from_ (i + x)) eb) → Out (w 2 + rowOf 0) (pw * 4096) →
        Does (upto (w 2 + rowOf 0) (pw * 4096)) (fun u => ∀ q x, q < pw → x < 32768 →
          (u.byte (w 2 + rowOf q + x / 8)).toNat / 2 ^ (x % 8) % 2 =
            if x < n then seen (from_ (i + x)) eb / 2 ^ q % 2 else 0)) ∧
      (w 0 / 2 ^ 2 % 4 = 3 → i < rows * cols → 1 ≤ pw → cols * eb ≤ w 5 → (∀ q, q < pw → Low (w 1 + rowOf q) 4096) →
        (∀ x, x < n → Out (to_ (i + x)) eb) →
        let bit := fun q x => seen (w 1 + rowOf q + x / 8) 1 / 2 ^ (x % 8) % 2
        Does ((upto i n).flatMap (fun x => upto (to_ x) eb)) (fun u => ∀ x b, x < n → b < 8 * eb →
          u.num (to_ (i + x)) eb / 2 ^ b % 2 =
            if b < pw then bit b x else if w 0 / 2 ^ 11 % 2 = 1 then bit (pw - 1) x else 0))) ∧
    (c.fn = 2 →
      let nblk := w 3 / 4096
      let at_ := c.aux.headD (64 + 8 * nblk)
      let line := fun j k => seen (w 1 + 4096 * c.unit + 64 * j + k) 1
      let full := fun j => (upto 0 64).any (fun k => line j k != 0)
      let rank := fun j => ((upto 0 j).filter full).length
      let size := 8 + 64 * rank 64
      let last := c.unit + 1 = nblk
      c.unit < nblk → Low (w 1 + 4096 * c.unit) 4096 →
      (c.phase = 0 → (¬ last → Does [] (fun u => Next u 0 (c.unit + 1) (at_ + size) none)) ∧
        (last → at_ + size ≤ w 4 → Does [] (fun u => Next u 1 0 (at_ + size) none)) ∧
        (last → w 4 < at_ + size → Does [] (fun u => Next u 0 c.unit (at_ + size) (some 2)))) ∧
      (c.phase = 1 → at_ + size ≤ w 4 → Out (w 2 + at_) size →
        Does (upto (w 2 + at_) size) (fun u =>
          (∀ j, j < 64 → u.num (w 2 + at_) 8 / 2 ^ j % 2 = if full j then 1 else 0) ∧
          (∀ j k, j < 64 → k < 64 → full j = true → (u.byte (w 2 + at_ + 8 + 64 * rank j + k)).toNat = line j k) ∧
          (Next u (if last then 2 else 1) (if last then 0 else c.unit + 1) c.count none) ∧
          ∃ d, u.sched.commands.find? c.same = some d ∧ d.aux = (at_ + size) :: at_ :: c.aux.tail)) ∧
      (c.phase = 2 → c.aux.length = nblk + 1 → Out (w 2) (64 + 8 * nblk) →
        Does (upto (w 2) (64 + 8 * nblk)) (fun u =>
          u.num (w 2) 8 = w 0 / 2 ^ 2 % 4 + nblk % 2 ^ 32 * 2 ^ 8 ∧ u.num (w 2 + 8) 8 = at_ % 2 ^ 64 ∧
          (∀ k, k < 6 → u.num (w 2 + 16 + 8 * k) 8 = 0) ∧
          (∀ b, b < nblk → u.num (w 2 + 64 + 8 * b) 8 = c.aux.getD (nblk - b) 0 % 2 ^ 64) ∧ Next u 2 1 at_ (some 0)))) ∧
    (c.fn = 3 →
      let nblk := seen (w 1) 8 / 2 ^ 8
      let size := seen (w 1 + 8) 8
      let at_ := seen (w 1 + 64 + 8 * c.unit) 8
      let mask := seen (w 1 + at_) 8
      let rank := fun j => ((upto 0 j).filter (fun l => mask / 2 ^ l % 2 == 1)).length
      w 1 % 64 = 0 → seen (w 1) 8 / 2 ^ 2 % 2 ^ 6 = 0 → nblk < 2 ^ 32 → (∀ k, k < 6 → seen (w 1 + 16 + 8 * k) 8 = 0) →
      64 + 8 * nblk ≤ size → c.unit < nblk → at_ < 2 ^ 40 → at_ % 8 = 0 → at_ + 8 + 64 * rank 64 ≤ size → Low (w 1) size →
      Out (w 2 + 4096 * c.unit) 4096 →
      Does (upto (w 2 + 4096 * c.unit) 4096) (fun u =>
        (∀ j k, j < 64 → k < 64 → (u.byte (w 2 + 4096 * c.unit + 64 * j + k)).toNat =
          if mask / 2 ^ j % 2 = 1 then seen (w 1 + at_ + 8 + 64 * rank j + k) 1 else 0) ∧
        Next u c.phase (c.unit + 1) (4096 * nblk) (if c.unit + 1 < nblk then none else some 0))) ∧
    (c.fn = 4 → w 0 / 2 % 2 = 0 →
      let eb := 2 ^ (w 0 / 2 ^ 2 % 2 ^ 2)
      let rows := w 2 % 2 ^ 32
      let cols := w 2 / 2 ^ 32
      let el := fun k => seen (w 1 + c.unit * w 3 + eb * k) eb
      let es := (upto 0 cols).filter (fun k => if w 0 / 2 ^ 4 % 2 = 1 then el k % 2 ^ (8 * eb - 1) != 0 else el k != 0)
      let m := min es.length (w 7 - c.count)
      let n := min 1024 (rows + 1 - 1024 * c.unit)
      rows ≠ 0 → cols ≠ 0 →
      (c.phase = 0 → Low (w 1 + c.unit * w 3) (cols * eb) → Out (w 5 + 4 * c.count) (4 * m) → Out (w 6 + eb * c.count) (eb * m) →
        ApartRanges (w 5 + 4 * c.count) (4 * m) (w 6 + eb * c.count) (eb * m) →
        Does (upto (w 5 + 4 * c.count) (4 * m) ++ upto (w 6 + eb * c.count) (eb * m)) (fun u =>
          (∀ k x, k < m → es[k]? = some x → u.num (w 5 + 4 * (c.count + k)) 4 = x ∧ u.num (w 6 + eb * (c.count + k)) eb = el x) ∧
          Next u (if c.unit + 1 = rows then 1 else 0) (if c.unit + 1 = rows then 0 else c.unit + 1) (c.count + es.length)
            (if c.unit + 1 = rows ∧ w 7 < c.count + es.length then some 2 else none))) ∧
      (c.phase = 1 → c.aux.length = rows → 1024 * c.unit ≤ rows → Out (w 4 + 4096 * c.unit) (4 * n) →
        Does (upto (w 4 + 4096 * c.unit) (4 * n)) (fun u => ∀ k, k < n →
          u.num (w 4 + 4096 * c.unit + 4 * k) 4 = (c.aux.reverse ++ [c.count]).getD (1024 * c.unit + k) 0 % 2 ^ 32))) ∧
    (c.fn = 6 ∨ c.fn = 7 → w 3 ≠ 0 →
      let off := 4096 * c.unit
      let n := min 4096 (w 3 - off)
      let onward := fun u => Next u c.phase (c.unit + 1) (c.count + n) (if 4096 * (c.unit + 1) < w 3 then none else some 0)
      (c.aux = [] → peerOpen s (w 4) = false → Does [] (fun u => Next u c.phase c.unit c.count (some 4))) ∧
      (c.aux = [] → peerOpen s (w 4) = true → c.phase = 0 → Low (w 1 + off) n → w 2 + off < 2 ^ 64 →
        Does [] (fun u => Next u 0 c.unit c.count none ∧ ∃ k ∈ u.hub.conns, ∃ x, k.pending.getLast? = some x ∧ x.2 = 0 ∧
          k.id.toNat = s.peerWord (w 4) 0 / 2 ^ 32 ∧ x.1.conn = k.id ∧ x.1.seq = k.sent ∧ x.1.addr.toNat = w 2 + off ∧
          (c.fn = 6 → x.1.kind = 7 ∧ x.1.data.length = n ∧ ∀ j b, x.1.data[j]? = some b → b.toNat = seen (w 1 + off + j) 1) ∧
          (c.fn = 7 → x.1.kind = 8 ∧ leNat x.1.data = n))) ∧
      (∀ q id epoch k, c.aux = [q, id, epoch] → anyConn s id epoch = some k → k.refused.contains q = false →
        (c.fn = 6 → k.pending.any (fun d => d.1.seq.toNat == q) = false → Does [] onward) ∧
        (c.fn = 6 → k.pending.any (fun d => d.1.seq.toNat == q) = true → connOpen s k = true →
          exec (.engineUnit t) s = .next s) ∧
        (∀ bs, c.fn = 7 → k.replies.lookup q = some bs → Out (w 1 + off) bs.length → bs.length ≤ 4096 →
          Does (upto (w 1 + off) bs.length) (fun u => onward u ∧ ∀ j b, bs[j]? = some b → u.byte (w 1 + off + j) = b))))) ∧
  (∀ (s : State) (t : BitVec 4) c, runnable s t.toNat = some c → c.shown = false → c.ended.isSome = true →
    let hdr := queueHeader c.block c.ctx
    (c.record = none ∨ (c.level = .firmware ∧ ∃ va, c.record = some va ∧ va.toNat % 32 = 0 ∧ va.toNat + 32 ≤ 2 ^ 37 ∧
      (va.toNat + 32 ≤ hdr ∨ hdr + 64 ≤ va.toNat))) →
    ∃ u, exec (.commandComplete t) s = .next u ∧ u.num (hdr + 8) 8 = c.num % 2 ^ 64 ∧ u.regs = s.regs ∧
      u.ctl = { s.ctl with ustat :=
        if (c.words.getD 0 0).getLsbD 0 then s.ctl.ustat ||| BitVec.ofNat 17 (2 ^ c.ctx) else s.ctl.ustat } ∧
      (c.ended ≠ some 0 → (∀ va, c.record = some va → va.toNat + 32 ≤ hdr ∨ hdr + 64 ≤ va.toNat) →
        u.num (hdr + 48) 8 = c.num % 2 ^ 64 ∧ u.num (hdr + 56) 8 = c.ended.getD 0 % 2 ^ 64) ∧
      ∀ va, c.record = some va →
        u.num va.toNat 8 = c.num % 2 ^ 64 ∧
        u.num (va.toNat + 8) 8 = (c.ended.getD 0 + c.ctx * 2 ^ 8 + c.fn * 2 ^ 12 + c.fflags.toNat * 2 ^ 32 +
          c.qflags.toNat * 2 ^ 37) % 2 ^ 64 ∧
        u.num (va.toNat + 16) 8 = c.result % 2 ^ 64 ∧ u.num (va.toNat + 24) 8 = c.desc.toNat) ∧
  ((∀ (s : State) f rest, s.ctl.engPend = f :: rest → s.engineBoundary = true → (∀ x ∈ s.ctl.engPend, x.poison = false) →
    f.ctx < 16 →
    ∃ u, exec .engineFault s = .next u ∧ u.ctl.engPend = rest ∧ u.level = .kernel ∧
      u.ctl.ecause = BitVec.ofNat 64 (10 + 2 ^ 16 * f.ctx) ∧ u.ctl.eaddr = f.addr ∧ u.ctl.epc = s.pc &&& ~~~3#64 ∧
      u.regs = s.regs ∧ u.memory = s.memory) ∧
   (∀ (s : State) f before rest, s.ctl.engPend = before ++ f :: rest → s.engineBoundary = true → f.poison = true →
    (∀ x ∈ before, x.poison = false) →
    ∃ u, exec .engineFault s = .next u ∧ u.ctl.engPend = before ++ rest ∧
      EntersKernel s u (BitVec.ofNat 64 (11 + f.kind % 256 * 256)) s.pc 0)) ∧
  (∀ (s : State) b t c, s.block = some b → t < 10 → s.level = .kernel → s.atLoopEnd = false →
    s.actParty = s.sched.party →
    queueState s b t = 3 → oldest s b t = some c →
    (s.ctl.ecause.toNat % 65536 = 10 ∨ ∀ f ∈ s.ctl.engPend, f.ctx ≠ t) →
    ∃ u, exec .tret s = .next u ∧ (u.pubByte (queueHeader b t + 16)).getLsbD 2 = false ∧
      u.ctl.engPend.filter (fun f => f.ctx == t) = [] ∧
      let first := (oldest u b t).map (fun d => { d with view := [] })
      (queueAbort s b t = false → queueState u b t = 1 ∧ first = some { c with view := [] }) ∧
      (queueAbort s b t = true → c.shown = false →
        queueState u b t = 1 ∧ first = some { c with view := [], ended := some 1 })) ∧
  (∀ s : State, s.atBoundary = true → mmacInProgress s = false → s.ctl.uvec.getLsbD 0 = true → s.inHandler = false →
    s.ctl.ustat.toNat % 2 ^ 11 ≠ 0 → s.level = .program → s.frame.live = false → s.strip.live = false →
    s.ctl.preReq = none →
    ∃ u, exec .userLevelInterrupt s = .next u ∧ u.pc = s.ctl.uvec &&& ~~~3#64 ∧ u.ctl.uepc = s.pc &&& ~~~3#64 ∧ u.inHandler = true ∧
      u.ctl.ustat.toNat % 2 ^ 11 = s.ctl.ustat.toNat % 2 ^ 11 ∧ u.regs = s.regs ∧ u.memory = s.memory ∧
      u.loops = s.loops ∧ u.lanes = s.lanes) ∧
  (∀ s : State, s.level = .program → s.inHandler = true → s.atLoopEnd = false →
    ∃ u, exec .uret s = .next u ∧ u.pc = s.ctl.uepc ∧ u.inHandler = false ∧ u.instret = s.instret + 1 ∧
      u.ctl.ustat.toNat = s.ctl.ustat.toNat % 2 ^ 16 ∧ u.memory = s.memory ∧ u.regs = s.regs ∧ u.shadow = s.shadow)

/-- Creating, joining and ending work (13_work.md R354 to R359). `spawn` counts the child in its parent's block and puts the
record, read after the arrivals queued to its bytes (11_sync.md R286), at the tail of the queue, and takes the integrity
error where that block is poisoned (18_platform.md R475); a tile task whose block still counts children is held, and not yet
counted (log 35). `join` goes on when the count is not positive, and otherwise parks the activation and keeps a pending
request; `yield` goes on unless more urgent work waits, the other sequencers of the die not being idle (log 5); `done` ends
the activation, and at kernel level it publishes nothing, so that what the activation had published at no scope is undone,
and discharges the request (log 23); a `join` that parks and a `yield` wait while a unit of `xput` or `xget` is in flight
(12_engines.md R313, log 22), and only that `join` is at a boundary, where it can be pre-empted (R363); the party that stored
it reads it again when it comes back to the core (11_sync.md R286). That a join block with a reserved bit set is rejected,
and so is a parked record that `done` would ready, is the model's reading of 00_scope.md R15 (log 33). -/
def Obligations.WorkInstructionResult : Prop :=
  (∀ (s : State) a b h p, outsideHandler s = true → (s.rd a).toNat % 32 = 0 → translate s .load (s.rd a) = .ok h →
    h.type ≠ .control → firstPoison s (s.rd a) (upto h.loc 32) = none →
    let u := markLeaf (accessOrder s (h.type == .sync) (upto h.loc 32)) h false
    let w := fun k => u.num (h.loc + 8 * k) 8
    let dq := selectQueue (s.rd b).toNat
    (w 3 / 2 ^ 6 % 2 ^ 49 = 0 ∧ p = none ∨
      w 3 / 2 ^ 6 % 2 ^ 49 ≠ 0 ∧ ∃ q, objectHit u .atomic 4 (parentBlock (w 3)) = .ok q ∧ p = some q) →
    (s.level = .program → ∀ q x sub, p = some q → firstPoison u (parentBlock (w 3)) (upto q.loc 64) = some (x, sub) →
      exec (.spawn a b) s = .next (kernelEntry s { code := 11, sub := sub, eaddr := x })) ∧
    ((∀ q, p = some q → firstPoison u (parentBlock (w 3)) (upto q.loc 64) = none) →
    (s.level = .program → recordBad s (w 3) (w 0) dq = true ∨ (∃ q, p = some q ∧ blockReserved u q.loc = true) →
      exec (.spawn a b) s = .next (kernelEntry s { code := 10, sub := 1, eaddr := s.rd a })) ∧
    (recordBad s (w 3) (w 0) dq = false → (∀ q, p = some q → blockReserved u q.loc = false) →
    (queueFull s dq = true → exec (.spawn a b) s = .next (waitHere s .queue)) ∧
    (queueFull s dq = false →
      (∀ q, p = some q → w 3 / 2 ^ 55 % 4 = 1 → countDone ((syncOrder (markLeaf u q true)).num q.loc 8) = false →
        let v := publishAll (markLeaf u q true)
        ∃ r, exec (.spawn a b) s = .next (retire
            { v with sched := { v.sched with heldTasks := v.sched.heldTasks ++ [⟨q.loc, dq, r⟩] } }) ∧
          r.code.toNat = w 0 ∧ r.frame.toNat = w 1 ∧ r.wid.toNat = w 2 ∧ r.tag.toNat = w 3) ∧
      ((w 3 / 2 ^ 55 % 4 ≠ 1 ∨ p = none ∨
          ∃ q, p = some q ∧ countDone ((syncOrder (markLeaf u q true)).num q.loc 8) = true) →
        let v := publishAll (match p with
          | none => u
          | some q => (atomicAt (markLeaf u q true) q.loc 8 (fun c => c + 1)).2)
        ∃ t r x, exec (.spawn a b) s = .next (retire t) ∧
          t = { v with sched := { v.sched with queues := t.sched.queues } } ∧
          t.sched.queues = s.sched.queues ++ [(dq, .record r x)] ∧ r.code.toNat = w 0 ∧ r.frame.toNat = w 1 ∧
          r.wid.toNat = w 2 ∧ r.tag.toNat = w 3 - w 3 % 8 + clampPrio s dq (w 3 % 8)))))) ∧
  (∀ (s : State) a b h ps, s.level = .program → s.inHandler = false → s.atLoopEnd = false →
    joinChecks s (s.rd a) (s.rd b) = .ok (h, ps) → firstPoison s (s.rd a) (upto h.loc 64) = none →
    let u := syncOrder (markLeaf s h true)
    (blockReserved u h.loc = true → exec (.join a b) s = .next (kernelEntry s { code := 10, sub := 1, eaddr := s.rd a })) ∧
    (blockReserved u h.loc = false → countDone (u.num h.loc 8) = true → ∃ t, exec (.join a b) s = .next (retire t) ∧ KeptBytes u t ∧
      t.memory.arrivals = [] ∧ t.regs = s.regs ∧ t.sched.queues = s.sched.queues) ∧
    (∀ x, blockReserved u h.loc = false → countDone (u.num h.loc 8) = false → u.num (h.loc + 8) 8 % 2 = 0 → s.sched.act = some x →
      (unitInFlight s = true → exec (.join a b) s = .next (waitHere s .park) ∧
        (s.mode = .running → (waitHere s .park).atBoundary = true)) ∧
      (unitInFlight s = false →
      let v := publishAll (saveImage u (s.rd b) (resumePc s) ps)
      (countDone (v.num h.loc 8) = false →
        ∃ t, exec (.join a b) s = .next t ∧ t.mode = .idle ∧ t.sched.act = none ∧ t.instret = s.instret + 1 ∧
          t.ctl.preReq = s.ctl.preReq ∧ t.num (h.loc + 32) 8 = (s.rd b).toNat ∧ t.num (h.loc + 40) 8 = (s.rd 29).toNat ∧
          t.num (h.loc + 48) 8 = s.ctl.wid.toNat ∧ t.num (h.loc + 8) 8 % 2 = 1 ∧
          ∀ y ∈ t.sched.saved, y.asid = x.asid → y.image = s.rd b → y.parked = true) ∧
      (countDone (v.num h.loc 8) = true →
        ∃ t, exec (.join a b) s = .next (retire t) ∧ t.regs = s.regs ∧ t.pc = s.pc ∧ t.instret = s.instret ∧
          t.sched.act = s.sched.act ∧ t.sched.saved = s.sched.saved ∧ t.sched.queues = s.sched.queues ∧ t.ctl = s.ctl ∧
          t.memory.arrivals = [] ∧ (s.block = none → KeptBytes v t))))) ∧
  (∀ (s : State) a x, s.level = .program → s.inHandler = false → s.atLoopEnd = false → s.sched.act = some x →
    let own := x.record.tag.toNat % 8
    let stays := s.ctl.preReq.isSome ∨ a = 0 ∨ s.mode = .idle ∨ queueFull s x.home = true ∨
      dieHead s (fun p => decide (own ≤ p)) = none
    (stays → exec (.yield a) s = .next (goto s (s.pc + 4) true)) ∧
    (∀ ps, ¬ stays → checkSave s (s.rd a) = .ok ps → unitInFlight s = true → exec (.yield a) s = .next (waitHere s .save)) ∧
    (∀ ps, ¬ stays → checkSave s (s.rd a) = .ok ps → unitInFlight s = false → ∃ t r y, exec (.yield a) s = .next t ∧ t.mode = .idle ∧
      t.sched.act = none ∧ t.instret = s.instret + 1 ∧ t.sched.queues = s.sched.queues ++ [(x.home, .record r y)] ∧
      r.code = s.rd a)) ∧
  (∀ s : State, s.atLoopEnd = false →
    (s.level ≠ .program → ∃ t, exec .done s = .next t ∧ t.mode = .idle ∧ t.level = .program ∧ t.sched.act = none ∧
      t.instret = s.instret + 1 ∧ t.loops = [] ∧ t.ctl.preReq = none ∧ t.memory.own = [] ∧
      t.sched.queues = s.sched.queues ∧ KeptBytesBut (s.memory.own.map (·.1)) s t ∧
      ((s.memory.own.map (·.1)).Nodup → ∀ c ∈ s.memory.own, t.byte c.1 = c.2) ∧
      ((s.memory.unpub.map (·.1)).Nodup →
        (∀ c ∈ s.memory.own, (cellFind s.memory.unpub c.1).isSome ∨ (cellFind s.memory.pubq c.1).isSome) →
        ∀ a, t.pubByte a = s.pubByte a) ∧
      ∀ p v, s.sched.party = some p → (∀ y ∈ s.sched.away, y.party ≠ p) → v.memory = t.memory → v.sched.away = t.sched.away →
        v.actParty = some p → ∀ c ∈ s.memory.own, (enterParty v).byte c.1 = s.byte c.1) ∧
    (s.level = .program → enginesDone s = false → exec .done s = .next (waitHere s .retire)) ∧
    (∀ x, s.level = .program → enginesDone s = true → s.sched.act = some x →
      x.record.tag.toNat / 2 ^ 6 % 2 ^ 49 = 0 → ∃ t, exec .done s = .next t ∧ t.mode = .idle ∧ t.sched.act = none ∧
        t.instret = s.instret + 1 ∧ t.loops = [] ∧ t.sched.queues = s.sched.queues ∧
        (∀ y ∈ t.memory.unpub, s.isLeft y.1 = true) ∧ t.ctl.preReq = none) ∧
    (∀ x h, s.level = .program → enginesDone s = true → s.sched.act = some x →
      x.record.tag.toNat / 2 ^ 6 % 2 ^ 49 ≠ 0 → objectHit s .atomic 4 (parentBlock x.record.tag.toNat) = .ok h →
      firstPoison s (parentBlock x.record.tag.toNat) (upto h.loc 64) = none →
      let v := publishAll s
      let tag := v.num (h.loc + 56) 8
      let rejects := blockReserved v h.loc = true ∨ (v.num h.loc 8 = 1 ∧ v.num (h.loc + 8) 8 % 2 = 1 ∧
        (tag / 2 ^ 3 % 8 ≠ 0 ∨ tag / 2 ^ 57 % 2 ^ 7 ≠ 0 ∨ tag / 2 ^ 55 % 4 = 3))
      (rejects → exec .done s = .next (kernelEntry s { code := 10, sub := 1, eaddr := parentBlock x.record.tag.toNat })) ∧
      (¬ rejects →
      (∀ v, decrement (markLeaf (publishAll s) h true) h.loc = some v → ∃ t, exec .done s = .next t ∧ t.mode = .idle ∧
        t.sched.act = none ∧ t.instret = s.instret + 1 ∧ t.sched.queues = v.sched.queues) ∧
      (decrement (markLeaf (publishAll s) h true) h.loc = none → exec .done s = .next (waitHere s .queue)))))

/-- Launches and the scheduler (13_work.md R342 to R347, R351, R352, R362): `widf` extracts a field; `launch` is accepted
into every queue it names and takes a work-timeline number; an idle core starts the head record of the chosen queue, or the
next unit of the launch at its head; a tile task starts with its descriptor checked and runs the lines of its sequence (R359;
10_matrix.md R277, R278), its last line, `mst` and `done`, in one step; that the operands of a line stand in s12 to s15, and
that the wait for a grant in a line takes no pre-emption that is not forced, is the model's choice (log 23), and so is that
it starts with s1 and s29 zero, its wid and frame not being used (log 37); a core whose unit has an item parked in a join
block takes nothing else (R344, R345, log 23); a complete launch shows its number; more urgent work raises a pre-emption
request, on this core, the other cores counting as neither idle nor running work of lower priority (log 5). -/
def Obligations.SchedulingResult : Prop :=
  (∀ (s : State) (d k b : BitVec 5), k.toNat ≤ 5 →
    let src := if b = 0 then s.ctl.wid else s.rd b
    let shape := s.ctl.wfields.toNat
    let start := ((List.range k.toNat).map (fun j => shape / 2 ^ (8 * j) % 128)).sum
    exec (.widf d k b) s = .next (retire (s.wr d (BitVec.ofNat 64
      (if shape / 2 ^ 48 % 8 ≤ k.toNat then 0 else src.toNat / 2 ^ start % 2 ^ (shape / 2 ^ (8 * k.toNat) % 128)))))) ∧
  (∀ (s : State) d a u ws, outsideHandler s = true → loadDescriptor s (s.rd a) = .ok (u, ws) →
    let hw := ws.map (·.toNat)
    let queues := targetQueues hw
    let cw := ws.getD 6 0
    (cw = 0 ∨ ∃ h, translateBytes (translate u) .store cw 8 = .ok h) → headerOk hw = true → (∀ dq ∈ queues, queueBound s dq = true) →
    (∀ dq ∈ queues, queueFull s dq = false) →
    let sel := hw.getD 4 0 / 2 ^ 42 % 8
    ∀ k, (sel = 0 ∨ s.block = some k) →
      let n := if sel = 0 then 0 else (u.num (k + 0x280 + 16 * (sel - 1)) 8 + 1) % 2 ^ 64
      ∃ (v : State) (l : Launch), exec (.launch d a) s = .next (retire (v.wr d (BitVec.ofNat 64 n))) ∧ v.regs = s.regs ∧
        v.sched.launches = s.sched.launches ++ [l] ∧ l.words = ws ∧ l.queues = queues ∧ l.level = s.level ∧ l.finished = 0 ∧ l.next = 0 ∧
        v.sched.queues = s.sched.queues ++ (if l.items = 0 then [] else queues.map (fun dq => (dq, .launch l.id)))) ∧
  (∀ (s : State) c r x, s.mode = .idle → s.sched.coreUnit = none → chooseQueue s = some c →
    (queueEntries s c.1).head? = some (.record r x) → r.tag.toNat / 2 ^ 55 % 4 = 0 →
    blockBusy s (nextBlock s) = false → ∃ t, exec .takeRecord s = .next t ∧ t.mode = .running ∧ t.level = .program ∧
      t.pc = r.code ∧ t.rd 1 = r.wid ∧ t.rd 29 = r.frame ∧ (∀ q, q ≠ 1 → q ≠ 29 → t.rd q = 0) ∧ t.loops = [] ∧
      t.ctl.wid = r.wid ∧ (t.sched.act.map (·.record)) = some r) ∧
  (∀ (s : State) c id l, s.mode = .idle → s.sched.coreUnit = none → chooseQueue s = some c →
    (queueEntries s c.1).head? = some (.launch id) → s.sched.launches.find? (fun x => x.id == id) = some l →
    let w := fun k => (l.words.getD k 0).toNat
    let width := fun k => w 2 / 2 ^ (8 * k) % 2 ^ 7
    let off := fun k => ((List.range k).map width).sum
    let count := fun k => w 3 / 2 ^ off k % 2 ^ width k + 1
    let size := fun m => ((List.range m).map count).prod
    let ident := fun x => ((List.range (w 2 / 2 ^ 48 % 8)).map (fun k => x / size k % count k * 2 ^ off k)).sum
    let items := if w 4 / 2 ^ 40 % 2 = 1 then 0 else size (w 2 / 2 ^ 48 % 8)
    let Highest := fun (p : Nat → Prop) (m : Nat) =>
      m ≤ 6 ∧ (m = 0 ∨ p (w 4 / 2 ^ (2 * (m - 1)) % 4)) ∧ ∀ k, m < k → k ≤ 6 → ¬ p (w 4 / 2 ^ (2 * (k - 1)) % 4)
    ∀ m d, Highest (fun x => x = 1) m → Highest (fun x => x = 1 ∨ x = 2) d →
    let g := l.next / size d
    let mine := d = 0 ∨ l.groups.lookup g = none ∨ l.groups.lookup g = some Config.dieId
    (items ≤ l.next ∨ ¬ mine → exec .takeRecord s = .next s) ∧
    (l.next < items → mine → w 4 / 2 ^ 41 % 2 = 0 → blockBusy s (nextBlock s) = false →
      ∃ t l', exec .takeRecord s = .next t ∧ t.mode = .running ∧ t.level = .program ∧ t.pc.toNat = w 0 ∧
        t.rd 1 = BitVec.ofNat 64 (ident l.next) ∧ t.ctl.wid = BitVec.ofNat 64 (ident l.next) ∧ (t.rd 29).toNat = w 1 ∧
        (∀ q, q ≠ 1 → q ≠ 29 → t.rd q = 0) ∧ t.ctl.wfields.toNat = w 2 ∧
        t.sched.act.map (fun a => (a.item, a.home, a.record.tag.toNat)) =
          some (some id, c.1, min (w 4 / 2 ^ 16 % 8) (s.queueWord c.1 2 / 2 ^ 5 % 8)) ∧
        t.sched.coreUnit = (if m = 0 then none else some ⟨id, l.next + 1, l.next + size m, size m⟩) ∧
        t.sched.launches.find? (fun x => x.id == id) = some l' ∧ l'.next = l.next + size m ∧
        l'.groups = (if d ≠ 0 ∧ l.groups.lookup g = none then l.groups ++ [(g, Config.dieId)] else l.groups) ∧
        (l'.next < items → d = 0 → t.sched.queues = s.sched.queues) ∧
        (items ≤ l'.next → t.sched.queues = s.sched.queues.filter (fun e => e.2 != .launch id)) ∧
        (l'.next < items → d ≠ 0 → t.sched.queues = s.sched.queues.filter (fun e => e.2 != .launch id ||
          (l'.groups.lookup ((items - 1) / size d)).isNone ||
          l'.groups.any (fun x => x.2 == e.1 / 64 && decide (l'.next < (x.1 + 1) * size d)))))) ∧
  (∀ (s : State) c r x, s.mode = .idle → s.sched.coreUnit = none → chooseQueue s = some c →
    (queueEntries s c.1).head? = some (.record r x) → r.tag.toNat / 2 ^ 55 % 4 = 1 →
    blockBusy s (nextBlock s) = false → ∃ u : State, u.mode = .running ∧ u.level = .program ∧ u.pc = r.code ∧ u.regs = [] ∧
      u.wait = none ∧ AtLine u 0 ∧ u.sched.act.map (·.record) = some r ∧ u.lanes.vcfg = 0 ∧ u.lanes.grantE = u.lanes.grantG ∧
      (∀ v ws, loadDescriptor u r.code = .ok (v, ws) → TileDescriptorOk ws → exec .takeRecord s = .next v) ∧
      (∀ v ws, loadDescriptor u r.code = .ok (v, ws) → ¬ TileDescriptorOk ws →
        ∃ t, exec .takeRecord s = .next t ∧ EntersKernel u t (10 + 3 * 2 ^ 8) r.code r.code) ∧
      (∀ tr, loadDescriptor u r.code = .error (.trap tr) → exec .takeRecord s = .next (kernelEntry u tr))) ∧
  (∀ (s : State) line ws u, RunsLine s line ws u →
    let w := fun k => (ws.getD k 0).toNat
    let j := (s.rd 9).toNat
    let c0 := (s.rd 10).toNat
    let nk := w 0 / 2 ^ 32 % 2 ^ 5 + 1
    let bank : BitVec 1 := BitVec.ofNat 1 j
    let code := if w 0 / 2 ^ 31 % 2 = 1 then w 0 / 2 ^ 24 % 2 ^ 7 else w 0 / 2 ^ 16 % 2 ^ 7
    let base := if w 0 / 2 ^ 31 % 2 = 1 then w 5 else w 4
    let g := (s.sched.act.map (·.macroG)).getD 0
    let To := fun (next : Nat) (t : State) => step s = ticked (.next t) ∧ AtLine t next ∧ t.pc = s.pc ∧ t.commit = some .boundary
    let Runs := fun (next again : Nat) (i : Instr) (x : State) (more : State → State) => ∀ v, exec i x = .next v → v.wait = none →
      (v.level = .program → ∃ t, To next t ∧ t.regs = (more v).regs ∧ t.lanes = v.lanes ∧ t.memory = v.memory) ∧
      (v.level = .kernel → v.sched.act.isSome = true → ∃ t, step s = ticked (.next t) ∧ t.level = .kernel ∧ t.ctl = v.ctl ∧
        t.regs = v.regs ∧ t.memory = v.memory ∧ t.sched.act.map (·.macroStep) = some again)
    (line = 0 → ∃ t, To 1 t ∧ t.lanes.vcfg = 0 ∧ t.lanes.mcfg.toNat = w 0 % 2 ^ 8 ∧ t.regs = s.regs ∧ t.memory = u.memory) ∧
    (line = 2 → (s.rd 11 ≠ 0 → ∃ t, To 3 t ∧ t.lanes = s.lanes ∧ t.regs = s.regs) ∧
      (s.rd 11 = 0 → Runs 3 2 (if w 0 % 4 = 0 then .mzeroI32 0 else .mzeroF32 0) u (fun v => v.wr 11 1))) ∧
    (line = 3 → (4 ≤ s.lanes.grantG.toNat → ∃ t, To 4 t ∧ t.lanes.grantE = s.lanes.grantG ∧
        t.sched.act.map (·.macroG) = some (min (4 * (s.lanes.grantG.toNat / 4)) (256 - c0))) ∧
      (s.lanes.grantG.toNat < 4 → ∃ t, step s = ticked (.next t) ∧ AtLine t 12 ∧ t.pc = s.pc ∧ t.commit = some .plain ∧
        t.lanes.grantE = s.lanes.grantG)) ∧
    (line = 12 → (4 ≤ s.lanes.grantG.toNat → ∃ t, To 4 t ∧ t.lanes.grantE = s.lanes.grantG ∧
        t.sched.act.map (·.macroG) = some (min (4 * (s.lanes.grantG.toNat / 4)) (256 - c0))) ∧
      (s.lanes.grantG.toNat < 4 → ∃ t, step s = ticked (.next t) ∧ AtLine t 12 ∧ t.pc = s.pc ∧ t.commit = none ∧
        t.wait = some .grant ∧ t.instret = s.instret ∧ t.lanes = s.lanes ∧ t.regs = s.regs)) ∧
    (line = 4 → ∃ t, To 5 t ∧ t.regs = s.regs ∧ t.lanes.grantE = s.lanes.grantG ∧ t.sched.act.map (·.macroG) = some g ∧
      t.lanes.vl.toNat = min (128 * g) (min s.vlmax
        (if s.lanes.grantG.toNat = 256 then s.vlmax else 128 * s.lanes.grantG.toNat)) ∧
      (1 ≤ w 0 / 2 ^ 8 % 64 → w 0 / 2 ^ 8 % 64 ≤ 16 → t.lanes.ewa.toNat = w 0 / 2 ^ 8 % 2 ^ 7) ∧
      (1 ≤ code % 64 → code % 64 ≤ 16 → t.lanes.ewb.toNat = code ∧ t.lanes.ewd.toNat = code)) ∧
    (line = 5 → Runs 6 5 (.mgath bank 12 13 0)
      ((u.wr 12 (ws.getD 2 0)).wr 13 (BitVec.ofNat 64 (w 1 + j * w 3))) (fun v => v)) ∧
    (line = 6 → Runs 7 5 (.vld 0 15 0 6) (u.wr 15 (BitVec.ofNat 64 (base + (j * (code % 64) * 4096 + 16 * c0)))) (fun v => v)) ∧
    (line = 7 → Runs (if nk ≤ j + 1 then 8 else 4) 5 (.mmac 0 bank 0 14) (u.wr 14 (BitVec.ofNat 64 (c0 * 2 ^ 8)))
      (fun v => v.wr 9 (BitVec.ofNat 64 (j + 1)))) ∧
    (line = 8 → ∃ t, To (if 256 ≤ c0 + g then 9 else 3) t ∧ t.rd 9 = 0 ∧ t.rd 10 = BitVec.ofNat 64 (c0 + g) ∧ t.lanes = s.lanes) ∧
    (line = 9 → ∀ v, exec (.mst 0 13 12) ((u.wr 12 (ws.getD 6 0)).wr 13 (ws.getD 7 0)) = .next v → v.wait = none →
      (v.level = .program → ∃ x, AtLine x 10 ∧ x.pc = s.pc ∧ x.regs = v.regs ∧ x.lanes = v.lanes ∧ x.memory = v.memory ∧
        x.instret = v.instret ∧ step s = ticked (exec .done x)) ∧
      (v.level = .kernel → v.sched.act.isSome = true → ∃ t, step s = ticked (.next t) ∧ t.level = .kernel ∧ t.ctl = v.ctl ∧
        t.regs = v.regs ∧ t.memory = v.memory ∧ t.sched.act.map (·.macroStep) = some 9)) ∧
    (line = 10 → step s = ticked (exec .done u))) ∧
  (∀ (s : State) u, s.mode = .idle → s.sched.coreUnit = some u → (∀ e ∈ s.sched.queues, ∀ r, e.2 ≠ .record r (some u.launch)) →
    (∃ y ∈ s.sched.saved, y.parked = true ∧ y.unit = some u.launch) → exec .takeRecord s = .next s) ∧
  (∀ (s : State) l b k n, readyLaunch s = some l → l.timeline = some (b, k, n) → l.shown = false → l.w 6 = 0 →
    s.sched.retired = [] → ∃ t, exec .launchCompletion s = .next t ∧ t.num (b + 0x288 + 16 * k) 8 = n % 2 ^ 64 ∧
      t.regs = s.regs ∧ t.ctl = s.ctl) ∧
  (∀ (s : State) x, urgentQueue s = some x → ∃ t, exec .schedulerPreemptionRequest s = .next t ∧
    t.ctl = { s.ctl with preReq := some (s.ctl.preReq.getD s.ctl.cycle) } ∧ t.sched.schedReq = some x ∧
    t.regs = s.regs ∧ t.memory = s.memory ∧ t.pc = s.pc)

/-! ### Sweeps, work-lists and the KV cache -/

/-- The slot instructions (15_sweep.md R388, R389): `tdecl` fills a slot from a valid descriptor; `sctl` sets the range
when it is in order, reports the slot, ends the sweep after the held chunk is put back, and empties the slot. -/
def Obligations.SweepSlotResult : Prop :=
  ∀ (s : State) (v : BitVec 5) (n : BitVec 2),
    let x := s.slot n.toNat
    (∀ u ws, sweeping s n.toNat = false → loadDescriptor s (s.rd v) = .ok (u, ws) → slotOk (ws.map (·.toNat)) = true →
      exec (.tdecl v n) s = .next (retire (setSlot u n.toNat
        ⟨true, ws.getD 0 0, ws.getD 1 0, ws.getD 2 0, ws.getD 3 0, 0, (ws.getD 3 0).setWidth 32, 0, 0⟩))) ∧
    (x.valid = true → sweeping s n.toNat = false →
      let lo := (s.rd v).toNat % 2 ^ 32
      let hi := (s.rd v).toNat / 2 ^ 32
      (lo ≤ hi → hi ≤ x.count → exec (.sctlRange v n) s = .next (retire ((setSlot s n.toNat
        { x with lo := BitVec.ofNat 32 lo, hi := BitVec.ofNat 32 hi }).wr v 0))) ∧
      (hi < lo ∨ x.count < hi → exec (.sctlRange v n) s = .next (retire (s.wr v 1)))) ∧
    (x.valid = true → exec (.sctlStat v n) s = .next (retire (s.wr v (BitVec.ofNat 64 (x.sweeps.toNat +
      x.bad.toNat * 2 ^ 32 + (if sweeping s n.toNat then 2 ^ 52 else 0) + 2 ^ 53))))) ∧
    (x.valid = false → exec (.sctlStat v n) s = .next (retire (s.wr v 0))) ∧
    (∀ e rest, s.loops = e :: rest → e.kind = .sweep → e.ts = n.toNat →
      (e.ld = false → exec (.sctlAbort v n) s = .next (goto ({ s with loops := rest }.wr v e.index) (s.pc + 4) false)) ∧
      (∀ u f, closeChunk s e = .ok (u, f) →
        exec (.sctlAbort v n) s = .next (goto ({ u with loops := rest }.wr v f.index) (s.pc + 4) false))) ∧
    (sweeping s n.toNat = false → exec (.sctlRel v n) s = .next (retire ((setSlot s n.toNat Slot.empty).wr v 0))) ∧
    (∀ y, (setSlot s n.toNat y).slot n.toNat = y ∧
      ∀ k : BitVec 2, k ≠ n → (setSlot s n.toNat y).slot k.toNat = s.slot k.toNat)

/-- Sweeps (15_sweep.md R390 to R397, R402). A legal `sweep` finds the matching `snext` and seeks from the slot's lower
bound; a sweep over an empty range passes over its body and counts; `snext` puts the held chunk back and seeks on; a chunk
whose Take fails stops the Seek at the `snext` with the cursor at it, and the `snext` after such a stop raises the failure of
that chunk before it does anything (R402; that a poisoned byte, and a failing Put of a chunk with an empty run set, count as
such a failure is the model's choice, log 38, and so is a failing read of a summary word, log 37); a translation that fails
comes before poison that would be read, and of several the lowest address is reported (17_system.md R439). Take clears the
awake bits of the chunk's elements and classifies each by its header (R392); a held chunk has its elements in vE, its context
words in the word registers from cw on and its run set in m6, with the classes recorded (R393); Put writes the context words
and, with welem, the element of each run element, the first word alone of a held AFTER element, sets the awake bits of the
held elements and of the run elements whose header has kind NONE, AFTER or COUNTER, counts the unlisted kinds in bad, and
sets the summary bit of a group in which it set a bit, or clears that of a group whose awake bits all read 0 (R394; that a
COUNTER which R385 calls unlisted counts as bad is the model's choice, log 38). `swait` sets the wait fields of the held
chunk and the wakes set the awake bits, and the summary bits of their groups, below the count (R397). -/
def Obligations.SweepResult : Prop :=
  (∀ (s : State) (e : BitVec 6) (c : BitVec 5) (n : BitVec 2) d u,
    let x := s.slot n.toNat
    e.toNat < s.nr → x.valid = true → (∀ y ∈ s.loops, y.kind ≠ .sweep) → s.loops.length < 6 → s.inStrip = false →
    s.inFrame = false → s.atLoopEnd = false → c.toNat % x.nw = 0 → 1 ≤ s.lanes.vl.toNat → s.lanes.vl.toNat ≤ 1024 →
    findWord s (s.pc + 4) (0x08000014 + n.toNat * 2 ^ 17) 1024 0 = .ok (.at d, u) →
      (∃ y : LoopEntry, y.kind = .sweep ∧ y.start = s.pc + 4 ∧ y.index.toNat = x.lo.toNat ∧ y.ts = n.toNat ∧
        y.vE = e.toNat ∧ y.cw = c.toNat ∧ y.ld = false ∧ y.d = d ∧ y.c = s.lanes.vl.toNat ∧
        exec (.sweep e c n) s = .next { seek 256 (counted u) y s.loops with commit := some .plain }) ∧
      (x.hi.toNat ≤ x.lo.toNat → ∃ t, exec (.sweep e c n) s = .next t ∧ t.loops = s.loops ∧
        t.pc = s.pc + BitVec.ofNat 64 (4 * d + 8) ∧ (t.slot n.toNat).sweeps = x.sweeps + 1 ∧ t.regs = s.regs)) ∧
  (∀ (s : State) (n : BitVec 2) e rest, s.loops = e :: rest → e.kind = .sweep → e.ts = n.toNat →
    s.atLoopEnd = false → s.pc = e.start + BitVec.ofNat 64 (4 * e.d) → s.lanes.vl.toNat = e.c → e.vE < s.nr →
    (∀ u f, cursorFault s e = none → closeChunk s e = .ok (u, f) →
      exec (.snext n) s = .next { seek 256 (counted u) f rest with commit := some .boundary }) ∧
    (∀ i t g, e.failed = true → e.ld = false → e.index.toNat = i → i < (s.slot e.ts).hi.toNat → s.level = .program →
      seekChunk s e i (min e.c ((s.slot e.ts).hi.toNat - i)) = .fail t g →
      exec (.snext n) s = .next (kernelEntry s g))) ∧
  (∀ (k : Nat) (s t : State) (e : LoopEntry) rest g, e.index.toNat < (s.slot e.ts).hi.toNat →
    seekChunk s e e.index.toNat (min e.c ((s.slot e.ts).hi.toNat - e.index.toNat)) = .fail t g →
      (seek (k + 1) s e rest).loops = { e with failed := true } :: rest ∧
      (seek (k + 1) s e rest).pc = e.start + BitVec.ofNat 64 (4 * e.d)) ∧
  (∀ (s : State) rs,
    ((∃ r ∈ rs, rangeFault s r ≠ none) → ∃ f, checkRanges s rs = .error (.trap f) ∧ (∃ r ∈ rs, rangeFault s r = some f) ∧
      ∀ r ∈ rs, ∀ g, rangeFault s r = some g → f.eaddr.toNat ≤ g.eaddr.toNat) ∧
    ((∀ r ∈ rs, rangeFault s r = none) → (∃ r ∈ rs, rangePoison s r ≠ none) → ∃ f, checkRanges s rs = .error (.trap f) ∧
      (∃ r ∈ rs, rangePoison s r = some f) ∧ ∀ r ∈ rs, ∀ g, rangePoison s r = some g → f.eaddr.toNat ≤ g.eaddr.toNat)) ∧
  (∀ (s : State) nw h rest, h < 2 ^ 32 →
    let kind := h / 2 ^ 8 % 16
    let op := h / 2 ^ 12
    (kind = 0 ∨ kind = 1 ∨ (kind = 2 ∧ op = 0) → classify s nw (h :: rest) = ⟨.run, h :: rest, false⟩) ∧
    (kind = 2 → op ≠ 0 → classify s nw (h :: rest) = ⟨.heldAfter, (h - 2 ^ 12) :: rest, false⟩) ∧
    (kind = 3 → ∀ v, counterWait nw (h :: rest) = some v → classify s nw (h :: rest) =
      ⟨if v ≤ (s.tc (op % 16)).toNat then .run else .heldCounter, h :: rest, false⟩) ∧
    (kind = 3 → counterWait nw (h :: rest) = none → classify s nw (h :: rest) = ⟨.none, h :: rest, true⟩) ∧
    (4 ≤ kind → classify s nw (h :: rest) = ⟨.none, h :: rest, decide (kind ≠ 4)⟩)) ∧
  (∀ (s : State) (e : LoopEntry) i (ts : List Taken),
    let x := s.slot e.ts
    let t := loadChunk s e i ts
    let cls := fun (k : Nat) => (ts[k]?).map (·.cls)
    t.regs = s.regs ∧
    (∀ k, k < e.c → t.maskBit 6 k = decide (cls k = some Class.run) ∧
      mapGet t.lanes.vreg (vkey e.vE k) = BitVec.ofNat 16 ((loadElems s x i ts.length).1.getD k 0)) ∧
    (∀ j k, j < x.nw → k < e.c → k < 1024 →
      t.word (e.cw + j) k = ((ts[k]?).map (fun y => y.words.getD j 0)).getD 0 % 2 ^ 32) ∧
    (∀ k, k < 1024 → t.lanes.runSet.getLsbD k = decide (cls k = some Class.run) ∧
      t.lanes.heldAfter.getLsbD k = decide (cls k = some Class.heldAfter) ∧
      t.lanes.heldCounter.getLsbD k = decide (cls k = some Class.heldCounter))) ∧
  (∀ (s : State) (x : Slot) i, s.level = .firmware →
    let va := (x.elemAddr i).toNat
    let n := max 1 (x.bits / 8)
    va + n ≤ 2 ^ 37 → loadElem s x i =
      ((if x.bits < 8 then s.num va 1 / 2 ^ (i * x.bits % 8) % 2 ^ x.bits else s.num va n) % 2 ^ x.w, s)) ∧
  (∀ (s : State) (x : Slot) i l k, s.level = .firmware →
    let wa := (x.awakeAddr k).toNat
    let old := (syncOrder s).num wa 8
    let mine := fun e => decide (i ≤ e ∧ e < i + l)
    wa + 8 ≤ 2 ^ 37 →
      let r := takeBits s x i l [k]
      r.1 = (upto (64 * k) 64).filter (fun e => mine e && old.testBit (e - 64 * k)) ∧
      (∀ b, b < 64 → (r.2.num wa 8).testBit b = (old.testBit b && !mine (64 * k + b))) ∧
      KeptBytesBut (upto wa 8) (syncOrder s) r.2) ∧
  (∀ (s : State) n i l, s.level = .firmware →
    let x := s.slot n
    let b := takeBits s x i l (awakeWords i l)
    let u := endPublish b.2
    (∀ k, k < l → (x.ctxAddr (i + k)).toNat + 4 * x.nw ≤ 2 ^ 37) →
      (take s n i l).1.length = l ∧
      ∀ k, k < l →
        let ctx := (upto 0 x.nw).map (fun j => u.num ((x.ctxAddr (i + k)).toNat + 4 * j) 4)
        (take s n i l).1[k]? = some (if i + k ∈ b.1 then classify u x.nw ctx else ⟨.none, ctx, false⟩)) ∧
  (∀ (s u : State) e i l, lowestRange s (summaryRanges (s.slot e.ts) i l) = none → summarySet s (s.slot e.ts) i l = (true, u) →
    lowestRange u (takeRanges (s.slot e.ts) i l) = none →
    let r := take u e.ts i l
    (∃ y ∈ r.1, y.cls = .run) → ∃ t, seekChunk s e i l = .hold t ∧ t = loadChunk r.2 e i r.1) ∧
  (∀ (s : State) e, e.ld = true →
    let x := s.slot e.ts
    let i := e.index.toNat
    let l := min e.c (x.hi.toNat - i)
    let ps := heldPuts s e l
    let kind := fun k => s.word e.cw k / 2 ^ 8 % 16
    let counter := fun k => kind k == 3 && x.nw != 1 && decide (s.word e.cw k < 2 ^ 16)
    let run := fun k => s.lanes.runSet.getLsbD k
    let stays := fun k => (run k && (kind k == 0 || kind k == 2 || counter k)) ||
      (!run k && (s.lanes.heldAfter.getLsbD k || s.lanes.heldCounter.getLsbD k))
    let unlisted := fun k => run k && (decide (4 < kind k) || (kind k == 3 && !counter k))
    let awake := ((upto 0 l).filter stays).map (fun k => i + k)
    checkRanges s (putRanges x i l ps) = .ok () → ∃ t f, closeChunk s e = .ok (t, f) ∧
      f.index = BitVec.ofNat 64 (i + l) ∧ f.ld = false ∧ t.regs = s.regs ∧
      t = forgetClasses ((groupsOf i l).foldl (fun v g => putSummary v x awake g)
        (addBad ((awakeWords i l).foldl (fun v k => setAwake v x awake k) (publishAll (ps.foldl (putElem x) s))) e.ts
          ((upto 0 l).filter unlisted).length))) ∧
  (∀ i l g, 0 < l → (g ∈ groupsOf i l ↔ ∃ k, k < l ∧ g = (i + k) / 128) ∧ (g ∈ awakeWords i l ↔ ∃ k, k < l ∧ g = (i + k) / 64)) ∧
  (∀ (s : State) (n : BitVec 2) k, let bad := ((addBad s n.toNat k).slot n.toNat).bad.toNat
    bad = min ((s.slot n.toNat).bad.toNat + k) (2 ^ 20 - 1)) ∧
  (∀ (s : State) (x : Slot) is g, s.level = .firmware → s.memory.arrivals = [] → 128 * g < x.count →
    let map := x.skip.toNat
    let sa := map + 8 * ((x.count + 63) / 64) + 8 * (g / 64)
    let asleep := ∀ j, 128 * g ≤ j → j < 128 * g + 128 → j < x.count → (s.num (map + 8 * (j / 64)) 8).testBit (j % 64) = false
    let u := putSummary s x is g
    sa + 8 ≤ 2 ^ 37 → KeptBytesBut (upto sa 8) s u ∧ ∀ b, b < 64 → ((u.num sa 8).testBit b = true ↔
      if b = g % 64 then (∃ j ∈ is, j / 128 = g) ∨ (¬ asleep ∧ (s.num sa 8).testBit b = true)
      else (s.num sa 8).testBit b = true)) ∧
  (∀ (s : State) (x : Slot) (p : Put), s.level = .firmware → s.memory.arrivals = [] →
    let ca := (x.ctxAddr p.idx).toNat
    let ea := (x.elemAddr p.idx).toNat
    let n := x.bits / 8
    (p.cls = .none ∨ p.cls = .heldCounter → putElem x s p = s) ∧
    (ca + 4 * x.nw ≤ 2 ^ 37 →
      (p.cls = .heldAfter → (putElem x s p).num ca 4 = p.words.headD 0 % 2 ^ 32 ∧
        KeptBytesBut (upto ca 4) s (putElem x s p)) ∧
      (p.cls = .run → x.welem = false → (putElem x s p).num ca (4 * x.nw) = wordsNum p.words % 2 ^ (32 * x.nw) ∧
        KeptBytesBut (upto ca (4 * x.nw)) s (putElem x s p)) ∧
      (p.cls = .run → x.welem = true → 8 ≤ x.bits → ea + n ≤ 2 ^ 37 → ea + n ≤ ca ∨ ca + 4 * x.nw ≤ ea →
        (putElem x s p).num ca (4 * x.nw) = wordsNum p.words % 2 ^ (32 * x.nw) ∧
        (putElem x s p).num ea n =
          (if x.sgn = true then truncN (sext p.value x.w) x.bits else p.value % 2 ^ x.w) % 2 ^ (8 * n) ∧
        KeptBytesBut (upto ca (4 * x.nw) ++ upto ea n) s (putElem x s p)) ∧
      (p.cls = .run → x.welem = true → x.bits < 8 → ea + 1 ≤ 2 ^ 37 → ea + 1 ≤ ca ∨ ca + 4 * x.nw ≤ ea →
        let o := p.idx * x.bits % 8
        let v := if x.sgn = true then truncN (sext p.value x.w) x.bits else p.value % 2 ^ x.w
        (putElem x s p).num ca (4 * x.nw) = wordsNum p.words % 2 ^ (32 * x.nw) ∧
        (∀ b, b < 8 → ((putElem x s p).num ea 1).testBit b =
          if o ≤ b ∧ b < o + x.bits then v.testBit (b - o) else (s.num ea 1).testBit b) ∧
        KeptBytesBut (upto ca (4 * x.nw) ++ upto ea 1) s (putElem x s p)))) ∧
  (∀ (s : State) (x : Slot) is k, s.level = .firmware →
    let wa := (x.awakeAddr k).toNat
    let sets := ∃ b, b < 64 ∧ 64 * k + b ∈ is
    (¬ sets → setAwake s x is k = s) ∧
    (sets → wa + 8 ≤ 2 ^ 37 → KeptBytesBut (upto wa 8) (syncOrder s) (setAwake s x is k) ∧
      ∀ b, b < 64 → ((setAwake s x is k).num wa 8).testBit b =
        (((syncOrder s).num wa 8).testBit b || decide (64 * k + b ∈ is)))) ∧
  (∀ (s : State) e l k, k < l → ∃ p : Put, (heldPuts s e l)[k]? = some p ∧ p.idx = e.index.toNat + k ∧
    p.value = (mapGet s.lanes.vreg (vkey e.vE k)).toNat ∧ p.words = (upto 0 (s.slot e.ts).nw).map (fun j => s.word (e.cw + j) k) ∧
    (p.cls = .run ↔ s.lanes.runSet.getLsbD k = true)) ∧
  (∀ (s : State) (v : BitVec 5) (m : BitVec 3) (n : BitVec 2) e rest, s.loops = e :: rest → e.kind = .sweep →
    e.ts = n.toNat → e.ld = true → ∃ t, exec (.swait v m n) s = .next (retire t) ∧ t.regs = s.regs ∧
      t.memory = s.memory ∧ (∀ k, k < 1024 → t.word e.cw k =
        if k < min s.lanes.vl.toNat e.c ∧ s.maskBit m.toNat k = true then
          s.word e.cw k % 256 + (s.rd v).toNat % 2 ^ 24 * 2 ^ 8 else s.word e.cw k) ∧
      ∀ r k, k < 1024 → r ≠ e.cw → t.word r k = s.word r k) ∧
  (∀ (s : State) (n : BitVec 2), (s.slot n.toNat).valid = true →
    let x := s.slot n.toNat
    (∀ v : BitVec 5, (x.count ≤ (s.rd v).toNat → exec (.wake v n) s = .next (retire s)) ∧
      ((s.rd v).toNat < x.count → checkRanges s (wakeRanges x [(s.rd v).toNat]) = .ok () →
        exec (.wake v n) s = .next (retire (wakeAll s x [(s.rd v).toNat])))) ∧
    (∀ (v : BitVec 6) (m : BitVec 3), v.toNat < s.nr →
      let is := (((List.range s.lanes.vl.toNat).filter (fun k => s.maskBit m.toNat k)).map
        (fun k => s.elem v.toNat k (widthOf s.ewa))).filter (fun i => decide (i < x.count))
      checkRanges s (wakeRanges x is) = .ok () → exec (.vwake v m n) s = .next (retire (wakeAll s x is)))) ∧
  (∀ (s : State) (x : Slot) is, s.level = .firmware → s.memory.arrivals = [] → (∀ i ∈ is, i < x.count) →
    let map := x.skip.toNat
    let na := (x.count + 63) / 64
    let ns := (x.count + 8191) / 8192
    let t := wakeAll s x is
    map + 8 * (na + ns) ≤ 2 ^ 37 → t.regs = s.regs ∧ KeptBytesBut (upto map (8 * (na + ns))) s t ∧
      (∀ k b, k < na → b < 64 → ((t.num (map + 8 * k) 8).testBit b = true ↔
        (s.num (map + 8 * k) 8).testBit b = true ∨ 64 * k + b ∈ is)) ∧
      (∀ k b, k < ns → b < 64 → ((t.num (map + 8 * na + 8 * k) 8).testBit b = true ↔
        (s.num (map + 8 * na + 8 * k) 8).testBit b = true ∨ ∃ i ∈ is, i / 128 = 64 * k + b)))

/-- Work-lists (14_sparse.md R365 to R376, 13_work.md R361). A slot that cannot be translated is reported before an invalid
descriptor, and that before anything else (R372). A push that has room writes the entry into the slot of the tail's
position, moves the tail and changes no other byte; one without room counts the loss, or faults when the list asks for it.
`wlins` tests its bit, pushes at most once and sets it; `wlpop` takes the oldest entries into a vector and moves the head;
`vcapp` pushes the indices of the set mask bits, all or none. That a window transfer is seen by no party, because the model
keeps every entry in slot memory, is the model's choice (log 23). -/
def Obligations.WorkListResult : Prop :=
  (∀ (s : State) (d a b : BitVec 5) l u, readList s (s.rd a) = .ok (l, u) → l.ok = true →
    let x := (s.rd b).toNat % 2 ^ 32
    let v := publishAll u
    let push := fun (t : State) =>
      (∀ h, translate v .store (l.slotAddr (l.w 4)) = .ok h → (∀ k ∈ upto h.loc 4, k ∉ upto (l.loc + 32) 8) →
        t.num h.loc 4 = x ∧ KeptBytesBut (h.leaf.toList ++ upto h.loc 4 ++ upto (l.loc + 32) 8) v t) ∧
      t.num (l.loc + 32) 8 = (l.w 4 + 1) % 2 ^ 64 ∧ t.regs = s.regs
    let drop := fun (t : State) => KeptBytesBut (upto (l.loc + 56) 8) v t ∧
      t.num (l.loc + 56) 8 = min (l.w 7 + 1) (2 ^ 32 - 1) ∧ t.regs = s.regs
    (checkList u l (pushSlots l 1) = .ok () →
      (l.len < l.slots → ∃ t : State, exec (.wlpush d a b) s = .next (retire (t.wr d 0)) ∧ push t) ∧
      (l.len = l.slots → bitOf (l.w 6) 48 = false →
        ∃ t : State, exec (.wlpush d a b) s = .next (retire (t.wr d 2)) ∧ drop t) ∧
      (l.len = l.slots → bitOf (l.w 6) 48 = true → s.level = .program → exec (.wlpush d a b) s =
        .next (kernelEntry s { code := 10, sub := 1, eaddr := s.rd a })) ∧
      (l.w 5 = 0 → exec (.wlins d a b) s = exec (.wlpush d a b) s)) ∧
    (l.w 5 ≠ 0 → l.nbits ≤ x → exec (.wlins d a b) s = .next (retire (u.wr d 3))) ∧
    (l.w 5 ≠ 0 → x < l.nbits → checkList u l (pushSlots l 1 ++ [⟨.atomic, l.bitAddr x, 8, true⟩]) = .ok () →
      (bitOf (readAt u (l.bitAddr x) 8).1 (x % 64) = true → ∃ t : State, exec (.wlins d a b) s = .next (retire (t.wr d 1)) ∧
        t.regs = s.regs) ∧
      (bitOf (readAt u (l.bitAddr x) 8).1 (x % 64) = false → l.len < l.slots → ∃ p t : State,
        exec (.wlins d a b) s = .next (retire (t.wr d 0)) ∧ push p ∧ t.regs = s.regs ∧
        ∀ h, translate p .atomic (l.bitAddr x) = .ok h →
          let q := syncOrder (markLeaf p h true)
          t.num h.loc 8 = (q.num h.loc 8 ||| 2 ^ (x % 64)) ∧ KeptBytesBut (upto h.loc 8) q t) ∧
      (bitOf (readAt u (l.bitAddr x) 8).1 (x % 64) = false → l.len = l.slots → bitOf (l.w 6) 48 = false →
        ∃ t : State, exec (.wlins d a b) s = .next (retire (t.wr d 2)) ∧
          t.regs = s.regs))) ∧
  (∀ (s : State) (d a b : BitVec 5) l u, readList s (s.rd a) = .ok (l, u) → s.level = .program →
    (∀ r t, pushSlots l 1 = [r] → listFault u r = some t → exec (.wlpush d a b) s = .next (kernelEntry s t)) ∧
    (l.ok = false → (∀ r ∈ pushSlots l 1, listFault u r = none) →
      exec (.wlpush d a b) s = .next (kernelEntry s { code := 10, sub := 1, eaddr := s.rd a }))) ∧
  (∀ (s : State) (v : BitVec 6) (a b : BitVec 5) l u, readList s (s.rd a) = .ok (l, u) → l.ok = true → LanesLegal s →
    DestLegal s v → s.inStrip = false →
    let limit := if s.lanes.grantE.toNat = 256 then s.vlmax else 128 * s.lanes.grantE.toNat
    let k := min (min (if b = 0 then s.vlmax else (s.rd b).toNat) (min s.vlmax limit)) l.len
    checkList u l ((upto (l.w 3) k).map (fun p => ⟨.load, l.slotAddr p, 4, true⟩)) = .ok () →
      ∃ t, exec (.wlpop v a b) s = .next (retire t) ∧ t.lanes.vl.toNat = k ∧ t.regs = s.regs ∧
        (0 < k → t.num (l.loc + 24) 8 = (l.w 3 + k) % 2 ^ 64) ∧
        ∀ i, i < k → t.elem v.toNat i s.planes =
          (readAt (syncOrder u) (l.slotAddr (l.w 3 + i)) 4).1 % 2 ^ s.wd) ∧
  (∀ (s : State) (a b : BitVec 5) (m : BitVec 3),
    let is := (List.range s.lanes.vl.toNat).filter (fun i => s.maskBit m.toNat i)
    (is = [] → exec (.vcapp a b m) s = .next (retire s)) ∧
    (∀ l u, is ≠ [] → readList s (s.rd a) = .ok (l, u) → l.ok = true → checkList u l (pushSlots l is.length) = .ok () →
      let es := is.map (fun i => ((s.rd b).toNat + i) % 2 ^ 32)
      (l.len + is.length ≤ l.slots → ∃ t : State, exec (.vcapp a b m) s = .next (retire t) ∧
        pushStep u l es = .ok (.pushed l.len, { t with ctl := s.ctl }) ∧
        t.num (l.loc + 32) 8 = (l.w 4 + is.length) % 2 ^ 64 ∧ t.regs = s.regs ∧
        t.ctl.ustat = if l.len < s.vlmax ∧ s.vlmax ≤ l.len + is.length then s.ctl.ustat ||| 0x400 else s.ctl.ustat) ∧
      (l.slots < l.len + is.length → bitOf (l.w 6) 48 = false → ∃ t : State, exec (.vcapp a b m) s = .next (retire t) ∧
        t.num (l.loc + 56) 8 = min (l.w 7 + is.length) (2 ^ 32 - 1) ∧ t.regs = s.regs ∧ t.ctl = s.ctl ∧
        KeptBytesBut (upto (l.loc + 56) 8) (publishAll u) t))) ∧
  (∀ (s : State) w, exec (.windowTransfer w) s = .next s)

/-- Barchan (16_kv.md R414 to R416, R424, R435): an instruction takes the next number and waits; the oldest operation is
performed, memory after it is as the operation leaves it, and the timeline shows its number; its result is delivered to sD
when the instruction commits. What the operations do is stated for those that firmware accepted, on structures that lie apart
in low memory, below every pool, so that none is demoted (R405 to R409): for `kvalloc` the id it appends, the block's word,
the free list and the entries in use (R421); for `kvreject` and `kvcommit` the positions and the blocks given back (R422,
R425); for `kvappend` the copy of a shared block and the key and value stored, the latter at Lc + o with Lc and the table as
they then stand (R424; that a position past the table then sets ecode 1, and a shared block ecode 4, is the model's choice,
log 21); for `pfxmatch` and `pfxins` the node at the root's first child (R418, R419); for `pfxrel` a sequence's blocks and a
tree's leaf (R420); for `kvcompact` a keep list of at most one position (R431); and for each the status of the cases in which
it changes nothing. An operation behind a queued `vfence` arrival waits for it (11_sync.md R296, R301). An operation that
ends with a status, and one that waits for the pager, leaves nothing in memory but the marks of what it read (06_memory.md
R150). `kvappend` takes two numbers and goes on; a step of it that fails sets ecode 4, and one that meets an invalid
structure 3, which is the model's choice (log 21). A full queue makes the instruction wait, and a misaligned operand traps.
-/
def Obligations.BarchanInstructionResult : Prop :=
  (∀ (s : State) i op n d sa sb, BarchanForm s i op n d sa sb →
    (s.level = .program → sa.toNat % 64 ≠ 0 → exec i s = .next (kernelEntry s { code := 6, eaddr := sa })) ∧
    (sa.toNat % 64 = 0 → sb.toNat % n = 0 →
      (1024 ≤ s.kv.barOps.length → exec i s = .next (waitHere s .queue)) ∧
      (s.kv.barOps.length < 1024 → ∃ u o, exec i s = .next u ∧ u.kv.barOps = s.kv.barOps ++ [o] ∧
        u.kv.barIssued = s.kv.barIssued + 1 ∧ u.wait = some (.result (s.kv.barIssued + 1) d.toNat) ∧
        u.pc = s.pc ∧ u.instret = s.instret ∧ u.regs = s.regs ∧ u.memory = s.memory ∧
        o.num = s.kv.barIssued + 1 ∧ o.op = op ∧ o.a = sa ∧ o.b = sb ∧ o.level = s.level ∧
        (s.kv.barOps = [] → s.kv.barResults = [] → s.memory.arrivals = [] → ∀ r v,
          ((kvPerform o).result u = .ok (r, v) ∧ v.wait = u.wait ∧ v.kv.barResults = [] ∨
            (kvPerform o).result u = .error (.status r) ∧ v = keepReads u o ((kvPerform o).reads u) ∨
            (kvPerform o).result u = .error .failed ∧ v = keepReads u o ((kvPerform o).reads u) ∧ r = -4) →
          ∃ x y, exec .barchanOperation u = .next x ∧ x = { v with kv := x.kv } ∧ x.memory = v.memory ∧
            x.kv.tc10.toNat = o.num % 2 ^ 64 ∧ x.kv.barOps = v.kv.barOps.tail ∧
            exec .barchanResult x = .next (retire y) ∧ y.instret = v.instret ∧ y.kv.barResults = [] ∧
            y = (syncOrder { x with kv := { x.kv with barResults := [] } }).setReg d.toNat
              (BitVec.ofInt 64 r))))) ∧
  (∀ (s : State) o rest, s.kv.barOps = o :: rest → o.behind ≠ 0 → exec .barchanOperation s = .next s) ∧
  (∀ (s : State) o rest, s.kv.barOps = o :: rest → o.behind = 0 →
    let completes := fun (v : State) (r : Int) => ∃ x, exec .barchanOperation s = .next x ∧
      x = { v with kv := { v.kv with
        barOps := v.kv.barOps.tail
        barResults := if o.op = .cow ∨ o.op = .append then v.kv.barResults
          else v.kv.barResults ++ [(o.num, BitVec.ofInt 64 r)]
        tc10 := BitVec.ofNat 64 o.num
        clocks := x.kv.clocks } }
    let left := keepReads s o ((kvPerform o).reads s)
    let waits := o.op ≠ .cow ∧ o.op ≠ .append
    (∀ r v, (kvPerform o).result s = .ok (r, v) → completes v r) ∧
    (∀ r, (kvPerform o).result s = .error (.status r) → waits → completes left r) ∧
    ((kvPerform o).result s = .error .failed → waits → completes left (-4)) ∧
    (∀ h v, (kvPerform o).result s = .error h → h ≠ .pager → ¬ waits →
      (stepError o (if h = .failed ∨ h = .status (-4) then 4 else 3)).result left = .ok ((), v) → completes v 0) ∧
    ((kvPerform o).result s = .error .pager → ∃ x, exec .barchanOperation s = .next x ∧ x.memory = left.memory ∧
      x.kv.barResults = s.kv.barResults ∧ x.kv.tc10 = s.kv.tc10 ∧ x.kv.barOps.map (·.num) = s.kv.barOps.map (·.num))) ∧
  (∀ (s : State) o rest, s.kv.barOps = o :: rest → o.op = .kvalloc → o.level = .firmware → o.root = none → o.view = [] →
    o.behind = 0 → s.memory.poison = [] →
    let sq := o.a.toNat
    let word := fun a k => s.num (a + 8 * k) 8
    let ca := word sq 0
    let bcap := s.num (sq + 16) 4
    let nb := s.num (sq + 20) 4
    let nt := s.num (sq + 28) 4
    let entry := word sq 1 + 4 * nb
    let block := fun b => word ca 2 + 8 * b
    let fhead := s.num (ca + 24) 4
    let nfree := s.num (ca + 28) 4
    let mode := o.b.toNat % 4
    let Low := fun a n => a + n ≤ 2 ^ 36
    let Apart := fun a n b m => a + n ≤ b ∨ b + m ≤ a
    let Ends := fun (r : Int) (Q : State → Prop) => ∃ x, exec .barchanOperation s = .next x ∧ Q x ∧
      x.kv.barResults = s.kv.barResults ++ [(o.num, BitVec.ofInt 64 r)] ∧ x.regs = s.regs
    let Same := fun x : State => x.memory = s.memory
    sq % 64 = 0 → Low sq 64 → Low ca 128 → Low (word ca 1) (16 * (word ca 0 / 2 ^ 25 % 2 ^ 6 + 1)) →
    (∀ g, g ≤ word ca 0 / 2 ^ 25 % 2 ^ 6 → 2 ^ 36 ≤ word (word ca 1 + 16 * g) 0 ∧ word (word ca 1 + 16 * g) 0 % 65536 = 0 ∧
      word (word ca 1 + 16 * g) 1 ≤ 4) →
    (Sequence.ok ⟨o.a, (upto 0 8).map (word sq)⟩ = false → Ends (-3) Same) ∧
    (Sequence.ok ⟨o.a, (upto 0 8).map (word sq)⟩ = true → Cache.ok ⟨o.a, (upto 0 16).map (word ca), []⟩ = true →
      (mode = 3 ∨ (mode ≠ 1 ∧ nt ≠ 0) → Ends (-3) Same) ∧
      (mode = 1 ∨ (mode = 0 ∧ nt = 0) →
        (nb = bcap → Ends (-2) Same) ∧
        (nb ≠ bcap → nfree = 0 → Ends (-1) Same) ∧
        (nb ≠ bcap → nfree ≠ 0 → fhead < word ca 0 % 2 ^ 25 →
          let w := word (block fhead) 0
          w / 2 ^ 58 = 0 → Low entry 4 → Low (block fhead) 8 → Apart entry 4 sq 64 → Apart entry 4 ca 128 →
          Apart (block fhead) 8 sq 64 → Apart (block fhead) 8 ca 128 → Apart entry 4 (block fhead) 8 → Apart sq 64 ca 128 →
          Ends fhead (fun x => x.num entry 4 = fhead ∧ x.num (sq + 20) 4 = nb + 1 ∧ x.num (sq + 28) 4 = nt + mode ∧
            x.num (block fhead) 4 = 1 ∧ x.num (block fhead) 8 / 2 ^ 57 = mode ∧
            x.num (ca + 24) 4 = w / 2 ^ 32 % 2 ^ 25 ∧ x.num (ca + 28) 4 = nfree - 1 ∧
            KeptBytesBut (upto entry 4 ++ upto (sq + 20) 4 ++ upto (sq + 28) 4 ++ upto (block fhead) 8 ++ upto (ca + 24) 8) s x))) ∧
      (mode = 2 → nt = 0 →
        let id := o.b.toNat / 2 ^ 32 % 2 ^ 25
        let w := word (block id) 0
        (word ca 0 % 2 ^ 25 ≤ id → Ends (-3) Same) ∧
        (id < word ca 0 % 2 ^ 25 → Low (block id) 8 →
          (w / 2 ^ 58 ≠ 0 ∨ w % 2 ^ 32 = 0 ∨ w / 2 ^ 57 % 2 = 1 → Ends (-3) Same) ∧
          (w / 2 ^ 57 = 0 → w % 2 ^ 32 ≠ 0 → (nb = bcap → Ends (-2) Same) ∧
            (nb ≠ bcap → w % 2 ^ 32 < 2 ^ 32 - 1 → Low entry 4 → Apart entry 4 sq 64 → Apart (block id) 8 sq 64 →
              Apart entry 4 (block id) 8 →
              Ends id (fun x => x.num entry 4 = id ∧ x.num (sq + 20) 4 = nb + 1 ∧ x.num (block id) 8 = w + 1 ∧
                KeptBytesBut (upto entry 4 ++ upto (sq + 20) 4 ++ upto (block id) 8) s x))))))) ∧
  (∀ (s : State) o, KvOldest s o →
    let sq := o.a.toNat
    let ca := s.kvWord sq 0
    let nids := s.kvWord ca 0 % 2 ^ 25
    let ng := s.kvWord ca 0 / 2 ^ 25 % 2 ^ 6 + 1
    let bcap := s.num (sq + 16) 4
    let nb := s.num (sq + 20) 4
    let lc := s.num (sq + 24) 4
    let nt := s.num (sq + 28) 4
    let ecode := s.num (sq + 48) 1
    let tab := s.kvWord sq 1
    let e := s.kvEntry sq
    let block := s.kvBlock ca
    let head := s.num (ca + 24) 4
    let nfree := s.num (ca + 28) 4
    let node := fun i => s.kvWord ca 4 + 64 * i
    let key := fun i => s.kvWord ca 5 + 256 * i
    let first := s.num (node 0 + 12) 4
    let none_ := 0xFFFFFFFF
    let arg := o.b.toNat
    let n := s.num arg 4
    let counts := upto (sq + 16) 16
    let slot := fun g b => (s.kvGroup ca g).1 + b * (s.kvGroup ca g).2
    let kb := fun g => (s.kvGroup ca g).2 / 128
    let Ends := KvEnds s o.num
    let Steps := KvSteps s o.num
    let Same := fun x : State => x.memory = s.memory
    let Fails := fun code : Nat => Steps (fun x => x.num (sq + 48) 1 = code ∧ x.num (sq + 56) 8 = o.num % 2 ^ 64 ∧
      KeptBytesBut ((sq + 48) :: upto (sq + 56) 8) s x)
    let decremented := fun js f => (js : List Nat).foldl (fun (f : FreeIds) j => f.decrement (e j)) f
    let Free := LowRange (block head) 8 ∧ head < nids ∧ s.num (block head) 8 / 2 ^ 58 = 0 ∧
      AllApart [(sq, 64), (ca, 128), (tab, 4 * nb), (block head, 8)]
    KvSequenceAt s sq → nfree + nb < 2 ^ 25 →
    (o.op = .kvreject → KvTableAt s sq nb →
      Ends nt (fun x => KvFreeIs s x sq nb (decremented (upto (nb - nt) nt) (s.kvFree ca)) ∧ SequenceIs s x sq (nb - nt) lc 0 ∧
        KeptBytesBut (counts ++ s.kvFreePlaces sq nb) s x)) ∧
    (o.op = .pfxrel → o.b = 0 → KvTableAt s sq nb →
      let f := decremented (upto 0 nb) (s.kvFree ca)
      Ends ((f.count - nfree : Nat) : Int) (fun x => KvFreeIs s x sq nb f ∧ SequenceIs s x sq 0 0 0 ∧ x.num (sq + 48) 1 = 0 ∧
        KeptBytesBut (counts ++ [sq + 48] ++ s.kvFreePlaces sq nb) s x)) ∧
    (o.op = .kvcommit →
      (ecode ≠ 0 → Ends (-5) Same) ∧
      (ecode = 0 → min (64 * nb) (2 ^ 32 - 1) < lc + arg → Ends (-3) Same) ∧
      (ecode = 0 → lc + arg ≤ min (64 * nb) (2 ^ 32 - 1) → KvTableAt s sq nb →
        let c := (lc + arg + 63) / 64
        Ends ((lc + arg : Nat) : Int) (fun x => SequenceIs s x sq nb (lc + arg) (min nt (nb - c)) ∧
          (∀ j, j < nb → x.num (block (e j)) 8 = if (upto (nb - nt) (c - (nb - nt))).any (fun i => e i == e j) then
            s.num (block (e j)) 8 % 2 ^ 57 else s.num (block (e j)) 8) ∧
          KeptBytesBut (counts ++ (upto 0 nb).flatMap (fun j => upto (block (e j)) 8)) s x))) ∧
    (o.op = .cow →
      let g := s.num arg 8 % 2 ^ 6
      let off := s.num arg 8 / 2 ^ 16 % 2 ^ 10
      let j := (lc + off) / 64
      let bad := s.num arg 8 / 2 ^ 6 % 2 ^ 10 ≠ 0 ∨ s.num arg 8 / 2 ^ 26 ≠ 0 ∨ s.num (arg + 24) 8 ≠ 0 ∨ ng ≤ g
      let HandsOn := fun x : State => ∀ p ∈ x.kv.barOps, p.num = o.num + 1 →
        p.args = [g, off, s.num (arg + 8) 8, s.num (arg + 16) 8]
      (ecode ≠ 0 → Steps Same) ∧
      (ecode = 0 → LowRange arg 32 → (bad → Fails 3) ∧ (¬ bad → nb ≤ j → Fails 1) ∧
        (¬ bad → j < nb → KvTableAt s sq nb →
          let rc := s.num (block (e j)) 4
          (1 < rc → nfree = 0 → Fails 2) ∧ (rc ≤ 1 → Steps (fun x => Same x ∧ HandsOn x)) ∧
          (1 < rc → nfree ≠ 0 → Free → e j < nids → KvPoolsAt s ca [(ca, 128), (block head, 8)] →
            let f := (s.kvFree ca).popped.decrement (e j)
            Steps (fun x => HandsOn x ∧ x.num (tab + 4 * j) 4 = head ∧ KvFreeIs s x sq nb f ∧
              x.num (block head) 8 = f.word head ∧
              (∀ i k, i < ng → k < (s.kvGroup ca i).2 → x.byte (slot i head + k) = s.byte (slot i (e j) + k)) ∧
              KeptBytesBut (upto (tab + 4 * j) 4 ++ upto (block head) 8 ++ s.kvFreePlaces sq nb ++
                (upto 0 ng).flatMap (fun i => upto (slot i head) (s.kvGroup ca i).2)) s x))))) ∧
    (∀ g off ks vs, o.op = .append → o.args = [g, off, ks, vs] →
      let pos := lc + off
      (ecode ≠ 0 → Steps Same) ∧
      (ecode = 0 → g < ng → LowRange ks (kb g) → LowRange vs (kb g) →
        (nb ≤ pos / 64 → Fails 1) ∧
        (pos / 64 < nb → KvTableAt s sq nb →
          let b := e (pos / 64)
          (1 < s.num (block b) 4 → Fails 4) ∧
          (s.num (block b) 4 ≤ 1 → b < nids → KvPoolsAt s ca [] →
            let at_ := slot g b + pos % 64 * kb g
            let half := (s.kvGroup ca g).2 / 2
            Steps (fun x => (∀ k, k < kb g → x.byte (at_ + k) = s.byte (ks + k) ∧ x.byte (at_ + half + k) = s.byte (vs + k)) ∧
              KeptBytesBut (upto at_ (kb g) ++ upto (at_ + half) (kb g)) s x))))) ∧
    (o.op = .pfxmatch →
      (nb ≠ 0 ∨ lc ≠ 0 ∨ ecode ≠ 0 → Ends (-3) Same) ∧
      (nb = 0 → lc = 0 → ecode = 0 → LowRange arg (4 + 4 * n) →
        let m := min (n / 64) bcap
        (m = 0 → Ends 0 (KeptBytes s)) ∧
        (m ≠ 0 → KvNodeAt s ca 0 → (first = none_ → Ends 0 (KeptBytes s)) ∧
          (first ≠ none_ → KvNodeAt s ca first →
            (¬ s.kvMatches ca first (arg + 4) → s.num (node first + 16) 4 = none_ → Ends 0 (KeptBytes s)) ∧
            (s.kvMatches ca first (arg + 4) → m = 1 →
              let b := s.num (node first) 4 % 2 ^ 24
              let w := s.num (block b) 8
              LowRange tab 4 → LowRange (block b) 8 → w / 2 ^ 58 = 0 → w % 2 ^ 32 < 2 ^ 32 - 1 →
              AllApart [(sq, 64), (tab, 4), (block b, 8), (node first, 64)] →
              Ends 1 (fun x => x.num tab 4 = b ∧ x.num (block b) 8 = w + 1 ∧ x.num (node first + 24) 8 = o.num % 2 ^ 64 ∧
                SequenceIs s x sq 1 64 0 ∧
                KeptBytesBut (counts ++ upto tab 4 ++ upto (block b) 8 ++ upto (node first + 24) 8) s x)))))) ∧
    (o.op = .pfxins → LowRange arg (4 + 4 * n) →
      let m := min (n / 64) (lc / 64)
      let nfh := s.num (ca + 52) 4
      (m = 0 → Ends 0 (KeptBytes s)) ∧
      (m = 1 → KvNodeAt s ca 0 →
        (first ≠ none_ → KvNodeAt s ca first → s.kvMatches ca first (arg + 4) →
          Ends 0 (fun x => x.num (node first + 24) 8 = o.num % 2 ^ 64 ∧ KeptBytesBut (upto (node first + 24) 8) s x)) ∧
        (first = none_ → nfh = none_ → Ends (2 ^ 32) (KeptBytes s)) ∧
        (first = none_ → nfh ≠ none_ → KvNodeAt s ca nfh → KvTableAt s sq 1 →
          let w := s.num (block (e 0)) 8
          w % 2 ^ 32 < 2 ^ 32 - 1 → s.num (node 0 + 20) 4 < 2 ^ 32 - 1 →
          AllApart [(ca, 128), (tab, 4), (block (e 0), 8), (node 0, 64), (node nfh, 64), (key nfh, 256)] →
          Ends 1 (fun x => (∀ k, k < 256 → x.byte (key nfh + k) = s.byte (arg + 4 + k)) ∧
            x.num (node nfh) 4 = e 0 + 2 ^ 24 ∧ x.num (node nfh + 4) 4 = (s.kvHash (arg + 4)).toNat ∧
            x.num (node nfh + 8) 4 = 0 ∧ x.num (node nfh + 12) 4 = none_ ∧ x.num (node nfh + 16) 4 = none_ ∧
            x.num (node nfh + 20) 4 = 0 ∧ x.num (node nfh + 24) 8 = o.num % 2 ^ 64 ∧
            x.num (node 0 + 12) 4 = nfh ∧ x.num (node 0 + 20) 4 = s.num (node 0 + 20) 4 + 1 ∧ x.num (block (e 0)) 8 = w + 1 ∧
            x.num (ca + 52) 4 = s.num (node nfh + 16) 4 ∧
            KeptBytesBut (upto (key nfh) 256 ++ upto (node nfh) 64 ++ upto (node 0 + 12) 4 ++ upto (node 0 + 20) 4 ++
              upto (block (e 0)) 8 ++ upto (ca + 52) 4) s x)))) ∧
    (o.op = .kvcompact →
      let score := s.kvWord sq 4
      let scap := s.num (sq + 40) 4
      let scores := min lc scap
      (ecode ≠ 0 → Ends (-5) Same) ∧
      (ecode = 0 → LowRange arg (4 + 4 * n) → (nt ≠ 0 ∨ lc < n → Ends (-3) Same) ∧
        (nt = 0 → n = 0 → KvTableAt s sq nb → score = 0 →
          Ends 0 (fun x => KvFreeIs s x sq nb (decremented (upto 0 nb) (s.kvFree ca)) ∧ SequenceIs s x sq 0 0 0 ∧
            KeptBytesBut (counts ++ s.kvFreePlaces sq nb) s x)) ∧
        (nt = 0 → n = 1 → n ≤ lc →
          let p := s.num (arg + 4) 4
          (lc ≤ p → Ends (-3) Same) ∧ (p < lc → nfree = 0 → Ends (-1) Same) ∧
          (p < lc → nfree ≠ 0 → Free → KvTableAt s sq nb → (∀ j, j < nb → e j ≠ head) → e (p / 64) < nids →
            KvPoolsAt s ca [(ca, 128), (block head, 8)] →
            (score = 0 ∨ LowRange score (4 * scores) ∧ AllApart [(score, 4 * scores), (sq, 64), (ca, 128), (tab, 4 * nb)] ∧
              ApartRanges score (4 * scores) (block head) 8 ∧
              ∀ j, j < nb → ApartRanges score (4 * scores) (block (e j)) 8) →
            let f := decremented (upto 0 nb) (s.kvFree ca).popped
            let old := fun i => slot i (e (p / 64)) + p % 64 * kb i
            let half := fun i => (s.kvGroup ca i).2 / 2
            Ends 1 (fun x => KvFreeIs s x sq nb f ∧ x.num (block head) 8 = f.word head ∧ x.num tab 4 = head ∧
              SequenceIs s x sq 1 1 0 ∧
              (∀ i k, i < ng → k < kb i → x.byte (slot i head + k) = s.byte (old i + k) ∧
                x.byte (slot i head + half i + k) = s.byte (old i + half i + k)) ∧
              (score ≠ 0 → ∀ k, k < scores →
                x.num (score + 4 * k) 4 = if k = 0 ∧ p < scap then s.num (score + 4 * p) 4 else 0) ∧
              KeptBytesBut (counts ++ upto tab 4 ++ upto (block head) 8 ++ s.kvFreePlaces sq nb ++
                (if score = 0 then [] else upto score (4 * scores)) ++
                (upto 0 ng).flatMap (fun i => upto (slot i head) (kb i) ++ upto (slot i head + half i) (kb i))) s x)))))) ∧
  (∀ (s : State) o, KvOldest s o → o.op = .pfxrel → o.b ≠ 0 →
    let ca := o.a.toNat
    let i := o.b.toNat
    let node := fun i => s.kvWord ca 4 + 64 * i
    let nfree := s.num (ca + 28) 4
    let Ends := KvEnds s o.num
    let Same := fun x : State => x.memory = s.memory
    KvCacheAt s ca → nfree + 1 < 2 ^ 25 →
    (s.num (ca + 48) 4 ≤ i → Ends (-3) Same) ∧
    (i < s.num (ca + 48) 4 → KvNodeAt s ca i →
      let live := s.num (node i) 4 / 2 ^ 24 % 2
      let p := s.num (node i + 8) 4
      let b := s.num (node i) 4 % 2 ^ 24
      let f := (s.kvFree ca).decrement b
      (live = 0 → Ends (-3) Same) ∧ (live = 1 → s.num (node i + 20) 4 ≠ 0 → Ends 0 Same) ∧
      (live = 1 → s.num (node i + 20) 4 = 0 → KvNodeAt s ca p → s.num (node p + 12) 4 = i → s.num (node p + 20) 4 ≠ 0 →
        LowRange (s.kvBlock ca b) 8 → s.num (s.kvBlock ca b) 8 / 2 ^ 58 = 0 →
        AllApart [(ca, 128), (node p, 64), (node i, 64), (s.kvBlock ca b, 8)] →
        Ends 1 (fun x => x.num (node p + 12) 4 = s.num (node i + 16) 4 ∧
          x.num (node p + 20) 4 = s.num (node p + 20) 4 - 1 ∧ x.num (s.kvBlock ca b) 8 = f.word b ∧
          x.num (ca + 24) 4 = f.head ∧ x.num (ca + 28) 4 = f.count ∧ x.num (node i) 4 = b ∧
          x.num (node i + 16) 4 = s.num (ca + 52) 4 ∧ x.num (ca + 52) 4 = i ∧
          KeptBytesBut (upto (node p + 12) 4 ++ upto (node p + 20) 4 ++ upto (s.kvBlock ca b) 8 ++ upto (ca + 24) 8 ++
            upto (node i) 4 ++ upto (node i + 16) 4 ++ upto (ca + 52) 4) s x)))) ∧
  (∀ (s : State) n d, s.wait = some (.result n d) →
    (∀ r, s.kv.barResults.find? (fun x => x.1 == n) = some (n, r) →
      let k := { s.kv with barResults := s.kv.barResults.filter (fun x => x.1 != n) }
      exec .barchanResult s = .next (retire ((syncOrder { s with kv := k }).setReg d r))) ∧
    (s.kv.barResults.find? (fun x => x.1 == n) = none → exec .barchanResult s = .next s)) ∧
  (∀ (s : State) (d a b : BitVec 5) h, (s.rd a).toNat % 64 = 0 → (s.rd b).toNat % 32 = 0 →
    objectHit s .store 4 (s.rd a) = .ok h → s.kv.barOps.length ≤ 1022 →
    ∃ (u : State) (o p : BarOp), exec (.kvappend d a b) s = .next (retire (u.wr d (BitVec.ofNat 64 (s.kv.barIssued + 2)))) ∧
      u.kv.barIssued = s.kv.barIssued + 2 ∧ u.kv.barOps.drop s.kv.barOps.length = [o, p] ∧ o.op = .cow ∧ p.op = .append ∧
      o.num = s.kv.barIssued + 1 ∧ p.num = s.kv.barIssued + 2 ∧ o.a = s.rd a ∧ o.b = s.rd b ∧ u.regs = s.regs ∧
      u.memory = (markLeaf s h true).memory)

/-- Addresses, runs and scores of a cache, and the clock (16_kv.md R427 to R429, R434). `kvxlat` reads its structures in
order and computes the address of the block's key or value; where the table entry and the cache descriptor both take a page
fault, the lower address is reported (06_memory.md R480); that it loads the cache descriptor also for a p at or above 64 nb
is the model's choice (log 21); `setvlrun` sets the length of a run, and elements that fall out of a tail-dead vector become
zero; `kvscore` adds weights to the scores, a failing page is the store page fault, the sequence descriptor's too, and a
`score` that is no multiple of 4 the misalignment trap, before a reserved bit is looked at (R429; 17_system.md R439). Each
reads the whole sequence descriptor, and one that reads a structure with a reserved bit set takes the engine fault, at the
address sA: that is the model's choice (log 33). A clock step takes the next number and marks what it read; that the clock
waits for the operations, stops where an access fails and after a full turn are the model's choices (log 21). -/
def Obligations.KvAccessResult : Prop :=
  let refuses := fun (s : State) i (sa : Word) =>
    s.kernelTakes → exec i s = .next (kernelEntry s { code := 10, sub := 1, eaddr := sa })
  (∀ (s : State) (d a b : BitVec 5) h nb u1 sq u2, (s.rd a).toNat % 64 = 0 →
    objectHit s .load 3 (s.rd a) = .ok h → objectSync s (s.rd a + 20) 4 = .ok (nb, u1) →
    objectWords u1 (s.rd a) 64 = .ok (sq, u2) →
    let p := (s.rd b).toNat % 2 ^ 32
    let g := (s.rd b).toNat / 2 ^ 32 % 64
    let half := (s.rd b).toNat / 2 ^ 38 % 2
    ((Sequence.mk (s.rd a) sq).reserved = true → refuses s (.kvxlat d a b) (s.rd a)) ∧
    (∀ x y, (Sequence.mk (s.rd a) sq).reserved = false → p < 64 * nb → s.kernelTakes →
      objectSync u2 (BitVec.ofNat 64 (sq.getD 1 0 + 4 * (p / 64))) 4 = .error (.trap { code := 3, eaddr := x }) →
      objectWords u2 (BitVec.ofNat 64 (sq.getD 0 0)) 128 = .error (.trap { code := 3, eaddr := y }) →
      exec (.kvxlat d a b) s = .next (kernelEntry s { code := 3, eaddr := if y.toNat < x.toNat then y else x })) ∧
    (∀ w u3 cd u5, (Sequence.mk (s.rd a) sq).reserved = false →
      (p < 64 * nb ∧ objectSync u2 (BitVec.ofNat 64 (sq.getD 1 0 + 4 * (p / 64))) 4 = .ok (w, u3) ∨ 64 * nb ≤ p ∧ u3 = u2) →
      (∃ x, objectWords u2 (BitVec.ofNat 64 (sq.getD 0 0)) 128 = .ok x) →
      objectWords (syncOrder u3) (BitVec.ofNat 64 (sq.getD 0 0)) 128 = .ok (cd, u5) →
      let k : Cache := { va := BitVec.ofNat 64 (sq.getD 0 0), words := cd }
      let ng := cd.getD 0 0 / 2 ^ 25 % 64 + 1
      (k.reserved = true → refuses s (.kvxlat d a b) (s.rd a)) ∧
      (k.reserved = false → (64 * nb ≤ p ∨ ng ≤ g) → exec (.kvxlat d a b) s = .next (retire (u5.wr d 0))) ∧
      (∀ e u6, k.reserved = false → p < 64 * nb → g < ng →
        objectWords u5 (BitVec.ofNat 64 (cd.getD 1 0 + 16 * g)) 16 = .ok (e, u6) →
        let bsize := 16384 * 2 ^ e.getD 1 0
        (4 < e.getD 1 0 → refuses s (.kvxlat d a b) (s.rd a)) ∧
        (e.getD 1 0 ≤ 4 → exec (.kvxlat d a b) s = .next (retire (u6.wr d (BitVec.ofNat 64
          (e.getD 0 0 + w % 2 ^ 24 * bsize + half * (bsize / 2) + p % 64 * (bsize / 128))))))))) ∧
  (∀ (s : State) (d a b : BitVec 5), s.level = .program → (s.rd a).toNat % 64 ≠ 0 → s.inStrip = false →
    ∀ i ∈ [Instr.kvxlat d a b, .setvlrun d a b, .kvscore d a b],
      exec i s = .next (kernelEntry s { code := 6, eaddr := s.rd a })) ∧
  (∀ (s : State) (d a b : BitVec 5) h lc u sq v, s.inStrip = false → (s.rd a).toNat % 64 = 0 →
    objectHit s .load 3 (s.rd a) = .ok h → objectSync s (s.rd a + 24) 4 = .ok (lc, u) →
    objectWords u (s.rd a) 64 = .ok (sq, v) →
    let p := (s.rd b).toNat % 2 ^ 32
    let per := max 1 ((s.rd b).toNat / 2 ^ 32 % 256)
    let run := if p < lc then min (64 - p % 64) (lc - p) else 0
    let grant := if s.lanes.grantG.toNat = 256 then s.vlmax else 128 * s.lanes.grantG.toNat
    ((Sequence.mk (s.rd a) sq).reserved = true → refuses s (.setvlrun d a b) (s.rd a)) ∧
    ((Sequence.mk (s.rd a) sq).reserved = false →
      ∃ t : State, exec (.setvlrun d a b) s = .next (retire (t.wr d (BitVec.ofNat 64 (min (run * per) (min s.vlmax grant))))) ∧
        t.lanes.vl.toNat = min (run * per) (min s.vlmax grant) ∧ t.lanes.grantE = s.lanes.grantG ∧ t.regs = s.regs ∧
        ∀ r e, e < 262144 → mapGet t.lanes.vreg (vkey r e) =
          if s.tailDead = true ∧ t.lanes.vl.toNat < s.lanes.vl.toNat ∧ t.lanes.vl.toNat ≤ e then 0
          else mapGet s.lanes.vreg (vkey r e))) ∧
  (∀ (s : State) (d a b : BitVec 5) f, (s.rd a).toNat % 64 = 0 → (s.rd a).toNat < windowBase → s.kernelTakes →
    translate s .load (s.rd a) = .error f → f.kind = .page →
      exec (.kvscore d a b) s = .next (kernelEntry s { code := 4, eaddr := f.addr })) ∧
  (∀ (s : State) (d a b : BitVec 5) sq u, (s.rd a).toNat % 64 = 0 → objectWords s (s.rd a) 64 4 = .ok (sq, u) →
    let score := sq.getD 4 0
    let p := (s.rd b).toNat % 2 ^ 32
    let n := min (min ((s.rd b).toNat / 2 ^ 32 % 2 ^ 11) 1024) (sq.getD 5 0 % 2 ^ 32 - p)
    (score % 4 ≠ 0 → s.kernelTakes →
      exec (.kvscore d a b) s = .next (kernelEntry s { code := 6, eaddr := BitVec.ofNat 64 score })) ∧
    (score % 4 = 0 → (Sequence.mk (s.rd a) sq).reserved = true → refuses s (.kvscore d a b) (s.rd a)) ∧
    ((Sequence.mk (s.rd a) sq).reserved = false →
      (score = 0 → exec (.kvscore d a b) s = .next (retire u)) ∧
      (∀ hs, score ≠ 0 → score % 4 = 0 → u.memory.poison = [] →
        (upto 0 n).mapM (fun k => objectHit u .atomic 4 (BitVec.ofNat 64 (score + 4 * (p + k)))) = .ok hs →
        exec (.kvscore d a b) s = .next (retire (addScores (markAll u .atomic hs)
          ((hs.map (·.loc)).zip ((upto 0 n).map (u.word d.toNat)))))))) ∧
  (∀ s : State, (s.kv.clocks = [] ∨ s.kv.barOps ≠ []) → exec .clockStep s = .next s) ∧
  (∀ (s : State) c rest, s.kv.clocks = c :: rest → s.kv.barOps = [] →
    let r := (readDue (clockOp s c 0) c.cache s).run []
    let s' := match r.1 with
      | .ok (_, t) => t
      | .error _ => keepReads s (clockOp s c 0) r.2
    (clockDue s c = false → exec .clockStep s = .next { s' with kv := { s'.kv with clocks := rest } }) ∧
    (clockDue s c = true →
      let op := clockOp s c (s.kv.barIssued + 1)
      ∀ k u l gs v m, (openCache op c.cache s').run [] = (.ok (k, u), l) → (readGroups op k u).run l = (.ok (gs, v), m) →
        (∀ e m', (clockUnit op k v).run m = (.error e, m') → e ≠ .pager → ∃ t, exec .clockStep s = .next t ∧
          t.kv.clocks = rest ∧ t.kv.barIssued = s.kv.barIssued + 1 ∧ t.kv.tc10 = BitVec.ofNat 64 (s.kv.barIssued + 1) ∧
          t.memory = (keepReads s' op m').memory) ∧
        (∀ demoted on x, ((clockUnit op k v).run m).1 = .ok ((demoted, on), x) → ∃ t, exec .clockStep s = .next t ∧
          t.memory = x.memory ∧ t.kv.barIssued = s.kv.barIssued + 1 ∧ t.kv.tc10 = BitVec.ofNat 64 (s.kv.barIssued + 1) ∧
          let idle := if demoted then 0 else c.idle + 1
          t.kv.clocks = if on = true ∧ idle < ceilDiv k.nids (unitIds gs) ∧ clockDue x c = true then
            { c with idle := idle } :: rest else rest)))

/-! ### Traps and system instructions -/

/-- Trap entry (17_system.md R438 to R443, R447; 02_encoding.md R45): a system call, a breakpoint and a word that is no
instruction enter the kernel from program level, and from kernel level with nest clear; a trap at kernel level with nest
set, or at firmware level with fstat.nest clear, enters the firmware; with fstat.nest set it halts the core. -/
def Obligations.TrapEntryResult : Prop :=
  ∀ s : State,
    (∀ w, decode w = none → instrOf w = .illegalEncoding (BitVec.ofNat 32 w)) ∧
    (s.kernelTakes →
      (∀ w, ∃ t, exec (.illegalEncoding w) s = .next t ∧ EntersKernel s t 1 s.pc 0) ∧
      (s.atLoopEnd = false →
        (∀ k, ∃ t, exec (.trap k) s = .next t ∧ EntersKernel s t (BitVec.ofNat 64 (13 + 256 * k.toNat)) (s.pc + 4) 0) ∧
        ∃ t, exec .brk s = .next t ∧ EntersKernel s t 12 s.pc 0)) ∧
    (∀ w, ((s.level = .kernel ∧ s.ctl.estatus.getLsbD 2 = true) ∨ (s.level = .firmware ∧ s.ctl.fstat.getLsbD 2 = false)) →
      ∃ t, exec (.illegalEncoding w) s = .next t ∧ EntersFirmware s t 1 s.pc 0 ∧
        (s.level = .kernel → s.ctl.kstat.toNat / 2 ^ 48 < 2 ^ 16 - 1 →
          t.ctl.kstat.toNat = s.ctl.kstat.toNat + 2 ^ 48)) ∧
    (∀ w, s.level = .firmware → s.ctl.fstat.getLsbD 2 = true → ∃ t, exec (.illegalEncoding w) s = .next t ∧
      t.mode = .halted ∧ t.level = .firmware ∧ t.ctl = s.ctl ∧ t.regs = s.regs ∧ t.memory = s.memory ∧
      t.hub.logHead.toNat = (s.hub.logHead.toNat + 1) % 255)

/-- The return from a trap and the instructions that need a level (17_system.md R447 to R451): `tret` restores the program
counter and the level that the entry saved and clears nest, and without an activation's contexts to restart it changes no
memory, but that after a `ctxload` of another activation the entry into program level hides what the handler had not
published (11_sync.md R283, R287, log 23); `halt` stops the core; `tlbinv` takes the next number, and its completion removes
its translations and shows the number. That this completion also leaves every store of the activation visible, and which
contexts a `tret` restarts, rest on log 15. `ifence`, the hints and `nop` only advance; that `ifence` does so rests on log
11, by which a fetch always reads the latest bytes. At program level the instructions of higher levels, a `uret` outside a
handler, and work created or parked inside one are illegal. -/
def Obligations.SystemInstructionResult : Prop :=
  ∀ s : State,
    (s.atLoopEnd = false → s.level = .kernel → ∃ t, exec .tret s = .next t ∧ t.pc = s.ctl.epc &&& ~~~3#64 ∧
      t.level = Level.ofCode (s.ctl.estatus.toNat % 4) ∧ t.ctl.estatus = s.ctl.estatus &&& 0x1B ∧
      t.ctl.fstat = s.ctl.fstat ∧ t.regs = s.regs ∧ t.lanes = s.lanes ∧ t.loops = s.loops ∧
      t.instret = s.instret + 1 ∧ (s.block = none → (s.sched.party = none ∨ t.level ≠ .program) → t.memory = s.memory) ∧
      (s.block = none → s.sched.party ≠ none → t.level = .program → t.memory = (dropUnpublished s).memory) ∧
      (t.level = .program → t.sched.party = s.actParty) ∧ (t.level ≠ .program → t.sched.party = s.sched.party) ∧
      (t.level = .program → t.ctl.stepArmed = (s.ctl.stepArmed || s.ctl.estatus.getLsbD 4)) ∧
      (t.level ≠ .program → t.ctl.stepArmed = s.ctl.stepArmed)) ∧
    (s.atLoopEnd = false → s.level = .firmware → ∃ t, exec .tret s = .next t ∧ t.pc = s.ctl.fepc ∧
      t.level = Level.ofCode (s.ctl.fstat.toNat % 4) ∧ t.ctl.fstat = s.ctl.fstat &&& 3 ∧
      t.ctl.estatus = s.ctl.estatus ∧ t.regs = s.regs ∧ t.lanes = s.lanes ∧ t.instret = s.instret + 1) ∧
    (s.atLoopEnd = false → s.level = .firmware →
      exec .halt s = .next { retire s with mode := .halted, commit := none }) ∧
    (∀ d a b, s.level ≠ .program →
      let k := { s.kv with tlbIssued := s.kv.tlbIssued + 1, tlbPending := s.kv.tlbPending ++ [(s.rd a, s.rd b)] }
      exec (.tlbinv d a b) s = .next (retire (({ s with kv := k } : State).wr d (s.kv.tlbIssued + 1)))) ∧
    (s.kv.tc15 ≠ s.kv.tlbIssued → ∃ t, exec .tlbinvCompletion s = .next t ∧ t.kv.tc15 = s.kv.tc15 + 1 ∧
      (∀ a b rest, s.kv.tlbPending = (a, b) :: rest → t.kv.tlbPending = rest ∧
        ∀ c, c ∈ t.tlb ↔ c ∈ s.tlb ∧ c.removedBy a b = false) ∧
      (∀ x ∈ t.memory.unpub, s.isLeft x.1 = true) ∧ t.memory.arrivals = [] ∧ publicationDone t = true ∧
      (∀ a, s.isLeft a = false → t.pubByte a = t.byte a)) ∧
    (∀ i, (i = .nop ∨ i = .ifence ∨ (∃ v, i = .hint v) ∨ (∃ a o, i = .pfch a o) ∨ (∃ a o, i = .pfl2 a o) ∨
      (∃ k v, i = .hintKind k v)) → exec i s = .next (retire s)) ∧
    (s.level = .program → ∀ i, (i = .tret ∨ i = .halt ∨ (∃ d a b, i = .tlbinv d a b) ∨ (∃ a, i = .ctxsave a) ∨
      (∃ a, i = .ctxload a) ∨ (i = .uret ∧ s.inHandler = false) ∨ (s.inHandler = true ∧ ((∃ a b, i = .spawn a b) ∨
      (∃ d a, i = .launch d a) ∨ (∃ a b, i = .join a b) ∨ ∃ a, i = .yield a))) →
        exec i s = .next (kernelEntry s { code := 1 }))

/-- Context images (17_system.md R454 to R456): `ctxsave` to pages it may write saves the activation and changes no register:
the image holds the registers, the saved program counter, the vector length and the words of the layout, and every part that
the present word, `vdirty` and `wdirty` select holds its section. `ctxload` of a valid image puts back the registers, the
saved program counter, the loops and the lanes; one that is not valid raises the engine fault with sub 2, and a poisoned one
the integrity error. Both wait while a unit of `xput` or `xget` is in flight (12_engines.md R313, log 22). That `ctxload`
leaves the handler's own stores as they are, until the entry into program level hides what it had not published (log 23),
that the home queue is the image's (log 23), what a value of the image that a field does not list loads as (log 26), and that
a frame it restores runs at program level (log 37) are the model's readings and choices. -/
def Obligations.ContextImageResult : Prop :=
  ∀ (s : State) (a : BitVec 5), s.level ≠ .program →
    (∀ ps, checkSave s (s.rd a) = .ok ps → unitInFlight s = true → exec (.ctxsave a) s = .next (waitHere s .save)) ∧
    (∀ ps, checkSave s (s.rd a) = .ok ps → unitInFlight s = false →
      let va := s.rd a
      let parts := savedParts s
      let inside := fun o => ∃ p ∈ parts, p.1 ≤ o ∧ o < p.1 + p.2
      ∃ t, exec (.ctxsave a) s = .next (retire t) ∧ t.regs = s.regs ∧
        t.kbank = s.kbank ∧ t.fbank = s.fbank ∧ t.lanes = s.lanes ∧ t.loops = s.loops ∧ t.ctl = s.ctl ∧
        t.sched.act = s.sched.act ∧
        (s.loops.length ≤ 6 → (∀ k, (s.tile k).entries.length ≤ 1023) →
          (∀ o o', inside o → inside o' → imageLoc ps va o = imageLoc ps va o' → o = o') →
          let im : Image := ⟨t, va, ps⟩
          im.q 0x20 = s.ctl.epc.toNat ∧ im.q 0x30 = s.block.getD 0 % 2 ^ 64 ∧ im.q 0x38 = s.presentWord ∧
          im.csr 0 = s.lanes.vl.toNat ∧ im.csr 1 = s.lanes.vcfg.toNat ∧ im.q 0x240 = s.loops.length ∧
          (∀ n, n < 32 → im.q (0x40 + 8 * n) = (mapGet s.regs n).toNat) ∧
          (∀ n, 24 ≤ n → n < 30 → im.q (0x140 + 8 * (n - 24)) = (mapGet s.shadow n).toNat) ∧
          (∀ k, k < 0xC00 → t.byte (imageLoc ps va k) = (imageHead s va s.ctl.epc).getD k 0) ∧
          (∀ p ∈ parts.tail, ∀ k, k < p.2 → t.byte (imageLoc ps va (p.1 + k)) = (sectionBytes s p.1).getD k 0))) ∧
    ((s.rd a).toNat % 4096 = 0 →
      (∀ x, readImageAt s (translate s) (s.rd a) = .ok (some x) →
        (checkImage x = .ok () → unitInFlight s = true → exec (.ctxload a) s = .next (waitHere s .save)) ∧
        (checkImage x = .ok () → unitInFlight s = false →
          let y : Image := { x with s := stopContexts (syncOrder x.s) }
          ∃ t, exec (.ctxload a) s = .next (retire t) ∧ t.level = s.level ∧ t.kbank = s.kbank ∧ t.fbank = s.fbank ∧
            (∀ n, 1 ≤ n → n < 32 → (mapGet t.regs n).toNat = y.q (0x40 + 8 * n)) ∧
            (∀ n, 24 ≤ n → n < 30 → (mapGet t.shadow n).toNat = y.q (0x140 + 8 * (n - 24))) ∧
            t.ctl.epc.toNat = y.q 0x20 / 4 * 4 ∧ t.ctl.wid.toNat = y.csr 14 ∧ t.loops = y.loops ∧ t.lanes = y.lanes ∧
            t.memory = y.s.memory ∧ t.sched.party = s.sched.party ∧
            (t.sched.act.map (·.home)) = some (y.q 0x28 % 512) ∧ t.block = some (y.q 0x30) ∧ t.frame.live = bitOf (y.q 0x308) 63 ∧
            (t.frame.live = true → t.frame.level = .program)) ∧
        (∀ v sub, x.poisoned = some (v, sub) → s.kernelTakes →
          exec (.ctxload a) s = .next (kernelEntry s { code := 11, sub := sub, eaddr := v }))) ∧
      (readImageAt s (translate s) (s.rd a) = .ok none → s.kernelTakes →
        exec (.ctxload a) s = .next (kernelEntry s { code := 10, sub := 2, eaddr := s.rd a }))) ∧
    ((s.rd a).toNat % 4096 ≠ 0 → s.kernelTakes → ∀ i ∈ [Instr.ctxsave a, .ctxload a],
      exec i s = .next (kernelEntry s { code := 6, eaddr := s.rd a }))

/-- The asynchronous causes and `wfi` (17_system.md R441, R444, R445, R448, R449; 04_control.md R105 to R108): the timer, a
pre-emption request at an iteration boundary, a forced one after any commit, and the step breakpoint enter the kernel; the
saturating counts of kstat count each pre-emption trap and each forced one;
`wfi` ends at once when something is pending, and otherwise waits until then or for 2^20 cycles. -/
def Obligations.AsynchronousCauseResult : Prop :=
  let npre := fun (s : State) => s.ctl.kstat.toNat / 2 ^ 24 % 2 ^ 24
  let nforce := fun (s : State) => s.ctl.kstat.toNat % 2 ^ 24
  let counts := fun (s t : State) (forced : Nat) => npre t = min (npre s + 1) (2 ^ 24 - 1) ∧
    nforce t = min (nforce s + forced) (2 ^ 24 - 1) ∧ t.ctl.kstat.toNat / 2 ^ 48 = s.ctl.kstat.toNat / 2 ^ 48
  (∀ s : State, s.ctl.tcmp.toNat ≤ s.ctl.cycle.toNat → s.atBoundary = true →
    (s.level = .program ∨ (s.level = .kernel ∧ s.ctl.estatus.getLsbD 3 = true ∧ s.ctl.estatus.getLsbD 2 = false)) →
    ∃ t, exec .timerInterrupt s = .next t ∧ EntersKernel s t 14 s.pc 0) ∧
  (∀ s : State, s.ctl.preReq.isSome = true → s.requestForced = false → s.level = .program → s.mode = .running →
    s.commit = some .boundary → s.inStrip = false →
    ∃ t, exec .preemptionTrap s = .next t ∧ EntersKernel s t 15 s.pc 0 ∧ t.ctl.preReq = none ∧ t.ctl.forced = false ∧
      counts s t 0) ∧
  (∀ s : State, s.requestForced = true → s.level = .program → s.atBoundary = true →
    ∃ t, exec .forcedPreemption s = .next t ∧ EntersKernel s t 15 s.pc 0 ∧ t.ctl.preReq = none ∧ t.ctl.forced = true ∧
      counts s t 1) ∧
  (∀ (s : State) c, s.ctl.stepArmed = true → s.level = .program → s.mode = .running → s.commit = some c → c ≠ .ret →
    s.inStrip = false →
    ∃ t, exec .stepBreakpoint s = .next t ∧ EntersKernel s t (12 + 256) s.pc 0 ∧ t.ctl.stepArmed = false) ∧
  (∀ s : State,
    let due := s.ctl.tcmp.toNat ≤ s.ctl.cycle.toNat ∨ s.ctl.preReq.isSome ∨ s.ctl.ustat.toNat % 2 ^ 11 ≠ 0 ∨ s.ctl.wake
    let woken := retire { s with ctl := { s.ctl with wake := false } }
    (due → exec .wfi s = .next woken) ∧
    (¬ due → s.wait = none → exec .wfi s = .next (waitHere s (.wfi s.ctl.cycle))) ∧
    (∀ c, s.wait = some (.wfi c) → (due → exec .wfiWake s = .next woken) ∧
      (2 ^ 20 ≤ (s.ctl.cycle - c).toNat → exec .wfiTimeout s = .next woken)))

/-! ### The hub -/

/-- Semaphores and control registers (18_platform.md R459, R463; 17_system.md R445, R447, R449, R452): a requester takes a
free semaphore with its id and a new count, its owner, firmware or a host frees it, the core's own
load acquires, and a release by the core publishes;
writes of the core's own page raise a pre-emption request, wake a `wfi`, set the timer compare and restart a halted core. A
store of the core has the order of a synchronising access; its store to a semaphore that it does not own changes nothing
else, and only a host's store of 8 bytes reaches the doorbell, whose two words a load of 8 bytes, or of 4 at the word's
address, reads as zero and as the status (18_platform.md R481).
That the events change nothing where a store is refused or misaligned (log 24), and that another core's page does nothing
to this core (log 5), are the model's choices. -/
def Obligations.HubRegisterResult : Prop :=
  (∀ (s : State) (q : BitVec 16) (n : BitVec 8),
    let old := (mapGet s.hub.semas n.toNat).toNat
    let new := fun (t : State) => (mapGet t.hub.semas n.toNat).toNat
    let u := if q.toNat = 1 + Config.coreId then syncOrder s else s
    (∃ t, exec (.semaphoreAcquire q n) s = .next t ∧ t.regs = s.regs ∧ t.memory = u.memory ∧
      (old % 2 ^ 16 = 0 → new t % 2 ^ 16 = q.toNat ∧ new t / 2 ^ 16 = (old / 2 ^ 16 + 1) % 2 ^ 48) ∧
      (old % 2 ^ 16 ≠ 0 → t = u)) ∧
    (∃ t, exec (.semaphoreRelease q n) s = .next t ∧ t.regs = s.regs ∧
      new t = (if old % 2 ^ 16 = q.toNat then old / 2 ^ 16 * 2 ^ 16 else old) ∧
      (q.toNat = 1 + Config.coreId → old % 2 ^ 16 = q.toNat →
        ∀ a, s.isLeft a = false → t.pubByte a = t.byte a)) ∧
    (∃ t, exec (.semaphoreForcedRelease n) s = .next t ∧ t.regs = s.regs ∧ t.memory = s.memory ∧
      new t = old / 2 ^ 16 * 2 ^ 16)) ∧
  (∀ (s : State) (c : BitVec 11) (v : BitVec 64),
    (c.toNat = Config.coreId →
      exec (.preq c) s = .next { s with ctl := { s.ctl with preReq := some (s.ctl.preReq.getD s.ctl.cycle) } } ∧
      (∀ k, s.wait = some (.wfi k) → exec (.wakeRegister c) s = .next { s with ctl := { s.ctl with wake := true } }) ∧
      exec (.tcmp c v) s = .next { s with ctl := { s.ctl with tcmp := v } } ∧
      (s.mode = .halted → exec (.restart c) s = .next { s with mode := .running })) ∧
    (c.toNat ≠ Config.coreId → ∀ i ∈ [Instr.preq c, .wakeRegister c, .tcmp c v, .restart c], ∃ t, exec i s = .next t ∧
      t.ctl = s.ctl ∧ t.mode = s.mode ∧ t.regs = s.regs ∧ t.memory = s.memory)) ∧
  (∀ (s : State) who p v n, p < 2 → n = 4 ∨ n = 8 →
    controlRead s who (0x3FFF80007000 + 16 * p) n = some (0, s) ∧
    controlRead s who (0x3FFF80007008 + 16 * p) n = some ((mapGet s.hub.doorbell p).toNat, s) ∧
    controlWrite s who (0x3FFF80007000 + 16 * p) n v = some s ∧
    controlWrite s who (0x3FFF80007008 + 16 * p) n v = some s) ∧
  (∀ (s : State) (host : Bool) (a v : BitVec 64),
    let r := if host then hostWord s (hostWho 0) a.toNat v.toNat
      else controlWrite8 (controlOrder s a.toNat v.toNat) s.self a.toNat v.toNat
    let u := if host then s else syncOrder s
    let owner := fun n => (mapGet s.hub.semas n).toNat % 2 ^ 16
    (a.toNat = 0x3FFF00000000 + 4096 * Config.coreId + 16 →
      exec (.controlRegisterWrite host a v) s = .next { u with ctl := { u.ctl with tcmp := v } }) ∧
    (∀ n, n < 256 → a.toNat = 0x3FFF80000000 + 8 * n → host = false → v.toNat % 2 ^ 16 = 0 → v.getLsbD 63 = false →
      ∃ t, exec (.controlRegisterWrite host a v) s = .next t ∧ t.regs = s.regs ∧
        (owner n = 1 + Config.coreId → (mapGet t.hub.semas n).toNat % 2 ^ 16 = 0 ∧
          ∀ x, s.isLeft x = false → t.pubByte x = t.byte x) ∧
        (owner n ≠ 1 + Config.coreId → t = syncOrder s)) ∧
    (∀ p, p < 2 → a.toNat = 0x3FFF80007000 + 16 * p →
      exec (.controlRegisterWrite host a v) s = .next (if host then doorbellStore s p v.toNat else syncOrder s)) ∧
    (∀ t, isControl a.toNat = true → a.toNat % 8 = 0 → r = some t → exec (.controlRegisterWrite host a v) s = .next t) ∧
    (isControl a.toNat = false ∨ a.toNat % 8 ≠ 0 ∨ r = none → exec (.controlRegisterWrite host a v) s = .next s))

/-- Errors, links, power and refresh (18_platform.md R467 to R476): counters, poison and the log; the integrity trap; the
ring; the grants, which move by at most 32 down and 16 up in an epoch without an exception, are those of the group's least
die and drop to 16 where a die of the group is hot; the trip, which removes the power; and the refresh factors below 110
degrees. That sub 5 and 6 arise at the next instruction and the others wait, and that a link's failure is raised on this
core, rest on log 25; the readings and decisions that an epoch is given, the step of 1 for a warm stack, and the die that the entry of a trip
between epochs names, on log 20. -/
def Obligations.HubEventResult : Prop :=
  (∀ (s : State) (k : BitVec 6), ∃ t, exec (.correctedError k) s = .next t ∧ t.ctl = s.ctl ∧ t.memory = s.memory ∧
    (mapGet t.hub.logCount k.toNat).toNat = min ((mapGet s.hub.logCount k.toNat).toNat + 1) (2 ^ 64 - 1)) ∧
  (∀ (s : State) (sub : BitVec 8) (l : BitVec 47), ∃ t, exec (.uncorrectableError sub l) s = .next t ∧
    t.memory.mem = s.memory.mem ∧ t.hub.logHead.toNat = (s.hub.logHead.toNat + 1) % 255 ∧
    ((isMemory l.toNat = true ∨ (2 ^ 46 ≤ l.toNat ∧ l.toNat < 2 ^ 46 + 2 ^ 21)) → poisonAt t l.toNat = some sub.toNat) ∧
    (∀ a, a / 64 ≠ l.toNat / 64 → poisonAt t a = poisonAt s a)) ∧
  (∀ (s : State) (sub : BitVec 8), s.level = .program →
    (∀ e rest, s.ctl.errPend = e :: rest → (∃ x ∈ s.ctl.errPend, x.1 = sub.toNat) → s.atBoundary = true →
      ∃ t, exec (.integrityError sub) s = .next t ∧ t.ctl.errPend = rest ∧
        EntersKernel s t (BitVec.ofNat 64 (11 + e.1 % 256 * 256)) s.pc e.2) ∧
    ((∀ x ∈ s.ctl.errPend, x.1 ≠ sub.toNat) → s.mode = .running → s.wait = none →
      ((sub = 5 ∨ sub = 6) → ∃ t, exec (.integrityError sub) s = .next t ∧
        EntersKernel s t (BitVec.ofNat 64 (11 + sub.toNat * 256)) s.pc 0) ∧
      (sub ≠ 5 → sub ≠ 6 → 1 ≤ sub.toNat → sub.toNat ≤ 7 → exec (.integrityError sub) s =
        .next { s with ctl := { s.ctl with errPend := s.ctl.errPend ++ [(sub.toNat, 0)] } }))) ∧
  (∀ (s : State) (k : BitVec 4),
    (k.toNat < 9 → s.hub.ringDown.getLsbD k.toNat = false → ∃ t, exec (.ringLinkFailure k) s = .next t ∧
      t.hub.ringDown = s.hub.ringDown ||| BitVec.ofNat 9 (2 ^ k.toNat) ∧
      t.ctl = { s.ctl with errPend := s.ctl.errPend ++ [(7, 0)] } ∧ t.memory = s.memory ∧ t.regs = s.regs) ∧
    (9 ≤ k.toNat ∨ s.hub.ringDown.getLsbD k.toNat = true → exec (.ringLinkFailure k) s = .next s)) ∧
  (∀ (s : State) (power : BitVec 12) (inlet : BitVec 8) (dies hbm : List (BitVec 8)) own,
    let e : Epoch := ⟨power.toNat, dies, hbm, own⟩
    let trips := (∃ k, k < 8 ∧ 115 ≤ (dies.getD k 0).toNat) ∨ ∃ k, k < 16 ∧ 110 ≤ (hbm.getD k 0).toNat
    ∃ t, exec (.grantEpoch power (inlet, dies, hbm) own) s = .next t ∧ t.hub.pnow = power ∧
      t.hub.temp.toNat % 2 ^ 24 = hottest dies + hottest hbm * 2 ^ 8 + inlet.toNat * 2 ^ 16 ∧
      t.hub.epoch = s.hub.epoch + 1 ∧ t.regs = s.regs ∧ t.memory = s.memory ∧ t.ctl = s.ctl ∧
      (∀ d, d < 8 → 1 ≤ t.grant d ∧
        let group := groupOf s d
        let warm := ∃ x ∈ group, ∃ k, (k = 2 * x ∨ k = 2 * x + 1) ∧ 95 ≤ (hbm.getD k 0).toNat ∧
          (hbm.getD k 0).toNat < 105
        let hot := ∃ x ∈ group, 105 ≤ (dies.getD x 0).toNat
        let alone := fun x => max 1 (min (min 256 s.hub.gcap.toNat) (own.getD x 256).toNat)
        let least := fun x =>
          if s.hub.plim.toNat * 11 < power.toNat * 10 then min 16 (s.grant x - 32) else s.grant x - 32
        let step := fun x => max (max 1 (least x)) (min (alone x) (s.grant x + 16))
        (¬ warm → ¬ hot → (∀ x ∈ group, t.grant d ≤ step x) ∧
          (t.grant d = 256 ∨ ∃ x ∈ group, t.grant d = step x)) ∧
        (warm → ∀ x ∈ group, t.grant d ≤ max 1 (s.grant x - 1)) ∧
        (hot → t.grant d ≤ 16)) ∧
      t.lanes = { s.lanes with grantG := BitVec.ofNat 9 (t.grant Config.dieId) } ∧
      (trips → t.hub.powered = false ∧ t.hub.logHead.toNat = (s.hub.logHead.toNat + 1) % 255) ∧
      (¬ trips → t.hub.powered = s.hub.powered ∧ t.hub.logHead = s.hub.logHead) ∧
      (∀ d, d < 8 → t.grant d = nextGrant s e d)) ∧
  (∀ (s : State), ∃ t, exec .thermalTrip s = .next t ∧ t.hub.powered = false ∧
    t.memory = s.memory ∧ t.regs = s.regs ∧ t.hub.logHead.toNat = (s.hub.logHead.toNat + 1) % 255 ∧
    (mapGet t.hub.logEntry (4 * s.hub.logHead.toNat + 1)).toNat = 2 + s.hub.hotDie.toNat * 2 ^ 16) ∧
  (∀ (s : State) temps, exec (.refreshEvaluation []) s = .next s ∧ (temps ≠ [] →
    ∃ t, exec (.refreshEvaluation temps) s = .next t ∧ t.regs = s.regs ∧ t.memory = s.memory ∧
      (∀ k x, temps[k]? = some x →
        (x.toNat < 85 → (mapGet t.hub.refresh k).toNat = 1) ∧
        (85 ≤ x.toNat → x.toNat < 95 → (mapGet t.hub.refresh k).toNat = 2) ∧
        (95 ≤ x.toNat → x.toNat < 110 → (mapGet t.hub.refresh k).toNat = 4)) ∧
      ((∃ k, k < 16 ∧ 110 ≤ (temps.getD k 0).toNat) → t.hub.powered = false) ∧
      ((∀ k, k < 16 → (temps.getD k 0).toNat < 110) → t.hub.powered = s.hub.powered)))

/-- Boot and attestation (18_platform.md R477 to R479): verified firmware starts at its entry point on a machine in its reset
state and is measured, and anything else leaves the core halted; a measurement is extended by 64 bytes written at firmware
level, and by no other; a report is requested of a mailbox that is not busy, and is complete with its 128 bytes in the
mailbox. That a power-on leaves memory, registers and control as at reset, with no image in memory (log 25), and where in
mailbox 2 the 64 bytes stand (log 30), are the model's choices. The key, the signature and its verification are those of
ML-DSA-65 as FIPS 204 gives them, which the spec cites (00_scope.md R16, log 9). -/
def Obligations.BootAndAttestationResult : Prop :=
  (∀ (s : State) image key sig, ∃ t, exec (.powerOn image key sig) s = .next t ∧ t.memory = State.reset.memory ∧
    t.regs = State.reset.regs ∧ t.lanes = State.reset.lanes ∧ t.ctl = State.reset.ctl ∧
    if mlDsaVerify key image sig = true ∧ keyTrusted key = true then
      t.mode = .running ∧ t.level = .firmware ∧ t.pc = Config.imageEntry image ∧ t.hub.measure = shake256 image 64
    else t.mode = .halted ∧ t.hub.logHead = 1) ∧
  (∀ (s : State) data, exec (.measurementExtend data) s = .next (if data.length = 64 ∧ s.level = .firmware then
    { s with hub := { s.hub with measure := shake256 (s.hub.measure ++ data) 64 } } else s)) ∧
  (∀ (s : State) (v : BitVec 64),
    let t := boxWrite s s.self 2 23 v.toNat
    let data := ((List.range 7).flatMap (fun k => leBytes (s.box 2 (16 + k)).toNat 8)) ++ leBytes v.toNat 8
    t.hub.measure = (if s.level = .firmware then shake256 (s.hub.measure ++ data) 64 else s.hub.measure) ∧
      (s.level ≠ .firmware → t = s)) ∧
  (∀ (s : State) (b : BitVec 2),
    (b ≠ 3 → (s.box b.toNat 1).getLsbD 0 = false → ∃ t, exec (.mailboxReportRequest b) s = .next t ∧
      t.box b.toNat 1 = 1 ∧ t.box b.toNat 0 = 1 ∧ (∀ o, 2 ≤ o → o < 1024 → t.box b.toNat o = s.box b.toNat o)) ∧
    (b = 3 ∨ (s.box b.toNat 1).getLsbD 0 = true → exec (.mailboxReportRequest b) s = .next s) ∧
    (b ≠ 3 → (s.box b.toNat 1).getLsbD 0 = true → ∃ t, exec (.reportComplete b) s = .next t ∧ t.box b.toNat 1 = 2 ∧
      ∀ k, 8 * k + 8 ≤ (reportBytes s b.toNat).length → t.box b.toNat (32 + k) =
        BitVec.ofNat 64 (leNat (((reportBytes s b.toNat).drop (8 * k)).take 8))))

/-- The wire format round-trips, and a packet that arrives at a port that is on has its effect (18_platform.md R461, R464,
R465): an operation whose number is the next one is delivered, one already delivered is only acknowledged again, a later one
is dropped; an acknowledgement retires what it covers. A malformed datagram is discarded and counted. A WRITE into a writable
window of memory is published. Retransmission, links and the doorbell (18_platform.md R464, R466, R481): an expired timeout
counts against every pending packet and sends them again, and the ninth ends the connection; a port that loses its link shows
it, all its connections whose peer entry has fo move to the other port and send again, the others wait, and those that wait
send again when the link is up, however a packet of theirs comes on the other port; a doorbell store makes the doorbell busy,
is ignored while it is, and when the hub acts on it leaves its status and, accepted, a launch. That numbers start at 1, what
an ACK carries, that a delivered number is acknowledged again and one beyond a gap is dropped, which operation a NAK refuses,
that a host's connection and one with fo take the port of the arriving packet, and that an operation which comes for another
one on the wrong port is performed are the model's choices (log 19). -/
def Obligations.TransportResult : Prop :=
  let again := fun (p : BitVec 1) (c : Conn) => c.pending.map (fun x => (p.toNat, { x.1 with ack := c.got }))
  ((∀ k : Packet, k.kind ≤ 8 → k.data.length ≤ 4096 → parsePacket (datagram k) = some k) ∧
   (∀ (s : State) i kind p g, PacketForm i kind p g →
     (s.portOn p.toNat = false → exec i s = .next s) ∧
     (s.portOn p.toNat = true → parsePacket g = none → ∃ t, exec i s = .next t ∧ t.memory = s.memory ∧ t.regs = s.regs ∧
       (t.port p.toNat 7).toNat % 2 ^ 32 = min ((s.port p.toNat 7).toNat % 2 ^ 32 + 1) (2 ^ 32 - 1)) ∧
     (∀ k, s.portOn p.toNat = true → parsePacket g = some k → k.kind = kind →
       (∀ c, kind ≠ 5 → kind ≠ 6 → findConn s k.conn = some c →
         let c' := cameOn s p (c.retire k.ack)
         (c.port ≠ p → (peerOf s c.id).isSome = true → failsOver s c = false → c' = c.retire k.ack) ∧
         ((c.port = p ∨ peerOf s c.id = none ∨ failsOver s c = true) → c' = { c.retire k.ack with port := p, waiting := false }) ∧
         (k.seq = c.got + 1 →
           exec i s = .next (deliver (putConn s { c' with got := k.seq }) p.toNat { c' with got := k.seq } k)) ∧
         (k.seq ≠ c.got + 1 → k.seq.toNat ≤ c.got.toNat → exec i s = .next (answer (putConn s c') c' 5 k.addr)) ∧
         (k.seq ≠ c.got + 1 → c.got.toNat < k.seq.toNat → exec i s = .next (putConn s c'))) ∧
       (∀ c, kind = 5 ∨ kind = 6 → findConn s k.conn = some c → ∃ t c', exec i s = .next t ∧ t = putConn s c' ∧
         c'.id = c.id ∧ (∀ x ∈ c'.pending, k.ack.toNat < x.1.seq.toNat) ∧
         c'.refused = if kind = 6 then (c.asked k.addr).toList ++ c.refused else c.refused))) ∧
   (∀ (s : State) (p : BitVec 1) g k c, s.portOn p.toNat = true → parsePacket g = some k → k.kind = 0 →
     findConn s k.conn = some c → k.seq = c.got + 1 → isControl k.addr.toNat = false → k.data ≠ [] →
     inWindow s p.toNat true k.addr.toNat k.data.length = true → plainBytes s k.addr.toNat k.data.length = true →
     ∃ t, exec (.write p g) s = .next t ∧ t.regs = s.regs ∧
       (∀ j b, k.data[j]? = some b → t.pubByte (k.addr.toNat + j) = b) ∧
       (∀ a, (a < k.addr.toNat ∨ k.addr.toNat + k.data.length ≤ a) → t.pubByte a = s.pubByte a ∧ t.byte a = s.byte a)) ∧
   (∀ (s : State) (p : Nat) who pa bs t, hostWrite s p who pa bs = some t → isControl pa = false → bs ≠ [] →
     (∀ j b, bs[j]? = some b → t.pubByte (pa + j) = b) ∧
     (∀ a, (a < pa ∨ pa + bs.length ≤ a) → t.pubByte a = s.pubByte a ∧ t.byte a = s.byte a))) ∧
  ((∀ (s : State) conn c x rest, findConn s conn = some c → c.pending = x :: rest → ∃ t,
     exec (.retransmission conn) s = .next t ∧ t.memory = s.memory ∧ t.regs = s.regs ∧
     (8 ≤ x.2 → t = putConn s { c with failed := true }) ∧
     (x.2 < 8 → let c' : Conn := { c with pending := c.pending.map (fun y => (y.1, y.2 + 1)) }
       t = resend (putConn s c') c' ∧ t.hub.conns = (putConn s c').hub.conns)) ∧
   (∀ (s : State) conn, findConn s conn = none → exec (.retransmission conn) s = .next s) ∧
   (∀ (s : State) (p : BitVec 1),
     (∃ t, exec (.linkLoss p) s = .next t ∧ t.port p.toNat 0 = 0 ∧ t.memory = s.memory ∧ t.regs = s.regs ∧ t.ctl = s.ctl ∧
       t.hub.conns = s.hub.conns.map (fun c => if c.port = p ∧ c.failed = false then
         (if failsOver s c = true then { c with port := p + 1 } else { c with waiting := true }) else c) ∧
       t.hub.outbox = s.hub.outbox ++ s.hub.conns.flatMap (fun c =>
         if c.port = p ∧ c.failed = false ∧ failsOver s c = true ∧ s.portOn (p + 1).toNat = true ∧
           connOpen s { c with port := p + 1 } = true then again (p + 1) c else [])) ∧
     (∃ t, exec (.linkUp p) s = .next t ∧ t.port p.toNat 0 = 3 ∧ t.memory = s.memory ∧ t.regs = s.regs ∧ t.ctl = s.ctl ∧
       t.hub.conns = s.hub.conns.map (fun c => if c.port = p ∧ c.failed = false then { c with waiting := false } else c) ∧
       t.hub.outbox = s.hub.outbox ++ s.hub.conns.flatMap (fun c =>
         if c.port = p ∧ c.failed = false ∧ c.waiting = true ∧ (s.port p.toNat 1).getLsbD 0 = true ∧ connOpen s c = true then
           again p c else []))) ∧
   (∀ (s : State) (p : BitVec 1) (a : BitVec 64),
     (bitOf (mapGet s.hub.doorbell p.toNat).toNat 2 = true → exec (.doorbell p a) s = .next s) ∧
     (bitOf (mapGet s.hub.doorbell p.toNat).toNat 2 = false → ∃ t, exec (.doorbell p a) s = .next t ∧ t.regs = s.regs ∧
       t.memory = s.memory ∧ t.sched = s.sched ∧ mapGet t.hub.doorbell p.toNat = 4 ∧
       t.hub.bellReq = s.hub.bellReq ++ [(p.toNat, a.toNat)]) ∧
     (∀ rest, s.hub.bellReq = (p.toNat, a.toNat) :: rest →
       let v : State := { s with hub := { s.hub with bellReq := rest } }
       let r := (hostLaunch v p.toNat a.toNat).1
       (inWindow s p.toNat false a.toNat 64 = false → r = 3) ∧
       ∃ t, hubAct s = some t ∧ t.regs = s.regs ∧ t.memory = s.memory ∧ t.hub.bellReq = rest ∧
         (mapGet t.hub.doorbell p.toNat).toNat = r ∧
         (r = 0 → ∃ l, t.sched.launches = s.sched.launches ++ [l] ∧ l.finished = 0 ∧ l.level = .program ∧
           l.words = (upto 0 8).map (fun k => BitVec.ofNat 64 (leNat ((upto (a.toNat + 8 * k) 8).map s.pubByte)))) ∧
         (r ≠ 0 → t.sched = s.sched ∧ t.hub.logHead.toNat = (s.hub.logHead.toNat + 1) % 255))))
end

