-- ==== Sys2Proof/Laws/Body.lean ====
section
/-!
SUPPORT. What a repeat frame's check runs is what the machine runs: the decoder and the meanings of its body words
(02_encoding.md R55).
-/

namespace Sys2Proof.Machine

/-- What `bodyExec` says of an instruction is its meaning. -/
theorem exec_of_bodyExec {i : Instr} {s : State} {o : Out} (h : bodyExec i s = some o) : exec i s = o := by
  cases i <;> first
    | exact Option.some.inj h
    | exact nomatch h

/-- A word that a body may hold has none of the other opcodes: those from 11 to 24. -/
theorem decodeBodyRaw_opcode {w : Nat} {i : Instr} (h : decodeBodyRaw w = some i) :
    fld w 0 6 < 11 ∨ 24 < fld w 0 6 := by
  have low : fld w 0 32 = 63 → fld w 0 6 = 63 := by
    simp only [fld]
    omega
  refine Decidable.byContradiction fun hn => ?_
  have hne : ∀ k, k < 11 ∨ 24 < k → fld w 0 6 ≠ k := by omega
  have h32 : fld w 0 32 ≠ 63 := fun e => hne 63 (.inr (by decide)) (low e)
  simp [decodeBodyRaw, hne, h32] at h

/-- The decoder before its well-formedness test (02_encoding.md R43). -/
theorem decodeRaw_of_decodeBodyRaw {w : Nat} {i : Instr} (h : decodeBodyRaw w = some i) : decodeRaw w = some i := by
  have hop := decodeBodyRaw_opcode h
  have hne : ∀ k, 11 ≤ k → k ≤ 24 → fld w 0 6 ≠ k := by omega
  unfold decodeRaw
  simp only [hne 11, hne 12, hne 13, hne 14, hne 15, hne 16, hne 17, hne 18, hne 19, hne 20, hne 21, hne 22, hne 23, hne 24,
    Nat.reduceLeDiff, if_false]
  split
  case isTrue e =>
    simp [decodeBodyRaw, e] at h
    simp [decodeFrame, h]
  case isFalse => exact h

/-- The decoder of body words agrees with the decoder (02_encoding.md R43, R45). -/
theorem decode_of_decodeBody {w : Nat} {i : Instr} (h : decodeBody w = some i) : decode w = some i := by
  unfold decodeBody at h
  cases e : decodeBodyRaw w with
  | none => rw [e] at h; exact nomatch h
  | some j => rw [e] at h; rw [decode, decodeRaw_of_decodeBodyRaw e]; exact h

end Sys2Proof.Machine
end

