-- ==== Sys2Proof/Laws/SMap.lean ====
section
/-!
SUPPORT. Laws of sparse storage: what a read gives after each operation, and that each operation keeps the canonical
form.
-/

namespace Sys2Proof.Machine

/-- A read after the removal of keys. -/
theorem mapGet_filter {w : Nat} (p : Nat → Bool) (m : SMap w) (b : Nat) :
    mapGet (m.filter (fun c => p c.1)) b = if p b then mapGet m b else 0#w := by
  induction m with
  | nil => simp [mapGet]
  | cons c t ih =>
    obtain ⟨k, v⟩ := c
    by_cases hp : p k <;> by_cases hk : k = b <;> simp_all [mapGet]

theorem mapGet_erase {w : Nat} (m : SMap w) (a b : Nat) :
    mapGet (mapErase m a) b = if a = b then 0#w else mapGet m b := by
  have h := mapGet_filter (fun k => k != a) m b
  by_cases hab : a = b
  · subst hab; simpa [mapErase] using h
  · have : b ≠ a := fun e => hab e.symm
    simpa [mapErase, hab, this] using h

theorem mapGet_insert {w : Nat} (m : SMap w) (a b : Nat) (v : BitVec w) (h : ∀ c ∈ m, c.1 ≠ a) :
    mapGet (mapInsert m a v) b = if a = b then v else mapGet m b := by
  induction m with
  | nil => simp [mapInsert, mapGet]
  | cons c t ih =>
    obtain ⟨k, x⟩ := c
    have hk : k ≠ a := h (k, x) (by simp)
    have ht : ∀ c ∈ t, c.1 ≠ a := fun c hc => h c (by simp [hc])
    by_cases hlt : a < k
    · simp [mapInsert, hlt, mapGet]
    · by_cases hkb : k = b
      · subst hkb; simp [mapInsert, hlt, mapGet, Ne.symm hk]
      · simp [mapInsert, hlt, mapGet, hkb, ih ht]

theorem mapErase_key {w : Nat} (m : SMap w) (a : Nat) : ∀ c ∈ mapErase m a, c.1 ≠ a := by
  intro c hc; simp [mapErase] at hc; exact hc.2

/-- A read after a write. -/
theorem mapGet_set {w : Nat} (m : SMap w) (a b : Nat) (v : BitVec w) :
    mapGet (mapSet m a v) b = if a = b then v else mapGet m b := by
  unfold mapSet
  split
  · subst_vars; exact mapGet_erase m a b
  · rw [mapGet_insert _ _ _ _ (mapErase_key m a), mapGet_erase]
    split <;> simp_all

@[simp] theorem mapGet_set_self {w : Nat} (m : SMap w) (a : Nat) (v : BitVec w) : mapGet (mapSet m a v) a = v := by
  simp [mapGet_set]

theorem mapGet_set_other {w : Nat} (m : SMap w) {a b : Nat} (v : BitVec w) (h : a ≠ b) :
    mapGet (mapSet m a v) b = mapGet m b := by
  simp [mapGet_set, h]

theorem mapGet_clear {w : Nat} (m : SMap w) (lo n b : Nat) :
    mapGet (mapClear m lo n) b = if lo ≤ b ∧ b < lo + n then 0#w else mapGet m b := by
  have h := mapGet_filter (fun k => decide (k < lo ∨ lo + n ≤ k)) m b
  unfold mapClear
  rw [h]
  by_cases hb : lo ≤ b ∧ b < lo + n
  · have : ¬ (b < lo ∨ lo + n ≤ b) := by omega
    simp [hb, this]
  · have : b < lo ∨ lo + n ≤ b := by omega
    simp [hb, this]

theorem mapGet_build {w : Nat} (f : Nat → BitVec w) (lo n b : Nat) :
    mapGet (mapBuild f lo n) b = if lo ≤ b ∧ b < lo + n then f b else 0#w := by
  induction n generalizing lo with
  | zero =>
    have : ¬ (lo ≤ b ∧ b < lo + 0) := by omega
    simp [mapBuild, mapGet] <;> omega
  | succ n ih =>
    unfold mapBuild
    by_cases hb : lo = b
    · subst hb
      have h1 : lo ≤ lo ∧ lo < lo + (n + 1) := by omega
      have h2 : ¬ (lo + 1 ≤ lo ∧ lo < lo + 1 + n) := by omega
      split
      · rw [ih, if_neg h2]; simp_all
      · simp [mapGet]
    · have h3 : (lo + 1 ≤ b ∧ b < lo + 1 + n) ↔ (lo ≤ b ∧ b < lo + (n + 1)) := by omega
      split
      · rw [ih]; simp only [h3]
      · simp only [mapGet, hb, if_false, ih, h3]

theorem mapGet_append {w : Nat} (m n : SMap w) (b : Nat) :
    mapGet (m ++ n) b = if m.any (fun c => c.1 == b) then mapGet m b else mapGet n b := by
  induction m with
  | nil => simp
  | cons c t ih =>
    obtain ⟨k, v⟩ := c
    by_cases hk : k = b
    · simp [mapGet, hk]
    · simp [mapGet, hk, ih]

theorem mapOk_mono {w : Nat} {m : SMap w} {lo lo' : Nat} (h : mapOk m lo = true) (hl : lo' ≤ lo) :
    mapOk m lo' = true := by
  cases m with
  | nil => rfl
  | cons c t =>
    obtain ⟨k, v⟩ := c
    simp [mapOk] at h ⊢
    exact ⟨⟨by omega, h.1.2⟩, h.2⟩

/-- Removing keys keeps the canonical form. -/
theorem mapOk_filter {w : Nat} {m : SMap w} {lo : Nat} (p : Nat × BitVec w → Bool) (h : mapOk m lo = true) :
    mapOk (m.filter p) lo = true := by
  induction m generalizing lo with
  | nil => rfl
  | cons c t ih =>
    obtain ⟨k, v⟩ := c
    simp [mapOk] at h
    by_cases hp : p (k, v)
    · simp [hp, mapOk, h.1.1, h.1.2]; exact ih h.2
    · simp [hp]; exact mapOk_mono (ih h.2) (by omega)

theorem mapOk_erase {w : Nat} {m : SMap w} {lo : Nat} (a : Nat) (h : mapOk m lo = true) :
    mapOk (mapErase m a) lo = true := mapOk_filter _ h

theorem mapOk_insert {w : Nat} {m : SMap w} {lo : Nat} (a : Nat) (v : BitVec w) (h : mapOk m lo = true)
    (ha : lo ≤ a) (hv : v ≠ 0#w) (hk : ∀ c ∈ m, c.1 ≠ a) : mapOk (mapInsert m a v) lo = true := by
  induction m generalizing lo with
  | nil => simp [mapInsert, mapOk, ha, hv]
  | cons c t ih =>
    obtain ⟨k, x⟩ := c
    simp [mapOk] at h
    have hka : k ≠ a := hk (k, x) (by simp)
    by_cases hlt : a < k
    · simp [mapInsert, hlt, mapOk, ha, hv, h.1.2, h.2] <;> omega
    · simp [mapInsert, hlt, mapOk, h.1.1, h.1.2]
      exact ih h.2 (by omega) (fun c hc => hk c (by simp [hc]))

/-- A write keeps the canonical form. -/
theorem mapOk_set {w : Nat} {m : SMap w} (a : Nat) (v : BitVec w) (h : mapOk m 0 = true) :
    mapOk (mapSet m a v) 0 = true := by
  unfold mapSet
  split
  · exact mapOk_erase a h
  · exact mapOk_insert a v (mapOk_erase a h) (by omega) ‹_› (mapErase_key m a)

/-- Clearing a range keeps the canonical form. -/
theorem mapOk_clear {w : Nat} {m : SMap w} {lo' : Nat} (lo n : Nat) (h : mapOk m lo' = true) :
    mapOk (mapClear m lo n) lo' = true := mapOk_filter _ h

theorem mapOk_build {w : Nat} (f : Nat → BitVec w) (lo n : Nat) : mapOk (mapBuild f lo n) lo = true := by
  induction n generalizing lo with
  | zero => rfl
  | succ n ih =>
    unfold mapBuild
    split
    · exact mapOk_mono (ih (lo + 1)) (by omega)
    · simp [mapOk, *]

theorem mapBuild_lt {w : Nat} (f : Nat → BitVec w) (lo n : Nat) : ∀ c ∈ mapBuild f lo n, c.1 < lo + n := by
  induction n generalizing lo with
  | zero => simp [mapBuild]
  | succ n ih =>
    intro c hc
    unfold mapBuild at hc
    split at hc
    · have := ih (lo + 1) c hc; omega
    · simp at hc
      rcases hc with rfl | hc
      · simp
      · have := ih (lo + 1) c hc; omega

/-- Two canonical maps, the second above the first, make one. -/
theorem mapOk_append {w : Nat} {m n : SMap w} {lo mid : Nat} (hm : mapOk m lo = true) (hn : mapOk n mid = true)
    (hlt : ∀ c ∈ m, c.1 < mid) (hle : lo ≤ mid) : mapOk (m ++ n) lo = true := by
  induction m generalizing lo with
  | nil => exact mapOk_mono hn hle
  | cons c t ih =>
    obtain ⟨k, v⟩ := c
    simp [mapOk] at hm
    simp [mapOk, hm.1.1, hm.1.2]
    exact ih hm.2 (fun c hc => hlt c (by simp [hc])) (hlt (k, v) (by simp))

theorem mapOk_above {w : Nat} {m : SMap w} {lo mid : Nat} (h : mapOk m lo = true) :
    mapOk (m.filter (fun c => decide (mid ≤ c.1))) mid = true := by
  induction m generalizing lo with
  | nil => rfl
  | cons c t ih =>
    obtain ⟨k, v⟩ := c
    simp [mapOk] at h
    by_cases hk : mid ≤ k
    · simp [hk, mapOk, h.1.2]; exact mapOk_filter _ h.2
    · simp [hk]; exact ih h.2

/-- Replacing a range keeps the canonical form. -/
theorem mapOk_fill {w : Nat} {m : SMap w} (lo n : Nat) (f : Nat → BitVec w) (h : mapOk m 0 = true) :
    mapOk (mapFill m lo n f) 0 = true := by
  unfold mapFill
  refine mapOk_append (mid := lo + n) ?_ (mapOk_above h) ?_ (by omega)
  · exact mapOk_append (mapOk_filter _ h) (mapOk_build f lo n) (by simp) (by omega)
  · intro c hc
    simp at hc
    rcases hc with hc | hc
    · omega
    · exact mapBuild_lt f lo n c hc

end Sys2Proof.Machine
end

