-- ==== Sys2Proof/Laws/State.lean ====
section
/-!
SUPPORT. What each named update of the state leaves in each field.
-/

namespace Sys2Proof.Machine

/-! ### counted -/

@[simp] theorem counted_regs (s : State) : (counted s).regs = s.regs := rfl
@[simp] theorem counted_shadow (s : State) : (counted s).shadow = s.shadow := rfl
@[simp] theorem counted_kbank (s : State) : (counted s).kbank = s.kbank := rfl
@[simp] theorem counted_fbank (s : State) : (counted s).fbank = s.fbank := rfl
@[simp] theorem counted_pc (s : State) : (counted s).pc = s.pc := rfl
@[simp] theorem counted_source (s : State) : (counted s).source = s.source := rfl
@[simp] theorem counted_level (s : State) : (counted s).level = s.level := rfl
@[simp] theorem counted_mode (s : State) : (counted s).mode = s.mode := rfl
@[simp] theorem counted_loops (s : State) : (counted s).loops = s.loops := rfl
@[simp] theorem counted_frame (s : State) : (counted s).frame = s.frame := rfl
@[simp] theorem counted_strip (s : State) : (counted s).strip = s.strip := rfl
@[simp] theorem counted_instret (s : State) : (counted s).instret = s.instret + 1 := rfl
@[simp] theorem counted_wait (s : State) : (counted s).wait = none := rfl
@[simp] theorem counted_commit (s : State) : (counted s).commit = s.commit := rfl
@[simp] theorem counted_freeCount (s : State) : (counted s).freeCount = s.freeCount := rfl
@[simp] theorem counted_agenda (s : State) : (counted s).agenda = s.agenda := rfl
@[simp] theorem counted_tlb (s : State) : (counted s).tlb = s.tlb := rfl
@[simp] theorem counted_lanes (s : State) : (counted s).lanes = s.lanes := rfl
@[simp] theorem counted_ctl (s : State) : (counted s).ctl = s.ctl := rfl
@[simp] theorem counted_memory (s : State) : (counted s).memory = s.memory := rfl
@[simp] theorem counted_sched (s : State) : (counted s).sched = s.sched := rfl
@[simp] theorem counted_kv (s : State) : (counted s).kv = s.kv := rfl
@[simp] theorem counted_hub (s : State) : (counted s).hub = s.hub := rfl

/-! ### goto -/

@[simp] theorem goto_regs (s : State) (t : Word) (b : Bool) : (goto s t b).regs = s.regs := rfl
@[simp] theorem goto_shadow (s : State) (t : Word) (b : Bool) : (goto s t b).shadow = s.shadow := rfl
@[simp] theorem goto_kbank (s : State) (t : Word) (b : Bool) : (goto s t b).kbank = s.kbank := rfl
@[simp] theorem goto_fbank (s : State) (t : Word) (b : Bool) : (goto s t b).fbank = s.fbank := rfl
@[simp] theorem goto_pc (s : State) (t : Word) (b : Bool) : (goto s t b).pc = t := rfl
@[simp] theorem goto_source (s : State) (t : Word) (b : Bool) : (goto s t b).source = s.source := rfl
@[simp] theorem goto_level (s : State) (t : Word) (b : Bool) : (goto s t b).level = s.level := rfl
@[simp] theorem goto_mode (s : State) (t : Word) (b : Bool) : (goto s t b).mode = s.mode := rfl
@[simp] theorem goto_loops (s : State) (t : Word) (b : Bool) : (goto s t b).loops = s.loops := rfl
@[simp] theorem goto_frame (s : State) (t : Word) (b : Bool) : (goto s t b).frame = s.frame := rfl
@[simp] theorem goto_strip (s : State) (t : Word) (b : Bool) : (goto s t b).strip = s.strip := rfl
@[simp] theorem goto_instret (s : State) (t : Word) (b : Bool) : (goto s t b).instret = s.instret + 1 := rfl
@[simp] theorem goto_wait (s : State) (t : Word) (b : Bool) : (goto s t b).wait = none := rfl
@[simp] theorem goto_commit (s : State) (t : Word) (b : Bool) : (goto s t b).commit = some (if b then .boundary else .plain) := rfl
@[simp] theorem goto_freeCount (s : State) (t : Word) (b : Bool) : (goto s t b).freeCount = s.freeCount := rfl
@[simp] theorem goto_agenda (s : State) (t : Word) (b : Bool) : (goto s t b).agenda = s.agenda := rfl
@[simp] theorem goto_tlb (s : State) (t : Word) (b : Bool) : (goto s t b).tlb = s.tlb := rfl
@[simp] theorem goto_lanes (s : State) (t : Word) (b : Bool) : (goto s t b).lanes = s.lanes := rfl
@[simp] theorem goto_ctl (s : State) (t : Word) (b : Bool) : (goto s t b).ctl = s.ctl := rfl
@[simp] theorem goto_memory (s : State) (t : Word) (b : Bool) : (goto s t b).memory = s.memory := rfl
@[simp] theorem goto_sched (s : State) (t : Word) (b : Bool) : (goto s t b).sched = s.sched := rfl
@[simp] theorem goto_kv (s : State) (t : Word) (b : Bool) : (goto s t b).kv = s.kv := rfl
@[simp] theorem goto_hub (s : State) (t : Word) (b : Bool) : (goto s t b).hub = s.hub := rfl

/-! ### waitHere -/

@[simp] theorem waitHere_regs (s : State) (w : Wait) : (waitHere s w).regs = s.regs := rfl
@[simp] theorem waitHere_shadow (s : State) (w : Wait) : (waitHere s w).shadow = s.shadow := rfl
@[simp] theorem waitHere_kbank (s : State) (w : Wait) : (waitHere s w).kbank = s.kbank := rfl
@[simp] theorem waitHere_fbank (s : State) (w : Wait) : (waitHere s w).fbank = s.fbank := rfl
@[simp] theorem waitHere_pc (s : State) (w : Wait) : (waitHere s w).pc = s.pc := rfl
@[simp] theorem waitHere_source (s : State) (w : Wait) : (waitHere s w).source = s.source := rfl
@[simp] theorem waitHere_level (s : State) (w : Wait) : (waitHere s w).level = s.level := rfl
@[simp] theorem waitHere_mode (s : State) (w : Wait) : (waitHere s w).mode = s.mode := rfl
@[simp] theorem waitHere_loops (s : State) (w : Wait) : (waitHere s w).loops = s.loops := rfl
@[simp] theorem waitHere_frame (s : State) (w : Wait) : (waitHere s w).frame = s.frame := rfl
@[simp] theorem waitHere_strip (s : State) (w : Wait) : (waitHere s w).strip = s.strip := rfl
@[simp] theorem waitHere_instret (s : State) (w : Wait) : (waitHere s w).instret = s.instret := rfl
@[simp] theorem waitHere_wait (s : State) (w : Wait) : (waitHere s w).wait = some w := rfl
@[simp] theorem waitHere_commit (s : State) (w : Wait) : (waitHere s w).commit = none := rfl
@[simp] theorem waitHere_freeCount (s : State) (w : Wait) : (waitHere s w).freeCount = s.freeCount := rfl
@[simp] theorem waitHere_agenda (s : State) (w : Wait) : (waitHere s w).agenda = s.agenda := rfl
@[simp] theorem waitHere_tlb (s : State) (w : Wait) : (waitHere s w).tlb = s.tlb := rfl
@[simp] theorem waitHere_lanes (s : State) (w : Wait) : (waitHere s w).lanes = s.lanes := rfl
@[simp] theorem waitHere_ctl (s : State) (w : Wait) : (waitHere s w).ctl = s.ctl := rfl
@[simp] theorem waitHere_memory (s : State) (w : Wait) : (waitHere s w).memory = s.memory := rfl
@[simp] theorem waitHere_sched (s : State) (w : Wait) : (waitHere s w).sched = s.sched := rfl
@[simp] theorem waitHere_kv (s : State) (w : Wait) : (waitHere s w).kv = s.kv := rfl
@[simp] theorem waitHere_hub (s : State) (w : Wait) : (waitHere s w).hub = s.hub := rfl

/-! ### hideStore -/

@[simp] theorem hideStore_regs (s : State) (loc : Nat) : (hideStore s loc).regs = s.regs := rfl
@[simp] theorem hideStore_shadow (s : State) (loc : Nat) : (hideStore s loc).shadow = s.shadow := rfl
@[simp] theorem hideStore_kbank (s : State) (loc : Nat) : (hideStore s loc).kbank = s.kbank := rfl
@[simp] theorem hideStore_fbank (s : State) (loc : Nat) : (hideStore s loc).fbank = s.fbank := rfl
@[simp] theorem hideStore_pc (s : State) (loc : Nat) : (hideStore s loc).pc = s.pc := rfl
@[simp] theorem hideStore_source (s : State) (loc : Nat) : (hideStore s loc).source = s.source := rfl
@[simp] theorem hideStore_level (s : State) (loc : Nat) : (hideStore s loc).level = s.level := rfl
@[simp] theorem hideStore_mode (s : State) (loc : Nat) : (hideStore s loc).mode = s.mode := rfl
@[simp] theorem hideStore_loops (s : State) (loc : Nat) : (hideStore s loc).loops = s.loops := rfl
@[simp] theorem hideStore_frame (s : State) (loc : Nat) : (hideStore s loc).frame = s.frame := rfl
@[simp] theorem hideStore_strip (s : State) (loc : Nat) : (hideStore s loc).strip = s.strip := rfl
@[simp] theorem hideStore_instret (s : State) (loc : Nat) : (hideStore s loc).instret = s.instret := rfl
@[simp] theorem hideStore_wait (s : State) (loc : Nat) : (hideStore s loc).wait = s.wait := rfl
@[simp] theorem hideStore_commit (s : State) (loc : Nat) : (hideStore s loc).commit = s.commit := rfl
@[simp] theorem hideStore_freeCount (s : State) (loc : Nat) : (hideStore s loc).freeCount = s.freeCount := rfl
@[simp] theorem hideStore_agenda (s : State) (loc : Nat) : (hideStore s loc).agenda = s.agenda := rfl
@[simp] theorem hideStore_tlb (s : State) (loc : Nat) : (hideStore s loc).tlb = s.tlb := rfl
@[simp] theorem hideStore_lanes (s : State) (loc : Nat) : (hideStore s loc).lanes = s.lanes := rfl
@[simp] theorem hideStore_ctl (s : State) (loc : Nat) : (hideStore s loc).ctl = s.ctl := rfl
@[simp] theorem hideStore_memory (s : State) (loc : Nat) : (hideStore s loc).memory = s.memory := rfl
@[simp] theorem hideStore_hub (s : State) (loc : Nat) : (hideStore s loc).hub = s.hub := rfl

/-! ### storeByte -/

@[simp] theorem storeByte_regs (s : State) (loc : Nat) (b : Byte) : (storeByte s loc b).regs = s.regs := rfl
@[simp] theorem storeByte_shadow (s : State) (loc : Nat) (b : Byte) : (storeByte s loc b).shadow = s.shadow := rfl
@[simp] theorem storeByte_kbank (s : State) (loc : Nat) (b : Byte) : (storeByte s loc b).kbank = s.kbank := rfl
@[simp] theorem storeByte_fbank (s : State) (loc : Nat) (b : Byte) : (storeByte s loc b).fbank = s.fbank := rfl
@[simp] theorem storeByte_pc (s : State) (loc : Nat) (b : Byte) : (storeByte s loc b).pc = s.pc := rfl
@[simp] theorem storeByte_source (s : State) (loc : Nat) (b : Byte) : (storeByte s loc b).source = s.source := rfl
@[simp] theorem storeByte_level (s : State) (loc : Nat) (b : Byte) : (storeByte s loc b).level = s.level := rfl
@[simp] theorem storeByte_mode (s : State) (loc : Nat) (b : Byte) : (storeByte s loc b).mode = s.mode := rfl
@[simp] theorem storeByte_loops (s : State) (loc : Nat) (b : Byte) : (storeByte s loc b).loops = s.loops := rfl
@[simp] theorem storeByte_frame (s : State) (loc : Nat) (b : Byte) : (storeByte s loc b).frame = s.frame := rfl
@[simp] theorem storeByte_strip (s : State) (loc : Nat) (b : Byte) : (storeByte s loc b).strip = s.strip := rfl
@[simp] theorem storeByte_instret (s : State) (loc : Nat) (b : Byte) : (storeByte s loc b).instret = s.instret := rfl
@[simp] theorem storeByte_wait (s : State) (loc : Nat) (b : Byte) : (storeByte s loc b).wait = s.wait := rfl
@[simp] theorem storeByte_commit (s : State) (loc : Nat) (b : Byte) : (storeByte s loc b).commit = s.commit := rfl
@[simp] theorem storeByte_freeCount (s : State) (loc : Nat) (b : Byte) : (storeByte s loc b).freeCount = s.freeCount := rfl
@[simp] theorem storeByte_agenda (s : State) (loc : Nat) (b : Byte) : (storeByte s loc b).agenda = s.agenda := rfl
@[simp] theorem storeByte_tlb (s : State) (loc : Nat) (b : Byte) : (storeByte s loc b).tlb = s.tlb := rfl
@[simp] theorem storeByte_lanes (s : State) (loc : Nat) (b : Byte) : (storeByte s loc b).lanes = s.lanes := rfl
@[simp] theorem storeByte_ctl (s : State) (loc : Nat) (b : Byte) : (storeByte s loc b).ctl = s.ctl := rfl
@[simp] theorem storeByte_hub (s : State) (loc : Nat) (b : Byte) : (storeByte s loc b).hub = s.hub := rfl

/-! ### syncByte -/

@[simp] theorem syncByte_regs (s : State) (loc : Nat) (b : Byte) : (syncByte s loc b).regs = s.regs := rfl
@[simp] theorem syncByte_shadow (s : State) (loc : Nat) (b : Byte) : (syncByte s loc b).shadow = s.shadow := rfl
@[simp] theorem syncByte_kbank (s : State) (loc : Nat) (b : Byte) : (syncByte s loc b).kbank = s.kbank := rfl
@[simp] theorem syncByte_fbank (s : State) (loc : Nat) (b : Byte) : (syncByte s loc b).fbank = s.fbank := rfl
@[simp] theorem syncByte_pc (s : State) (loc : Nat) (b : Byte) : (syncByte s loc b).pc = s.pc := rfl
@[simp] theorem syncByte_source (s : State) (loc : Nat) (b : Byte) : (syncByte s loc b).source = s.source := rfl
@[simp] theorem syncByte_level (s : State) (loc : Nat) (b : Byte) : (syncByte s loc b).level = s.level := rfl
@[simp] theorem syncByte_mode (s : State) (loc : Nat) (b : Byte) : (syncByte s loc b).mode = s.mode := rfl
@[simp] theorem syncByte_loops (s : State) (loc : Nat) (b : Byte) : (syncByte s loc b).loops = s.loops := rfl
@[simp] theorem syncByte_frame (s : State) (loc : Nat) (b : Byte) : (syncByte s loc b).frame = s.frame := rfl
@[simp] theorem syncByte_strip (s : State) (loc : Nat) (b : Byte) : (syncByte s loc b).strip = s.strip := rfl
@[simp] theorem syncByte_instret (s : State) (loc : Nat) (b : Byte) : (syncByte s loc b).instret = s.instret := rfl
@[simp] theorem syncByte_wait (s : State) (loc : Nat) (b : Byte) : (syncByte s loc b).wait = s.wait := rfl
@[simp] theorem syncByte_commit (s : State) (loc : Nat) (b : Byte) : (syncByte s loc b).commit = s.commit := rfl
@[simp] theorem syncByte_freeCount (s : State) (loc : Nat) (b : Byte) : (syncByte s loc b).freeCount = s.freeCount := rfl
@[simp] theorem syncByte_agenda (s : State) (loc : Nat) (b : Byte) : (syncByte s loc b).agenda = s.agenda := rfl
@[simp] theorem syncByte_tlb (s : State) (loc : Nat) (b : Byte) : (syncByte s loc b).tlb = s.tlb := rfl
@[simp] theorem syncByte_lanes (s : State) (loc : Nat) (b : Byte) : (syncByte s loc b).lanes = s.lanes := rfl
@[simp] theorem syncByte_ctl (s : State) (loc : Nat) (b : Byte) : (syncByte s loc b).ctl = s.ctl := rfl
@[simp] theorem syncByte_hub (s : State) (loc : Nat) (b : Byte) : (syncByte s loc b).hub = s.hub := rfl

/-! ### agentByte -/

@[simp] theorem agentByte_regs (s : State) (loc : Nat) (b : Byte) : (agentByte s loc b).regs = s.regs := rfl
@[simp] theorem agentByte_shadow (s : State) (loc : Nat) (b : Byte) : (agentByte s loc b).shadow = s.shadow := rfl
@[simp] theorem agentByte_kbank (s : State) (loc : Nat) (b : Byte) : (agentByte s loc b).kbank = s.kbank := rfl
@[simp] theorem agentByte_fbank (s : State) (loc : Nat) (b : Byte) : (agentByte s loc b).fbank = s.fbank := rfl
@[simp] theorem agentByte_pc (s : State) (loc : Nat) (b : Byte) : (agentByte s loc b).pc = s.pc := rfl
@[simp] theorem agentByte_source (s : State) (loc : Nat) (b : Byte) : (agentByte s loc b).source = s.source := rfl
@[simp] theorem agentByte_level (s : State) (loc : Nat) (b : Byte) : (agentByte s loc b).level = s.level := rfl
@[simp] theorem agentByte_mode (s : State) (loc : Nat) (b : Byte) : (agentByte s loc b).mode = s.mode := rfl
@[simp] theorem agentByte_loops (s : State) (loc : Nat) (b : Byte) : (agentByte s loc b).loops = s.loops := rfl
@[simp] theorem agentByte_frame (s : State) (loc : Nat) (b : Byte) : (agentByte s loc b).frame = s.frame := rfl
@[simp] theorem agentByte_strip (s : State) (loc : Nat) (b : Byte) : (agentByte s loc b).strip = s.strip := rfl
@[simp] theorem agentByte_instret (s : State) (loc : Nat) (b : Byte) : (agentByte s loc b).instret = s.instret := rfl
@[simp] theorem agentByte_wait (s : State) (loc : Nat) (b : Byte) : (agentByte s loc b).wait = s.wait := rfl
@[simp] theorem agentByte_commit (s : State) (loc : Nat) (b : Byte) : (agentByte s loc b).commit = s.commit := rfl
@[simp] theorem agentByte_freeCount (s : State) (loc : Nat) (b : Byte) : (agentByte s loc b).freeCount = s.freeCount := rfl
@[simp] theorem agentByte_agenda (s : State) (loc : Nat) (b : Byte) : (agentByte s loc b).agenda = s.agenda := rfl
@[simp] theorem agentByte_tlb (s : State) (loc : Nat) (b : Byte) : (agentByte s loc b).tlb = s.tlb := rfl
@[simp] theorem agentByte_lanes (s : State) (loc : Nat) (b : Byte) : (agentByte s loc b).lanes = s.lanes := rfl
@[simp] theorem agentByte_ctl (s : State) (loc : Nat) (b : Byte) : (agentByte s loc b).ctl = s.ctl := rfl
@[simp] theorem agentByte_hub (s : State) (loc : Nat) (b : Byte) : (agentByte s loc b).hub = s.hub := rfl

/-! ### editByte -/

@[simp] theorem editByte_regs (s : State) (loc : Nat) (g : Byte → Byte) : (editByte s loc g).regs = s.regs := rfl
@[simp] theorem editByte_shadow (s : State) (loc : Nat) (g : Byte → Byte) : (editByte s loc g).shadow = s.shadow := rfl
@[simp] theorem editByte_kbank (s : State) (loc : Nat) (g : Byte → Byte) : (editByte s loc g).kbank = s.kbank := rfl
@[simp] theorem editByte_fbank (s : State) (loc : Nat) (g : Byte → Byte) : (editByte s loc g).fbank = s.fbank := rfl
@[simp] theorem editByte_pc (s : State) (loc : Nat) (g : Byte → Byte) : (editByte s loc g).pc = s.pc := rfl
@[simp] theorem editByte_source (s : State) (loc : Nat) (g : Byte → Byte) : (editByte s loc g).source = s.source := rfl
@[simp] theorem editByte_level (s : State) (loc : Nat) (g : Byte → Byte) : (editByte s loc g).level = s.level := rfl
@[simp] theorem editByte_mode (s : State) (loc : Nat) (g : Byte → Byte) : (editByte s loc g).mode = s.mode := rfl
@[simp] theorem editByte_loops (s : State) (loc : Nat) (g : Byte → Byte) : (editByte s loc g).loops = s.loops := rfl
@[simp] theorem editByte_frame (s : State) (loc : Nat) (g : Byte → Byte) : (editByte s loc g).frame = s.frame := rfl
@[simp] theorem editByte_strip (s : State) (loc : Nat) (g : Byte → Byte) : (editByte s loc g).strip = s.strip := rfl
@[simp] theorem editByte_instret (s : State) (loc : Nat) (g : Byte → Byte) : (editByte s loc g).instret = s.instret := rfl
@[simp] theorem editByte_wait (s : State) (loc : Nat) (g : Byte → Byte) : (editByte s loc g).wait = s.wait := rfl
@[simp] theorem editByte_commit (s : State) (loc : Nat) (g : Byte → Byte) : (editByte s loc g).commit = s.commit := rfl
@[simp] theorem editByte_freeCount (s : State) (loc : Nat) (g : Byte → Byte) : (editByte s loc g).freeCount = s.freeCount := rfl
@[simp] theorem editByte_agenda (s : State) (loc : Nat) (g : Byte → Byte) : (editByte s loc g).agenda = s.agenda := rfl
@[simp] theorem editByte_tlb (s : State) (loc : Nat) (g : Byte → Byte) : (editByte s loc g).tlb = s.tlb := rfl
@[simp] theorem editByte_lanes (s : State) (loc : Nat) (g : Byte → Byte) : (editByte s loc g).lanes = s.lanes := rfl
@[simp] theorem editByte_ctl (s : State) (loc : Nat) (g : Byte → Byte) : (editByte s loc g).ctl = s.ctl := rfl
@[simp] theorem editByte_hub (s : State) (loc : Nat) (g : Byte → Byte) : (editByte s loc g).hub = s.hub := rfl
@[simp] theorem editByte_mem (s : State) (loc : Nat) (g : Byte → Byte) :
    (editByte s loc g).memory.mem = mapSet s.memory.mem loc (g (s.byte loc)) := rfl

/-! ### orByte -/

@[simp] theorem orByte_regs (s : State) (loc : Nat) (b : Byte) : (orByte s loc b).regs = s.regs := rfl
@[simp] theorem orByte_shadow (s : State) (loc : Nat) (b : Byte) : (orByte s loc b).shadow = s.shadow := rfl
@[simp] theorem orByte_kbank (s : State) (loc : Nat) (b : Byte) : (orByte s loc b).kbank = s.kbank := rfl
@[simp] theorem orByte_fbank (s : State) (loc : Nat) (b : Byte) : (orByte s loc b).fbank = s.fbank := rfl
@[simp] theorem orByte_pc (s : State) (loc : Nat) (b : Byte) : (orByte s loc b).pc = s.pc := rfl
@[simp] theorem orByte_source (s : State) (loc : Nat) (b : Byte) : (orByte s loc b).source = s.source := rfl
@[simp] theorem orByte_level (s : State) (loc : Nat) (b : Byte) : (orByte s loc b).level = s.level := rfl
@[simp] theorem orByte_mode (s : State) (loc : Nat) (b : Byte) : (orByte s loc b).mode = s.mode := rfl
@[simp] theorem orByte_loops (s : State) (loc : Nat) (b : Byte) : (orByte s loc b).loops = s.loops := rfl
@[simp] theorem orByte_frame (s : State) (loc : Nat) (b : Byte) : (orByte s loc b).frame = s.frame := rfl
@[simp] theorem orByte_strip (s : State) (loc : Nat) (b : Byte) : (orByte s loc b).strip = s.strip := rfl
@[simp] theorem orByte_instret (s : State) (loc : Nat) (b : Byte) : (orByte s loc b).instret = s.instret := rfl
@[simp] theorem orByte_wait (s : State) (loc : Nat) (b : Byte) : (orByte s loc b).wait = s.wait := rfl
@[simp] theorem orByte_commit (s : State) (loc : Nat) (b : Byte) : (orByte s loc b).commit = s.commit := rfl
@[simp] theorem orByte_freeCount (s : State) (loc : Nat) (b : Byte) : (orByte s loc b).freeCount = s.freeCount := rfl
@[simp] theorem orByte_agenda (s : State) (loc : Nat) (b : Byte) : (orByte s loc b).agenda = s.agenda := rfl
@[simp] theorem orByte_tlb (s : State) (loc : Nat) (b : Byte) : (orByte s loc b).tlb = s.tlb := rfl
@[simp] theorem orByte_lanes (s : State) (loc : Nat) (b : Byte) : (orByte s loc b).lanes = s.lanes := rfl
@[simp] theorem orByte_ctl (s : State) (loc : Nat) (b : Byte) : (orByte s loc b).ctl = s.ctl := rfl
@[simp] theorem orByte_hub (s : State) (loc : Nat) (b : Byte) : (orByte s loc b).hub = s.hub := rfl

/-! ### showBytes -/

@[simp] theorem showBytes_regs (s : State) (p : Nat → Bool) : (showBytes s p).regs = s.regs := rfl
@[simp] theorem showBytes_shadow (s : State) (p : Nat → Bool) : (showBytes s p).shadow = s.shadow := rfl
@[simp] theorem showBytes_kbank (s : State) (p : Nat → Bool) : (showBytes s p).kbank = s.kbank := rfl
@[simp] theorem showBytes_fbank (s : State) (p : Nat → Bool) : (showBytes s p).fbank = s.fbank := rfl
@[simp] theorem showBytes_pc (s : State) (p : Nat → Bool) : (showBytes s p).pc = s.pc := rfl
@[simp] theorem showBytes_source (s : State) (p : Nat → Bool) : (showBytes s p).source = s.source := rfl
@[simp] theorem showBytes_level (s : State) (p : Nat → Bool) : (showBytes s p).level = s.level := rfl
@[simp] theorem showBytes_mode (s : State) (p : Nat → Bool) : (showBytes s p).mode = s.mode := rfl
@[simp] theorem showBytes_loops (s : State) (p : Nat → Bool) : (showBytes s p).loops = s.loops := rfl
@[simp] theorem showBytes_frame (s : State) (p : Nat → Bool) : (showBytes s p).frame = s.frame := rfl
@[simp] theorem showBytes_strip (s : State) (p : Nat → Bool) : (showBytes s p).strip = s.strip := rfl
@[simp] theorem showBytes_instret (s : State) (p : Nat → Bool) : (showBytes s p).instret = s.instret := rfl
@[simp] theorem showBytes_wait (s : State) (p : Nat → Bool) : (showBytes s p).wait = s.wait := rfl
@[simp] theorem showBytes_commit (s : State) (p : Nat → Bool) : (showBytes s p).commit = s.commit := rfl
@[simp] theorem showBytes_freeCount (s : State) (p : Nat → Bool) : (showBytes s p).freeCount = s.freeCount := rfl
@[simp] theorem showBytes_agenda (s : State) (p : Nat → Bool) : (showBytes s p).agenda = s.agenda := rfl
@[simp] theorem showBytes_tlb (s : State) (p : Nat → Bool) : (showBytes s p).tlb = s.tlb := rfl
@[simp] theorem showBytes_lanes (s : State) (p : Nat → Bool) : (showBytes s p).lanes = s.lanes := rfl
@[simp] theorem showBytes_ctl (s : State) (p : Nat → Bool) : (showBytes s p).ctl = s.ctl := rfl
@[simp] theorem showBytes_hub (s : State) (p : Nat → Bool) : (showBytes s p).hub = s.hub := rfl
@[simp] theorem showBytes_memory (s : State) (p : Nat → Bool) : (showBytes s p).memory = s.memory := rfl

/-! ### endPublish -/

@[simp] theorem endPublish_regs (s : State) : (endPublish s).regs = s.regs := rfl
@[simp] theorem endPublish_shadow (s : State) : (endPublish s).shadow = s.shadow := rfl
@[simp] theorem endPublish_kbank (s : State) : (endPublish s).kbank = s.kbank := rfl
@[simp] theorem endPublish_fbank (s : State) : (endPublish s).fbank = s.fbank := rfl
@[simp] theorem endPublish_pc (s : State) : (endPublish s).pc = s.pc := rfl
@[simp] theorem endPublish_source (s : State) : (endPublish s).source = s.source := rfl
@[simp] theorem endPublish_level (s : State) : (endPublish s).level = s.level := rfl
@[simp] theorem endPublish_mode (s : State) : (endPublish s).mode = s.mode := rfl
@[simp] theorem endPublish_loops (s : State) : (endPublish s).loops = s.loops := rfl
@[simp] theorem endPublish_frame (s : State) : (endPublish s).frame = s.frame := rfl
@[simp] theorem endPublish_strip (s : State) : (endPublish s).strip = s.strip := rfl
@[simp] theorem endPublish_instret (s : State) : (endPublish s).instret = s.instret := rfl
@[simp] theorem endPublish_wait (s : State) : (endPublish s).wait = s.wait := rfl
@[simp] theorem endPublish_commit (s : State) : (endPublish s).commit = s.commit := rfl
@[simp] theorem endPublish_freeCount (s : State) : (endPublish s).freeCount = s.freeCount := rfl
@[simp] theorem endPublish_agenda (s : State) : (endPublish s).agenda = s.agenda := rfl
@[simp] theorem endPublish_tlb (s : State) : (endPublish s).tlb = s.tlb := rfl
@[simp] theorem endPublish_lanes (s : State) : (endPublish s).lanes = s.lanes := rfl
@[simp] theorem endPublish_ctl (s : State) : (endPublish s).ctl = s.ctl := rfl
@[simp] theorem endPublish_hub (s : State) : (endPublish s).hub = s.hub := rfl
@[simp] theorem endPublish_sched (s : State) : (endPublish s).sched = s.sched := rfl
@[simp] theorem endPublish_kv (s : State) : (endPublish s).kv = s.kv := rfl

/-! ### maskWritten -/

@[simp] theorem maskWritten_regs (s : State) (k : Nat) : (maskWritten s k).regs = s.regs := rfl
@[simp] theorem maskWritten_shadow (s : State) (k : Nat) : (maskWritten s k).shadow = s.shadow := rfl
@[simp] theorem maskWritten_kbank (s : State) (k : Nat) : (maskWritten s k).kbank = s.kbank := rfl
@[simp] theorem maskWritten_fbank (s : State) (k : Nat) : (maskWritten s k).fbank = s.fbank := rfl
@[simp] theorem maskWritten_pc (s : State) (k : Nat) : (maskWritten s k).pc = s.pc := rfl
@[simp] theorem maskWritten_source (s : State) (k : Nat) : (maskWritten s k).source = s.source := rfl
@[simp] theorem maskWritten_level (s : State) (k : Nat) : (maskWritten s k).level = s.level := rfl
@[simp] theorem maskWritten_mode (s : State) (k : Nat) : (maskWritten s k).mode = s.mode := rfl
@[simp] theorem maskWritten_loops (s : State) (k : Nat) : (maskWritten s k).loops = s.loops := rfl
@[simp] theorem maskWritten_frame (s : State) (k : Nat) : (maskWritten s k).frame = s.frame := rfl
@[simp] theorem maskWritten_strip (s : State) (k : Nat) : (maskWritten s k).strip = s.strip := rfl
@[simp] theorem maskWritten_instret (s : State) (k : Nat) : (maskWritten s k).instret = s.instret := rfl
@[simp] theorem maskWritten_wait (s : State) (k : Nat) : (maskWritten s k).wait = s.wait := rfl
@[simp] theorem maskWritten_commit (s : State) (k : Nat) : (maskWritten s k).commit = s.commit := rfl
@[simp] theorem maskWritten_freeCount (s : State) (k : Nat) : (maskWritten s k).freeCount = s.freeCount := rfl
@[simp] theorem maskWritten_agenda (s : State) (k : Nat) : (maskWritten s k).agenda = s.agenda := rfl
@[simp] theorem maskWritten_tlb (s : State) (k : Nat) : (maskWritten s k).tlb = s.tlb := rfl
@[simp] theorem maskWritten_lanes (s : State) (k : Nat) : (maskWritten s k).lanes = s.lanes := rfl
@[simp] theorem maskWritten_ctl (s : State) (k : Nat) : (maskWritten s k).ctl = s.ctl := rfl
@[simp] theorem maskWritten_memory (s : State) (k : Nat) : (maskWritten s k).memory = s.memory := rfl
@[simp] theorem maskWritten_kv (s : State) (k : Nat) : (maskWritten s k).kv = s.kv := rfl
@[simp] theorem maskWritten_hub (s : State) (k : Nat) : (maskWritten s k).hub = s.hub := rfl

/-! ### tileWritten -/

@[simp] theorem tileWritten_regs (s : State) (t : Nat) : (tileWritten s t).regs = s.regs := rfl
@[simp] theorem tileWritten_shadow (s : State) (t : Nat) : (tileWritten s t).shadow = s.shadow := rfl
@[simp] theorem tileWritten_kbank (s : State) (t : Nat) : (tileWritten s t).kbank = s.kbank := rfl
@[simp] theorem tileWritten_fbank (s : State) (t : Nat) : (tileWritten s t).fbank = s.fbank := rfl
@[simp] theorem tileWritten_pc (s : State) (t : Nat) : (tileWritten s t).pc = s.pc := rfl
@[simp] theorem tileWritten_source (s : State) (t : Nat) : (tileWritten s t).source = s.source := rfl
@[simp] theorem tileWritten_level (s : State) (t : Nat) : (tileWritten s t).level = s.level := rfl
@[simp] theorem tileWritten_mode (s : State) (t : Nat) : (tileWritten s t).mode = s.mode := rfl
@[simp] theorem tileWritten_loops (s : State) (t : Nat) : (tileWritten s t).loops = s.loops := rfl
@[simp] theorem tileWritten_frame (s : State) (t : Nat) : (tileWritten s t).frame = s.frame := rfl
@[simp] theorem tileWritten_strip (s : State) (t : Nat) : (tileWritten s t).strip = s.strip := rfl
@[simp] theorem tileWritten_instret (s : State) (t : Nat) : (tileWritten s t).instret = s.instret := rfl
@[simp] theorem tileWritten_wait (s : State) (t : Nat) : (tileWritten s t).wait = s.wait := rfl
@[simp] theorem tileWritten_commit (s : State) (t : Nat) : (tileWritten s t).commit = s.commit := rfl
@[simp] theorem tileWritten_freeCount (s : State) (t : Nat) : (tileWritten s t).freeCount = s.freeCount := rfl
@[simp] theorem tileWritten_agenda (s : State) (t : Nat) : (tileWritten s t).agenda = s.agenda := rfl
@[simp] theorem tileWritten_tlb (s : State) (t : Nat) : (tileWritten s t).tlb = s.tlb := rfl
@[simp] theorem tileWritten_lanes (s : State) (t : Nat) : (tileWritten s t).lanes = s.lanes := rfl
@[simp] theorem tileWritten_ctl (s : State) (t : Nat) : (tileWritten s t).ctl = s.ctl := rfl
@[simp] theorem tileWritten_memory (s : State) (t : Nat) : (tileWritten s t).memory = s.memory := rfl
@[simp] theorem tileWritten_kv (s : State) (t : Nat) : (tileWritten s t).kv = s.kv := rfl
@[simp] theorem tileWritten_hub (s : State) (t : Nat) : (tileWritten s t).hub = s.hub := rfl

/-! ### raiseF -/

@[simp] theorem raiseF_regs (s : State) (f : BitVec 5) : (raiseF s f).regs = s.regs := rfl
@[simp] theorem raiseF_shadow (s : State) (f : BitVec 5) : (raiseF s f).shadow = s.shadow := rfl
@[simp] theorem raiseF_kbank (s : State) (f : BitVec 5) : (raiseF s f).kbank = s.kbank := rfl
@[simp] theorem raiseF_fbank (s : State) (f : BitVec 5) : (raiseF s f).fbank = s.fbank := rfl
@[simp] theorem raiseF_pc (s : State) (f : BitVec 5) : (raiseF s f).pc = s.pc := rfl
@[simp] theorem raiseF_source (s : State) (f : BitVec 5) : (raiseF s f).source = s.source := rfl
@[simp] theorem raiseF_level (s : State) (f : BitVec 5) : (raiseF s f).level = s.level := rfl
@[simp] theorem raiseF_mode (s : State) (f : BitVec 5) : (raiseF s f).mode = s.mode := rfl
@[simp] theorem raiseF_loops (s : State) (f : BitVec 5) : (raiseF s f).loops = s.loops := rfl
@[simp] theorem raiseF_frame (s : State) (f : BitVec 5) : (raiseF s f).frame = s.frame := rfl
@[simp] theorem raiseF_strip (s : State) (f : BitVec 5) : (raiseF s f).strip = s.strip := rfl
@[simp] theorem raiseF_instret (s : State) (f : BitVec 5) : (raiseF s f).instret = s.instret := rfl
@[simp] theorem raiseF_wait (s : State) (f : BitVec 5) : (raiseF s f).wait = s.wait := rfl
@[simp] theorem raiseF_commit (s : State) (f : BitVec 5) : (raiseF s f).commit = s.commit := rfl
@[simp] theorem raiseF_freeCount (s : State) (f : BitVec 5) : (raiseF s f).freeCount = s.freeCount := rfl
@[simp] theorem raiseF_agenda (s : State) (f : BitVec 5) : (raiseF s f).agenda = s.agenda := rfl
@[simp] theorem raiseF_tlb (s : State) (f : BitVec 5) : (raiseF s f).tlb = s.tlb := rfl
@[simp] theorem raiseF_lanes (s : State) (f : BitVec 5) : (raiseF s f).lanes = { s.lanes with fflags := s.lanes.fflags ||| f } := rfl
@[simp] theorem raiseF_ctl (s : State) (f : BitVec 5) : (raiseF s f).ctl = s.ctl := rfl
@[simp] theorem raiseF_memory (s : State) (f : BitVec 5) : (raiseF s f).memory = s.memory := rfl
@[simp] theorem raiseF_sched (s : State) (f : BitVec 5) : (raiseF s f).sched = s.sched := rfl
@[simp] theorem raiseF_kv (s : State) (f : BitVec 5) : (raiseF s f).kv = s.kv := rfl
@[simp] theorem raiseF_hub (s : State) (f : BitVec 5) : (raiseF s f).hub = s.hub := rfl

/-! ### raiseQ -/

@[simp] theorem raiseQ_regs (s : State) (q : BitVec 4) : (raiseQ s q).regs = s.regs := rfl
@[simp] theorem raiseQ_shadow (s : State) (q : BitVec 4) : (raiseQ s q).shadow = s.shadow := rfl
@[simp] theorem raiseQ_kbank (s : State) (q : BitVec 4) : (raiseQ s q).kbank = s.kbank := rfl
@[simp] theorem raiseQ_fbank (s : State) (q : BitVec 4) : (raiseQ s q).fbank = s.fbank := rfl
@[simp] theorem raiseQ_pc (s : State) (q : BitVec 4) : (raiseQ s q).pc = s.pc := rfl
@[simp] theorem raiseQ_source (s : State) (q : BitVec 4) : (raiseQ s q).source = s.source := rfl
@[simp] theorem raiseQ_level (s : State) (q : BitVec 4) : (raiseQ s q).level = s.level := rfl
@[simp] theorem raiseQ_mode (s : State) (q : BitVec 4) : (raiseQ s q).mode = s.mode := rfl
@[simp] theorem raiseQ_loops (s : State) (q : BitVec 4) : (raiseQ s q).loops = s.loops := rfl
@[simp] theorem raiseQ_frame (s : State) (q : BitVec 4) : (raiseQ s q).frame = s.frame := rfl
@[simp] theorem raiseQ_strip (s : State) (q : BitVec 4) : (raiseQ s q).strip = s.strip := rfl
@[simp] theorem raiseQ_instret (s : State) (q : BitVec 4) : (raiseQ s q).instret = s.instret := rfl
@[simp] theorem raiseQ_wait (s : State) (q : BitVec 4) : (raiseQ s q).wait = s.wait := rfl
@[simp] theorem raiseQ_commit (s : State) (q : BitVec 4) : (raiseQ s q).commit = s.commit := rfl
@[simp] theorem raiseQ_freeCount (s : State) (q : BitVec 4) : (raiseQ s q).freeCount = s.freeCount := rfl
@[simp] theorem raiseQ_agenda (s : State) (q : BitVec 4) : (raiseQ s q).agenda = s.agenda := rfl
@[simp] theorem raiseQ_tlb (s : State) (q : BitVec 4) : (raiseQ s q).tlb = s.tlb := rfl
@[simp] theorem raiseQ_lanes (s : State) (q : BitVec 4) : (raiseQ s q).lanes = { s.lanes with qflags := s.lanes.qflags ||| q } := rfl
@[simp] theorem raiseQ_ctl (s : State) (q : BitVec 4) : (raiseQ s q).ctl = s.ctl := rfl
@[simp] theorem raiseQ_memory (s : State) (q : BitVec 4) : (raiseQ s q).memory = s.memory := rfl
@[simp] theorem raiseQ_sched (s : State) (q : BitVec 4) : (raiseQ s q).sched = s.sched := rfl
@[simp] theorem raiseQ_kv (s : State) (q : BitVec 4) : (raiseQ s q).kv = s.kv := rfl
@[simp] theorem raiseQ_hub (s : State) (q : BitVec 4) : (raiseQ s q).hub = s.hub := rfl

/-! ### stripGoto -/

@[simp] theorem stripGoto_regs (s : State) (i : Nat) : (stripGoto s i).regs = s.regs := rfl
@[simp] theorem stripGoto_shadow (s : State) (i : Nat) : (stripGoto s i).shadow = s.shadow := rfl
@[simp] theorem stripGoto_kbank (s : State) (i : Nat) : (stripGoto s i).kbank = s.kbank := rfl
@[simp] theorem stripGoto_fbank (s : State) (i : Nat) : (stripGoto s i).fbank = s.fbank := rfl
@[simp] theorem stripGoto_pc (s : State) (i : Nat) : (stripGoto s i).pc = s.pc := rfl
@[simp] theorem stripGoto_source (s : State) (i : Nat) : (stripGoto s i).source = s.source := rfl
@[simp] theorem stripGoto_level (s : State) (i : Nat) : (stripGoto s i).level = s.level := rfl
@[simp] theorem stripGoto_mode (s : State) (i : Nat) : (stripGoto s i).mode = s.mode := rfl
@[simp] theorem stripGoto_loops (s : State) (i : Nat) : (stripGoto s i).loops = s.loops := rfl
@[simp] theorem stripGoto_frame (s : State) (i : Nat) : (stripGoto s i).frame = s.frame := rfl
@[simp] theorem stripGoto_instret (s : State) (i : Nat) : (stripGoto s i).instret = s.instret := rfl
@[simp] theorem stripGoto_wait (s : State) (i : Nat) : (stripGoto s i).wait = s.wait := rfl
@[simp] theorem stripGoto_commit (s : State) (i : Nat) : (stripGoto s i).commit = some .plain := rfl
@[simp] theorem stripGoto_freeCount (s : State) (i : Nat) : (stripGoto s i).freeCount = s.freeCount := rfl
@[simp] theorem stripGoto_agenda (s : State) (i : Nat) : (stripGoto s i).agenda = s.agenda := rfl
@[simp] theorem stripGoto_tlb (s : State) (i : Nat) : (stripGoto s i).tlb = s.tlb := rfl
@[simp] theorem stripGoto_lanes (s : State) (i : Nat) : (stripGoto s i).lanes = s.lanes := rfl
@[simp] theorem stripGoto_ctl (s : State) (i : Nat) : (stripGoto s i).ctl = s.ctl := rfl
@[simp] theorem stripGoto_memory (s : State) (i : Nat) : (stripGoto s i).memory = s.memory := rfl
@[simp] theorem stripGoto_sched (s : State) (i : Nat) : (stripGoto s i).sched = s.sched := rfl
@[simp] theorem stripGoto_kv (s : State) (i : Nat) : (stripGoto s i).kv = s.kv := rfl
@[simp] theorem stripGoto_hub (s : State) (i : Nat) : (stripGoto s i).hub = s.hub := rfl

/-! ### clearPoison -/

@[simp] theorem clearPoison_regs (s : State) (ls : List Nat) : (clearPoison s ls).regs = s.regs := rfl
@[simp] theorem clearPoison_shadow (s : State) (ls : List Nat) : (clearPoison s ls).shadow = s.shadow := rfl
@[simp] theorem clearPoison_kbank (s : State) (ls : List Nat) : (clearPoison s ls).kbank = s.kbank := rfl
@[simp] theorem clearPoison_fbank (s : State) (ls : List Nat) : (clearPoison s ls).fbank = s.fbank := rfl
@[simp] theorem clearPoison_pc (s : State) (ls : List Nat) : (clearPoison s ls).pc = s.pc := rfl
@[simp] theorem clearPoison_source (s : State) (ls : List Nat) : (clearPoison s ls).source = s.source := rfl
@[simp] theorem clearPoison_level (s : State) (ls : List Nat) : (clearPoison s ls).level = s.level := rfl
@[simp] theorem clearPoison_mode (s : State) (ls : List Nat) : (clearPoison s ls).mode = s.mode := rfl
@[simp] theorem clearPoison_loops (s : State) (ls : List Nat) : (clearPoison s ls).loops = s.loops := rfl
@[simp] theorem clearPoison_frame (s : State) (ls : List Nat) : (clearPoison s ls).frame = s.frame := rfl
@[simp] theorem clearPoison_strip (s : State) (ls : List Nat) : (clearPoison s ls).strip = s.strip := rfl
@[simp] theorem clearPoison_instret (s : State) (ls : List Nat) : (clearPoison s ls).instret = s.instret := rfl
@[simp] theorem clearPoison_wait (s : State) (ls : List Nat) : (clearPoison s ls).wait = s.wait := rfl
@[simp] theorem clearPoison_commit (s : State) (ls : List Nat) : (clearPoison s ls).commit = s.commit := rfl
@[simp] theorem clearPoison_freeCount (s : State) (ls : List Nat) : (clearPoison s ls).freeCount = s.freeCount := rfl
@[simp] theorem clearPoison_agenda (s : State) (ls : List Nat) : (clearPoison s ls).agenda = s.agenda := rfl
@[simp] theorem clearPoison_tlb (s : State) (ls : List Nat) : (clearPoison s ls).tlb = s.tlb := rfl
@[simp] theorem clearPoison_lanes (s : State) (ls : List Nat) : (clearPoison s ls).lanes = s.lanes := rfl
@[simp] theorem clearPoison_ctl (s : State) (ls : List Nat) : (clearPoison s ls).ctl = s.ctl := rfl
@[simp] theorem clearPoison_sched (s : State) (ls : List Nat) : (clearPoison s ls).sched = s.sched := rfl
@[simp] theorem clearPoison_kv (s : State) (ls : List Nat) : (clearPoison s ls).kv = s.kv := rfl
@[simp] theorem clearPoison_hub (s : State) (ls : List Nat) : (clearPoison s ls).hub = s.hub := rfl

/-! ### What a store of one byte does to memory -/

@[simp] theorem hideStore_memory_mem (s : State) (loc : Nat) : (hideStore s loc).memory.mem = s.memory.mem := rfl
@[simp] theorem storeByte_mem (s : State) (loc : Nat) (b : Byte) :
    (storeByte s loc b).memory.mem = mapSet s.memory.mem loc b := rfl
@[simp] theorem syncByte_mem (s : State) (loc : Nat) (b : Byte) :
    (syncByte s loc b).memory.mem = mapSet s.memory.mem loc b := rfl
@[simp] theorem agentByte_mem (s : State) (loc : Nat) (b : Byte) :
    (agentByte s loc b).memory.mem = mapSet s.memory.mem loc b := rfl
@[simp] theorem orByte_mem (s : State) (loc : Nat) (b : Byte) :
    (orByte s loc b).memory.mem = mapSet s.memory.mem loc (s.byte loc ||| b) := rfl
@[simp] theorem endPublish_mem (s : State) : (endPublish s).memory.mem = s.memory.mem := rfl
@[simp] theorem endPublish_arrivals (s : State) : (endPublish s).memory.arrivals = s.memory.arrivals := rfl
@[simp] theorem clearPoison_mem (s : State) (ls : List Nat) : (clearPoison s ls).memory.mem = s.memory.mem := rfl

/-! ### Writing a scalar register -/

@[simp] theorem setReg_pc (s : State) (n : Nat) (v : Word) : (s.setReg n v).pc = s.pc := by
  unfold State.setReg; repeat' split
  all_goals rfl
@[simp] theorem wr_pc (s : State) (r : BitVec 5) (v : Word) : (s.wr r v).pc = s.pc := setReg_pc s _ v
@[simp] theorem setReg_source (s : State) (n : Nat) (v : Word) : (s.setReg n v).source = s.source := by
  unfold State.setReg; repeat' split
  all_goals rfl
@[simp] theorem wr_source (s : State) (r : BitVec 5) (v : Word) : (s.wr r v).source = s.source := setReg_source s _ v
@[simp] theorem setReg_level (s : State) (n : Nat) (v : Word) : (s.setReg n v).level = s.level := by
  unfold State.setReg; repeat' split
  all_goals rfl
@[simp] theorem wr_level (s : State) (r : BitVec 5) (v : Word) : (s.wr r v).level = s.level := setReg_level s _ v
@[simp] theorem setReg_mode (s : State) (n : Nat) (v : Word) : (s.setReg n v).mode = s.mode := by
  unfold State.setReg; repeat' split
  all_goals rfl
@[simp] theorem wr_mode (s : State) (r : BitVec 5) (v : Word) : (s.wr r v).mode = s.mode := setReg_mode s _ v
@[simp] theorem setReg_loops (s : State) (n : Nat) (v : Word) : (s.setReg n v).loops = s.loops := by
  unfold State.setReg; repeat' split
  all_goals rfl
@[simp] theorem wr_loops (s : State) (r : BitVec 5) (v : Word) : (s.wr r v).loops = s.loops := setReg_loops s _ v
@[simp] theorem setReg_frame (s : State) (n : Nat) (v : Word) : (s.setReg n v).frame = s.frame := by
  unfold State.setReg; repeat' split
  all_goals rfl
@[simp] theorem wr_frame (s : State) (r : BitVec 5) (v : Word) : (s.wr r v).frame = s.frame := setReg_frame s _ v
@[simp] theorem setReg_strip (s : State) (n : Nat) (v : Word) : (s.setReg n v).strip = s.strip := by
  unfold State.setReg; repeat' split
  all_goals rfl
@[simp] theorem wr_strip (s : State) (r : BitVec 5) (v : Word) : (s.wr r v).strip = s.strip := setReg_strip s _ v
@[simp] theorem setReg_instret (s : State) (n : Nat) (v : Word) : (s.setReg n v).instret = s.instret := by
  unfold State.setReg; repeat' split
  all_goals rfl
@[simp] theorem wr_instret (s : State) (r : BitVec 5) (v : Word) : (s.wr r v).instret = s.instret := setReg_instret s _ v
@[simp] theorem setReg_wait (s : State) (n : Nat) (v : Word) : (s.setReg n v).wait = s.wait := by
  unfold State.setReg; repeat' split
  all_goals rfl
@[simp] theorem wr_wait (s : State) (r : BitVec 5) (v : Word) : (s.wr r v).wait = s.wait := setReg_wait s _ v
@[simp] theorem setReg_commit (s : State) (n : Nat) (v : Word) : (s.setReg n v).commit = s.commit := by
  unfold State.setReg; repeat' split
  all_goals rfl
@[simp] theorem wr_commit (s : State) (r : BitVec 5) (v : Word) : (s.wr r v).commit = s.commit := setReg_commit s _ v
@[simp] theorem setReg_freeCount (s : State) (n : Nat) (v : Word) : (s.setReg n v).freeCount = s.freeCount := by
  unfold State.setReg; repeat' split
  all_goals rfl
@[simp] theorem wr_freeCount (s : State) (r : BitVec 5) (v : Word) : (s.wr r v).freeCount = s.freeCount := setReg_freeCount s _ v
@[simp] theorem setReg_agenda (s : State) (n : Nat) (v : Word) : (s.setReg n v).agenda = s.agenda := by
  unfold State.setReg; repeat' split
  all_goals rfl
@[simp] theorem setReg_tlb (s : State) (n : Nat) (v : Word) : (s.setReg n v).tlb = s.tlb := by
  unfold State.setReg; repeat' split
  all_goals rfl
@[simp] theorem wr_agenda (s : State) (r : BitVec 5) (v : Word) : (s.wr r v).agenda = s.agenda := setReg_agenda s _ v
@[simp] theorem wr_tlb (s : State) (r : BitVec 5) (v : Word) : (s.wr r v).tlb = s.tlb := setReg_tlb s _ v
@[simp] theorem setReg_lanes (s : State) (n : Nat) (v : Word) : (s.setReg n v).lanes = s.lanes := by
  unfold State.setReg; repeat' split
  all_goals rfl
@[simp] theorem wr_lanes (s : State) (r : BitVec 5) (v : Word) : (s.wr r v).lanes = s.lanes := setReg_lanes s _ v
@[simp] theorem setReg_ctl (s : State) (n : Nat) (v : Word) : (s.setReg n v).ctl = s.ctl := by
  unfold State.setReg; repeat' split
  all_goals rfl
@[simp] theorem wr_ctl (s : State) (r : BitVec 5) (v : Word) : (s.wr r v).ctl = s.ctl := setReg_ctl s _ v
@[simp] theorem setReg_memory (s : State) (n : Nat) (v : Word) : (s.setReg n v).memory = s.memory := by
  unfold State.setReg; repeat' split
  all_goals rfl
@[simp] theorem wr_memory (s : State) (r : BitVec 5) (v : Word) : (s.wr r v).memory = s.memory := setReg_memory s _ v
@[simp] theorem setReg_sched (s : State) (n : Nat) (v : Word) : (s.setReg n v).sched = s.sched := by
  unfold State.setReg; repeat' split
  all_goals rfl
@[simp] theorem wr_sched (s : State) (r : BitVec 5) (v : Word) : (s.wr r v).sched = s.sched := setReg_sched s _ v
@[simp] theorem setReg_kv (s : State) (n : Nat) (v : Word) : (s.setReg n v).kv = s.kv := by
  unfold State.setReg; repeat' split
  all_goals rfl
@[simp] theorem wr_kv (s : State) (r : BitVec 5) (v : Word) : (s.wr r v).kv = s.kv := setReg_kv s _ v
@[simp] theorem setReg_hub (s : State) (n : Nat) (v : Word) : (s.setReg n v).hub = s.hub := by
  unfold State.setReg; repeat' split
  all_goals rfl
@[simp] theorem wr_hub (s : State) (r : BitVec 5) (v : Word) : (s.wr r v).hub = s.hub := setReg_hub s _ v

/-! ### Committing -/

@[simp] theorem advance_regs (s : State) : (advance s).regs = s.regs := by
  unfold advance frameAdvance stripGoto backEdge loopEval; dsimp only; repeat' split
  all_goals rfl
@[simp] theorem retire_regs (s : State) : (retire s).regs = s.regs := by simp [retire]
@[simp] theorem advance_shadow (s : State) : (advance s).shadow = s.shadow := by
  unfold advance frameAdvance stripGoto backEdge loopEval; dsimp only; repeat' split
  all_goals rfl
@[simp] theorem retire_shadow (s : State) : (retire s).shadow = s.shadow := by simp [retire]
@[simp] theorem advance_kbank (s : State) : (advance s).kbank = s.kbank := by
  unfold advance frameAdvance stripGoto backEdge loopEval; dsimp only; repeat' split
  all_goals rfl
@[simp] theorem retire_kbank (s : State) : (retire s).kbank = s.kbank := by simp [retire]
@[simp] theorem advance_fbank (s : State) : (advance s).fbank = s.fbank := by
  unfold advance frameAdvance stripGoto backEdge loopEval; dsimp only; repeat' split
  all_goals rfl
@[simp] theorem retire_fbank (s : State) : (retire s).fbank = s.fbank := by simp [retire]
@[simp] theorem advance_source (s : State) : (advance s).source = s.source := by
  unfold advance frameAdvance stripGoto backEdge loopEval; dsimp only; repeat' split
  all_goals rfl
@[simp] theorem retire_source (s : State) : (retire s).source = s.source := by simp [retire]
@[simp] theorem advance_level (s : State) : (advance s).level = s.level := by
  unfold advance frameAdvance stripGoto backEdge loopEval; dsimp only; repeat' split
  all_goals rfl
@[simp] theorem retire_level (s : State) : (retire s).level = s.level := by simp [retire]
@[simp] theorem advance_mode (s : State) : (advance s).mode = s.mode := by
  unfold advance frameAdvance stripGoto backEdge loopEval; dsimp only; repeat' split
  all_goals rfl
@[simp] theorem retire_mode (s : State) : (retire s).mode = s.mode := by simp [retire]
@[simp] theorem advance_freeCount (s : State) : (advance s).freeCount = s.freeCount := by
  unfold advance frameAdvance stripGoto backEdge loopEval; dsimp only; repeat' split
  all_goals rfl
@[simp] theorem retire_freeCount (s : State) : (retire s).freeCount = s.freeCount := by simp [retire]
@[simp] theorem advance_agenda (s : State) : (advance s).agenda = s.agenda := by
  unfold advance frameAdvance stripGoto backEdge loopEval; dsimp only; repeat' split
  all_goals rfl
@[simp] theorem advance_tlb (s : State) : (advance s).tlb = s.tlb := by
  unfold advance frameAdvance stripGoto backEdge loopEval; dsimp only; repeat' split
  all_goals rfl
@[simp] theorem retire_agenda (s : State) : (retire s).agenda = s.agenda := by simp [retire]
@[simp] theorem retire_tlb (s : State) : (retire s).tlb = s.tlb := by simp [retire]
@[simp] theorem advance_ctl (s : State) : (advance s).ctl = s.ctl := by
  unfold advance frameAdvance stripGoto backEdge loopEval; dsimp only; repeat' split
  all_goals rfl
@[simp] theorem retire_ctl (s : State) : (retire s).ctl = s.ctl := by simp [retire]
@[simp] theorem advance_memory (s : State) : (advance s).memory = s.memory := by
  unfold advance frameAdvance stripGoto backEdge loopEval; dsimp only; repeat' split
  all_goals rfl
@[simp] theorem retire_memory (s : State) : (retire s).memory = s.memory := by simp [retire]
@[simp] theorem advance_kv (s : State) : (advance s).kv = s.kv := by
  unfold advance frameAdvance stripGoto backEdge loopEval; dsimp only; repeat' split
  all_goals rfl
@[simp] theorem retire_kv (s : State) : (retire s).kv = s.kv := by simp [retire]
@[simp] theorem advance_hub (s : State) : (advance s).hub = s.hub := by
  unfold advance frameAdvance stripGoto backEdge loopEval; dsimp only; repeat' split
  all_goals rfl
@[simp] theorem retire_hub (s : State) : (retire s).hub = s.hub := by simp [retire]
theorem advance_instret (s : State) : (advance s).instret = s.instret := by
  unfold advance frameAdvance stripGoto backEdge loopEval; dsimp only; repeat' split
  all_goals rfl
@[simp] theorem retire_instret (s : State) : (retire s).instret = s.instret + 1 := by simp [retire, advance_instret]
theorem advance_wait (s : State) : (advance s).wait = s.wait := by
  unfold advance frameAdvance stripGoto backEdge loopEval; dsimp only; repeat' split
  all_goals rfl
@[simp] theorem retire_wait (s : State) : (retire s).wait = none := by simp [retire, advance_wait]

end Sys2Proof.Machine
end

