-- ==== Sys2Proof/Laws/Ops.lean ====
section
/-!
SUPPORT. What each shared operation can do: registers, the end of a meaning, trap entry, bytes of memory, publication and
the canonical form of memory.
-/

namespace Sys2Proof.Machine

/-! ### Registers -/

@[simp] theorem reg_zero (s : State) : s.reg 0 = 0 := rfl
@[simp] theorem setReg_zero (s : State) (v : Word) : s.setReg 0 v = s := rfl
@[simp] theorem rd_zero (s : State) : s.rd 0 = 0 := rfl
@[simp] theorem wr_zero (s : State) (v : Word) : s.wr 0 v = s := rfl

theorem setReg_inHandler (s : State) (n : Nat) (v : Word) : (s.setReg n v).inHandler = s.inHandler := by
  simp [State.inHandler]

/-- A register read after a register write. -/
theorem reg_setReg (s : State) (n m : Nat) (v : Word) :
    (s.setReg n v).reg m = if m = n ∧ n ≠ 0 then v else s.reg m := by
  by_cases hn : n = 0
  · subst hn; simp
  by_cases hm : m = 0
  · subst hm; simp; omega
  have hh := setReg_inHandler s n v
  have hl := setReg_level s n v
  by_cases hbm : banked m <;> by_cases hbn : banked n <;> cases hs : s.level <;> cases hi : s.inHandler <;>
    by_cases hmn : m = n <;>
    simp_all [State.reg, State.setReg, mapGet_set, Ne.symm, State.inHandler]

/-- The registers of the five-bit fields: a read after a write. -/
theorem rd_wr (s : State) (r q : BitVec 5) (v : Word) :
    (s.wr r v).rd q = if q = r ∧ r ≠ 0 then v else s.rd q := by
  unfold State.wr State.rd
  rw [reg_setReg]
  have h1 : q.toNat = r.toNat ↔ q = r := ⟨fun h => BitVec.eq_of_toNat_eq h, fun h => h ▸ rfl⟩
  have h2 : r.toNat ≠ 0 ↔ r ≠ 0 := by
    constructor
    · intro h e; subst e; exact h rfl
    · intro h e; exact h (BitVec.eq_of_toNat_eq (by simpa using e))
  simp only [h1, h2]

/-! ### The end of a meaning -/

@[simp] theorem finish_ok (s t : State) : finish s (.ok t) = .next t := rfl
@[simp] theorem finish_trap (s : State) (t : Trap) : finish s (.error (.trap t)) = .next (takeTrap s t) := rfl
@[simp] theorem finish_trapIn (s u : State) (t : Trap) : finish s (.error (.trapIn u t)) = .next (takeTrap u t) := rfl

/-- `finish` always answers a next state. -/
theorem finish_next (s : State) (r : Run State) : ∃ t, finish s r = .next t := by
  rcases r with ⟨⟨⟩⟩ | t <;> exact ⟨_, rfl⟩

/-- The three ways a meaning ends. -/
theorem finish_cases {s t : State} {r : Run State} (h : finish s r = .next t) :
    r = .ok t ∨ (∃ x, r = .error (.trap x) ∧ t = takeTrap s x) ∨
      (∃ u x, r = .error (.trapIn u x) ∧ t = takeTrap u x) := by
  rcases r with ⟨⟨x⟩ | ⟨u, x⟩⟩ | u
  · exact .inr (.inl ⟨x, rfl, by simpa [finish] using h.symm⟩)
  · exact .inr (.inr ⟨u, x, rfl, by simpa [finish] using h.symm⟩)
  · exact .inl (by simpa [finish] using h)

@[simp] theorem legalIf_true : legalIf true = .ok () := rfl
@[simp] theorem legalIf_false : legalIf false = illegal := rfl

/-! ### Trap entry -/

@[simp] theorem sendPacket_regs (s : State) (p : Nat) (x : Packet) : (sendPacket s p x).regs = s.regs := by
  unfold sendPacket; split <;> rfl
@[simp] theorem sendPacket_memory (s : State) (p : Nat) (x : Packet) : (sendPacket s p x).memory = s.memory := by
  unfold sendPacket; split <;> rfl
@[simp] theorem sendPacket_lanes (s : State) (p : Nat) (x : Packet) : (sendPacket s p x).lanes = s.lanes := by
  unfold sendPacket; split <;> rfl
@[simp] theorem logEvent_regs (s : State) (k b w : Nat) (a d : Word) : (logEvent s k b w a d).regs = s.regs := by
  simp [logEvent]
@[simp] theorem logEvent_memory (s : State) (k b w : Nat) (a d : Word) : (logEvent s k b w a d).memory = s.memory := by
  simp [logEvent]
@[simp] theorem logEvent_lanes (s : State) (k b w : Nat) (a d : Word) : (logEvent s k b w a d).lanes = s.lanes := by
  simp [logEvent]

/-- Trap entry changes no byte of memory, no register of the main bank and nothing of the lanes. -/
theorem takeTrap_keeps (s : State) (t : Trap) :
    (takeTrap s t).memory = s.memory ∧ (takeTrap s t).regs = s.regs ∧ (takeTrap s t).lanes = s.lanes := by
  unfold takeTrap firmwareEntry kernelEntry
  repeat' split
  all_goals exact ⟨rfl, rfl, rfl⟩

@[simp] theorem takeTrap_memory (s : State) (t : Trap) : (takeTrap s t).memory = s.memory := (takeTrap_keeps s t).1
@[simp] theorem takeTrap_regs (s : State) (t : Trap) : (takeTrap s t).regs = s.regs := (takeTrap_keeps s t).2.1
@[simp] theorem takeTrap_lanes (s : State) (t : Trap) : (takeTrap s t).lanes = s.lanes := (takeTrap_keeps s t).2.2

/-- Where trap entry goes from program level (17_system.md R442). -/
theorem takeTrap_program {s : State} (h : s.level = .program) (t : Trap) : takeTrap s t = kernelEntry s t := by
  simp [takeTrap, h]

/-! ### Bytes of memory -/

theorem byte_storeByte (s : State) (loc a : Nat) (b : Byte) :
    (storeByte s loc b).byte a = if loc = a then b else s.byte a := by simp [State.byte, mapGet_set]
theorem byte_syncByte (s : State) (loc a : Nat) (b : Byte) :
    (syncByte s loc b).byte a = if loc = a then b else s.byte a := by simp [State.byte, mapGet_set]
theorem byte_agentByte (s : State) (loc a : Nat) (b : Byte) :
    (agentByte s loc b).byte a = if loc = a then b else s.byte a := by simp [State.byte, mapGet_set]
theorem byte_editByte (s : State) (loc a : Nat) (g : Byte → Byte) :
    (editByte s loc g).byte a = if loc = a then g (s.byte loc) else s.byte a := by simp [State.byte, mapGet_set]
theorem byte_orByte (s : State) (loc a : Nat) (b : Byte) :
    (orByte s loc b).byte a = if loc = a then s.byte loc ||| b else s.byte a := by simp [State.byte, mapGet_set]

/-- A store of several bytes leaves every other location alone. -/
theorem byte_storeAll {f : State → Nat → Byte → State}
    (hf : ∀ s l b a, (f s l b).byte a = if l = a then b else s.byte a) (ls : List Nat) (bs : List Byte) (s : State)
    (a : Nat) (ha : a ∉ ls) : (storeAll f s ls bs).byte a = s.byte a := by
  induction ls generalizing s bs with
  | nil => rfl
  | cons l t ih =>
    cases bs with
    | nil => rfl
    | cons b u =>
      simp at ha
      simp only [storeAll]
      rw [ih u (f s l b) ha.2, hf]
      simp [Ne.symm ha.1]

/-! ### The canonical form of memory -/

@[simp] theorem storeByte_wf {s : State} (loc : Nat) (b : Byte) (h : s.memory.wf) : (storeByte s loc b).memory.wf :=
  mapOk_set loc b h
@[simp] theorem syncByte_wf {s : State} (loc : Nat) (b : Byte) (h : s.memory.wf) : (syncByte s loc b).memory.wf :=
  mapOk_set loc b h
@[simp] theorem agentByte_wf {s : State} (loc : Nat) (b : Byte) (h : s.memory.wf) : (agentByte s loc b).memory.wf :=
  mapOk_set loc b h

@[simp] theorem editByte_wf {s : State} (loc : Nat) (g : Byte → Byte) (h : s.memory.wf) : (editByte s loc g).memory.wf :=
  mapOk_set loc _ h
@[simp] theorem orByte_wf {s : State} (loc : Nat) (b : Byte) (h : s.memory.wf) : (orByte s loc b).memory.wf :=
  mapOk_set loc _ h

theorem outsideByte_wf {s : State} (loc : Nat) (b : Byte) (h : s.memory.wf) : (outsideByte s loc b).memory.wf := by
  unfold outsideByte
  split
  · exact agentByte_wf loc b h
  · split
    · exact h
    · split
      · exact h
      · exact agentByte_wf loc b h

/-- Storing byte by byte keeps the canonical form. -/
theorem storeAll_wf {f : State → Nat → Byte → State} (hf : ∀ s l b, s.memory.wf → (f s l b).memory.wf)
    (ls : List Nat) (bs : List Byte) {s : State} (h : s.memory.wf) : (storeAll f s ls bs).memory.wf := by
  induction ls generalizing s bs with
  | nil => exact h
  | cons l t ih =>
    cases bs with
    | nil => exact h
    | cons b u => exact ih u (hf s l b h)

theorem syncNum_wf {s : State} (loc n v : Nat) (h : s.memory.wf) : (syncNum s loc n v).memory.wf :=
  storeAll_wf (fun _ l b => syncByte_wf l b) _ _ h
theorem agentNum_wf {s : State} (loc n v : Nat) (h : s.memory.wf) : (agentNum s loc n v).memory.wf :=
  storeAll_wf (fun _ l b => agentByte_wf l b) _ _ h
theorem endPublish_wf {s : State} (h : s.memory.wf) : (endPublish s).memory.wf := h
theorem beginPublish_wf {s : State} (c : Nat) (h : s.memory.wf) : (beginPublish s c).memory.wf := by
  have e : (beginPublish s c).memory.mem = s.memory.mem := by unfold beginPublish; dsimp only; split <;> rfl
  simpa [Memory.wf, e] using h

/-- An arrival changes memory as the synchronising store of its word does (11_sync.md R296). -/
theorem arrive_memory (s : State) (a : Arrival) : (arrive s a).memory = (syncNum s a.loc 8 (s.num a.loc 8 + 1)).memory := rfl
theorem arrive_wf {s : State} (a : Arrival) (h : s.memory.wf) : (arrive s a).memory.wf := by
  rw [arrive_memory]; exact syncNum_wf _ _ _ h

theorem performArrivals_wf (l : List Arrival) {s : State} (h : s.memory.wf) : (performArrivals s l).memory.wf := by
  have : (l.foldl arrive s).memory.wf := by
    induction l generalizing s with
    | nil => exact h
    | cons a t ih =>
      rw [List.foldl_cons]
      exact ih (arrive_wf a h)
  exact this

theorem syncOrder_wf {s : State} (h : s.memory.wf) : (syncOrder s).memory.wf := performArrivals_wf _ (endPublish_wf h)
theorem acquire_wf {s : State} (h : s.memory.wf) : (acquire s).memory.wf := syncOrder_wf h
/-- With no arrival queued, an ordinary access follows nothing (11_sync.md R286). -/
theorem arriveBefore_of_none {s : State} (h : s.memory.arrivals = []) (ls : List Nat) : arriveBefore s ls = s := by
  simp [arriveBefore, h]
/-- An ordinary access either follows nothing or what a synchronising one follows (11_sync.md R286, R289). -/
theorem arriveBefore_cases (s : State) (ls : List Nat) : arriveBefore s ls = s ∨ arriveBefore s ls = syncOrder s := by
  unfold arriveBefore
  split
  · exact .inr rfl
  · exact .inl rfl
theorem arriveBefore_wf {s : State} (ls : List Nat) (h : s.memory.wf) : (arriveBefore s ls).memory.wf := by
  obtain e | e := arriveBefore_cases s ls
  · rwa [e]
  · rw [e]; exact syncOrder_wf h
/-- What an access follows when no arrival is queued (11_sync.md R286, R289). -/
theorem accessOrder_of_none {s : State} (b : Bool) (h : s.memory.arrivals = []) (ls : List Nat) :
    accessOrder s b ls = if b then syncOrder s else s := by
  simp [accessOrder, arriveBefore_of_none h]
theorem accessOrder_wf {s : State} (b : Bool) (ls : List Nat) (h : s.memory.wf) : (accessOrder s b ls).memory.wf := by
  unfold accessOrder
  split
  · exact syncOrder_wf h
  · exact arriveBefore_wf ls h
theorem publishAll_wf {s : State} (h : s.memory.wf) : (publishAll s).memory.wf := syncOrder_wf (beginPublish_wf 2 h)

@[simp] theorem cacheLeaf_memory (s : State) (c : Cached) : (cacheLeaf s c).memory = s.memory := rfl
@[simp] theorem dropLeaf_memory (s : State) (p : Nat) : (dropLeaf s p).memory = s.memory := rfl

theorem setUsed_wf {s : State} (p : Nat) (w : Bool) (h : s.memory.wf) : (setUsed s p w).memory.wf := by
  unfold setUsed
  dsimp only
  generalize (if w then _ else _ : Byte) = n
  split
  · exact h
  · exact orByte_wf _ _ h

theorem markLeaf_wf {s : State} (x : Hit) (w : Bool) (h : s.memory.wf) : (markLeaf s x w).memory.wf := by
  unfold markLeaf
  split
  · exact h
  · dsimp only
    split
    · exact setUsed_wf _ _ h
    · simpa using setUsed_wf _ _ h

theorem markAll_wf (k : Access) (hs : List Hit) {s : State} (h : s.memory.wf) : (markAll s k hs).memory.wf := by
  induction hs generalizing s with
  | nil => exact h
  | cons x t ih => exact ih (markLeaf_wf x _ h)

theorem nibbleByte_wf {s : State} (loc v : Nat) (h : s.memory.wf) : (nibbleByte s loc v).memory.wf := editByte_wf loc _ h

/-- A step over a list that keeps the canonical form keeps it over the whole list. -/
theorem foldl_wf {α : Type} {f : State → α → State} (hf : ∀ s x, s.memory.wf → (f s x).memory.wf) (l : List α) {s : State}
    (h : s.memory.wf) : (l.foldl f s).memory.wf := by
  induction l generalizing s with
  | nil => exact h
  | cons x t ih => exact ih (hf s x h)

theorem dropUnpublished_wf {s : State} (h : s.memory.wf) : (dropUnpublished s).memory.wf :=
  foldl_wf (f := fun s (c : Host.Cell) => { hideStore s c.1 with memory.mem := mapSet s.memory.mem c.1 c.2 })
    (fun _ c h => mapOk_set c.1 c.2 h) s.memory.own h
theorem leaveParty_wf {s : State} (h : s.memory.wf) : (leaveParty s).memory.wf := dropUnpublished_wf h
theorem restoreByte_wf {s : State} (c : Nat × Byte × Byte) (h : s.memory.wf) : (restoreByte s c).memory.wf := by
  unfold restoreByte
  split
  · exact storeByte_wf _ _ h
  · exact h
theorem restoreAway_wf {s : State} (x : Away) (h : s.memory.wf) : (restoreAway s x).memory.wf :=
  foldl_wf (fun _ c h => restoreByte_wf c h) x.cells h
theorem enterParty_wf {s : State} (h : s.memory.wf) : (enterParty s).memory.wf :=
  foldl_wf (fun _ x h => restoreAway_wf x h) _ h

/-! ### What the parties change (11_sync.md R283, R286, R287) -/

/-- t differs from s at most in memory and in what the accepted commands and operations read of it. -/
def StoresOnly (s t : State) : Prop := ∃ m c b, t = { s with memory := m, sched.commands := c, kv.barOps := b }

theorem StoresOnly.refl (s : State) : StoresOnly s s := ⟨s.memory, s.sched.commands, s.kv.barOps, rfl⟩
theorem StoresOnly.trans {s t u : State} : StoresOnly s t → StoresOnly t u → StoresOnly s u := by
  rintro ⟨_, _, _, rfl⟩ ⟨_, _, _, rfl⟩
  exact ⟨_, _, _, rfl⟩
theorem StoresOnly.foldl {α : Type} {f : State → α → State} (hf : ∀ s x, StoresOnly s (f s x)) (l : List α) (s : State) :
    StoresOnly s (l.foldl f s) := by
  induction l generalizing s with
  | nil => exact .refl s
  | cons x t ih => exact (hf s x).trans (ih _)

theorem storeByte_only (s : State) (loc : Nat) (b : Byte) : StoresOnly s (storeByte s loc b) := ⟨_, _, _, rfl⟩

theorem dropUnpublished_only (s : State) : StoresOnly s (dropUnpublished s) :=
  (StoresOnly.foldl (f := fun s (c : Host.Cell) => { hideStore s c.1 with memory.mem := mapSet s.memory.mem c.1 c.2 })
    (fun _ _ => ⟨_, _, _, rfl⟩) s.memory.own s).trans ⟨_, _, _, rfl⟩

/-- A party that leaves changes beside memory the scheduler's account of the parties. -/
theorem leaveParty_only (s : State) : StoresOnly { s with
    sched.party := none
    sched.away := s.sched.away ++ s.sched.party.toList.map (unpublishedOf s) } (leaveParty s) := by
  obtain ⟨m, c, b, h⟩ := dropUnpublished_only s
  unfold leaveParty
  rw [h]
  exact ⟨m, c, b, rfl⟩

theorem restoreByte_only (s : State) (c : Nat × Byte × Byte) : StoresOnly s (restoreByte s c) := by
  unfold restoreByte
  split
  · exact storeByte_only _ _ _
  · exact .refl s

theorem restoreAway_only (s : State) (x : Away) : StoresOnly s (restoreAway s x) :=
  (StoresOnly.foldl restoreByte_only x.cells s).trans ⟨_, _, _, rfl⟩

/-- A party that comes back changes beside memory the scheduler's account of the parties. -/
theorem enterParty_only (s : State) : StoresOnly { s with
    sched.party := s.actParty
    sched.away := s.sched.away.filter (fun x => some x.party != s.actParty) } (enterParty s) :=
  StoresOnly.foldl restoreAway_only _ _

theorem splWrite_wf {s : State} (v : Nat) (h : s.memory.wf) : (splWrite s v).memory.wf := by
  unfold splWrite; dsimp only; split
  · exact h
  · exact mapOk_clear _ _ (syncOrder_wf h)

theorem takeTrap_wf {s : State} (t : Trap) (h : s.memory.wf) : (takeTrap s t).memory.wf := by simpa using h
theorem wr_wf {s : State} (r : BitVec 5) (v : Word) (h : s.memory.wf) : (s.wr r v).memory.wf := by simpa using h
theorem retire_wf {s : State} (h : s.memory.wf) : (retire s).memory.wf := by simpa using h
theorem reset_wf : State.reset.memory.wf := rfl

end Sys2Proof.Machine
end

