-- ==== Sys2Proof/Laws/Image.lean ====
section
/-!
SUPPORT. What a context image leaves in memory: the bytes of its head, and no other byte when no section follows.
-/

namespace Sys2Proof.Machine

theorem mem_upto {a c n : Nat} : a ∈ upto c n ↔ c ≤ a ∧ a < c + n := by
  induction n generalizing c with
  | zero => simp [upto]
  | succ n ih => simp only [upto, List.mem_cons, ih]; omega

theorem map_upto {g : Nat → Nat} {b c n : Nat} (h : ∀ k, k < n → g (c + k) = b + k) : (upto c n).map g = upto b n := by
  induction n generalizing b c with
  | zero => rfl
  | succ n ih =>
    simp only [upto, List.map_cons, List.cons.injEq]
    refine ⟨h 0 (by omega), ih fun k hk => ?_⟩
    rw [show c + 1 + k = c + (k + 1) by omega, h (k + 1) (by omega)]
    omega

/-- A number in memory is that of its bytes. -/
theorem num_of_bytes {s : State} {loc n : Nat} {f : Nat → Byte} (h : ∀ a, loc ≤ a → a < loc + n → s.byte a = f a) :
    s.num loc n = leNat ((upto loc n).map f) :=
  congrArg leNat (List.map_congr_left fun a ha => by rw [mem_upto] at ha; exact h a ha.1 ha.2)

/-- A publication at `pkg` changes no byte when no barrier arrival is queued (11_sync.md R293, R296). -/
theorem byte_publishAll {s : State} (h : s.memory.arrivals = []) (a : Nat) : (publishAll s).byte a = s.byte a := by
  have : (beginPublish s 2).memory.arrivals = [] := h
  simp only [publishAll, syncOrder, endPublish, performArrivals, this, List.foldl_nil]
  rfl

theorem storeAll_arrivals (ls : List Nat) (bs : List Byte) (s : State) :
    (storeAll storeByte s ls bs).memory.arrivals = s.memory.arrivals := by
  induction ls generalizing bs s with
  | nil => rfl
  | cons l t ih =>
    cases bs with
    | nil => rfl
    | cons b u => exact ih u (storeByte s l b)

/-- Byte k of what is stored from a location on. -/
theorem byte_storeAll_upto {f : State → Nat → Byte → State}
    (hf : ∀ s l b a, (f s l b).byte a = if l = a then b else s.byte a) (bs : List Byte) (s : State) (c k : Nat) (b : Byte)
    (h : bs[k]? = some b) : (storeAll f s (upto c bs.length) bs).byte (c + k) = b := by
  induction bs generalizing s c k with
  | nil => simp at h
  | cons x t ih =>
    simp only [List.length_cons, upto, storeAll]
    cases k with
    | zero =>
      rw [byte_storeAll hf _ _ _ _ (by rw [mem_upto]; omega), hf]
      simpa using h
    | succ k =>
      rw [show c + (k + 1) = c + 1 + k by omega]
      exact ih _ _ _ (by simpa using h)

@[simp] theorem rememberImage_byte (s : State) (va : Word) (a : Nat) : (rememberImage s va).byte a = s.byte a := by
  unfold rememberImage; split <;> rfl
@[simp] theorem rememberImage_arrivals (s : State) (va : Word) : (rememberImage s va).memory.arrivals = s.memory.arrivals := by
  unfold rememberImage; split <;> rfl

@[simp] theorem clearPoison_byte (s : State) (ls : List Nat) (a : Nat) : (clearPoison s ls).byte a = s.byte a := rfl
@[simp] theorem clearPoison_arrivals (s : State) (ls : List Nat) :
    (clearPoison s ls).memory.arrivals = s.memory.arrivals := rfl

/-- A save whose head is `bs` and that has no section stores the head and changes nothing else but the poison and what the scheduler
remembers (17_system.md R455). -/
theorem saveImage_head {s : State} {va resume : Word} {ps : ImagePages} {u : State} {bs : List Byte}
    (hu : ps.foldl (fun s p => markLeaf s p.2 true) (stopContexts (publishAll s)) = u) (ht : (savedParts u).tail = [])
    (hb : imageHead u va resume = bs) : ∃ ls, saveImage s va resume ps =
      rememberImage (clearPoison (storeAll storeByte u ((upto 0 bs.length).map (imageLoc ps va)) bs) ls) va :=
  ⟨_, by unfold saveImage; simp only [hu, ht, hb, List.foldl_nil]; rfl⟩

/-- The memory after the save of an activation without a section, in an image that lies in one run of locations from c on:
byte k of the head at c + k, and every lower byte as it was (17_system.md R454, R455). -/
theorem byte_saveImage {s : State} {va resume : Word} {ps : ImagePages} {c : Nat} {u : State} {bs : List Byte}
    (hu : ps.foldl (fun s p => markLeaf s p.2 true) (stopContexts (publishAll s)) = u) (ht : (savedParts u).tail = [])
    (hb : imageHead u va resume = bs) (hc : ∀ k, k < bs.length → imageLoc ps va k = c + k) (hq : u.memory.arrivals = []) :
    (∀ k b, bs[k]? = some b → (publishAll (saveImage s va resume ps)).byte (c + k) = b) ∧
    (∀ a, a < c → (publishAll (saveImage s va resume ps)).byte a = u.byte a) := by
  obtain ⟨ls, hs⟩ := saveImage_head hu ht hb
  rw [map_upto (b := c) (fun k hk => by simpa using hc k hk)] at hs
  rw [hs]
  have hv : ∀ a, (publishAll (rememberImage (clearPoison (storeAll storeByte u (upto c bs.length) bs) ls) va)).byte a =
      (storeAll storeByte u (upto c bs.length) bs).byte a := fun a => by
    rw [byte_publishAll (by rw [rememberImage_arrivals, clearPoison_arrivals, storeAll_arrivals, hq]), rememberImage_byte,
      clearPoison_byte]
  refine ⟨fun k b h => ?_, fun a ha => ?_⟩
  · rw [hv]; exact byte_storeAll_upto (fun s l b a => byte_storeByte s l a b) _ _ _ _ _ h
  · rw [hv]; exact byte_storeAll (fun s l b a => byte_storeByte s l a b) _ _ _ _ (by rw [mem_upto]; omega)

end Sys2Proof.Machine
end

