-- ==== Sys2Proof/Laws/PerInstr.lean ====
section
/-!
SUPPORT. Statements made of every instruction as syntax, one lemma per constructor of `Instr`.
-/

set_option Elab.async false

namespace Sys2Proof.Laws.Encoding

/-- The word the encoder gives an instruction has 32 bits (02_encoding.md R38). -/
def Statement (i : Instr) : Prop := ∀ w, encode i = some w → w < 2 ^ 32

theorem add : ∀ x0 x1 x2, Statement (.add x0 x1 x2) := fun _ _ _ _ h => by cases h; omega
theorem sub : ∀ x0 x1 x2, Statement (.sub x0 x1 x2) := fun _ _ _ _ h => by cases h; omega
theorem and : ∀ x0 x1 x2, Statement (.and x0 x1 x2) := fun _ _ _ _ h => by cases h; omega
theorem or : ∀ x0 x1 x2, Statement (.or x0 x1 x2) := fun _ _ _ _ h => by cases h; omega
theorem xor : ∀ x0 x1 x2, Statement (.xor x0 x1 x2) := fun _ _ _ _ h => by cases h; omega
theorem andn : ∀ x0 x1 x2, Statement (.andn x0 x1 x2) := fun _ _ _ _ h => by cases h; omega
theorem shl : ∀ x0 x1 x2, Statement (.shl x0 x1 x2) := fun _ _ _ _ h => by cases h; omega
theorem shrl : ∀ x0 x1 x2, Statement (.shrl x0 x1 x2) := fun _ _ _ _ h => by cases h; omega
theorem shra : ∀ x0 x1 x2, Statement (.shra x0 x1 x2) := fun _ _ _ _ h => by cases h; omega
theorem cmplt : ∀ x0 x1 x2, Statement (.cmplt x0 x1 x2) := fun _ _ _ _ h => by cases h; omega
theorem cmpltu : ∀ x0 x1 x2, Statement (.cmpltu x0 x1 x2) := fun _ _ _ _ h => by cases h; omega
theorem min : ∀ x0 x1 x2, Statement (.min x0 x1 x2) := fun _ _ _ _ h => by cases h; omega
theorem max : ∀ x0 x1 x2, Statement (.max x0 x1 x2) := fun _ _ _ _ h => by cases h; omega
theorem minu : ∀ x0 x1 x2, Statement (.minu x0 x1 x2) := fun _ _ _ _ h => by cases h; omega
theorem maxu : ∀ x0 x1 x2, Statement (.maxu x0 x1 x2) := fun _ _ _ _ h => by cases h; omega
theorem cmpeq : ∀ x0 x1 x2, Statement (.cmpeq x0 x1 x2) := fun _ _ _ _ h => by cases h; omega
theorem addi : ∀ x0 x1 x2, Statement (.addi x0 x1 x2) := fun _ _ _ _ h => by cases h; omega
theorem cmplti : ∀ x0 x1 x2, Statement (.cmplti x0 x1 x2) := fun _ _ _ _ h => by cases h; omega
theorem cmpltiu : ∀ x0 x1 x2, Statement (.cmpltiu x0 x1 x2) := fun _ _ _ _ h => by cases h; omega
theorem andi : ∀ x0 x1 x2, Statement (.andi x0 x1 x2) := fun _ _ _ _ h => by cases h; omega
theorem ori : ∀ x0 x1 x2, Statement (.ori x0 x1 x2) := fun _ _ _ _ h => by cases h; omega
theorem xori : ∀ x0 x1 x2, Statement (.xori x0 x1 x2) := fun _ _ _ _ h => by cases h; omega
theorem cmpeqi : ∀ x0 x1 x2, Statement (.cmpeqi x0 x1 x2) := fun _ _ _ _ h => by cases h; omega
theorem shli : ∀ x0 x1 x2, Statement (.shli x0 x1 x2) := fun _ _ _ _ h => by cases h; omega
theorem shrli : ∀ x0 x1 x2, Statement (.shrli x0 x1 x2) := fun _ _ _ _ h => by cases h; omega
theorem shrai : ∀ x0 x1 x2, Statement (.shrai x0 x1 x2) := fun _ _ _ _ h => by cases h; omega
theorem mul : ∀ x0 x1 x2, Statement (.mul x0 x1 x2) := fun _ _ _ _ h => by cases h; omega
theorem mulhSs : ∀ x0 x1 x2, Statement (.mulhSs x0 x1 x2) := fun _ _ _ _ h => by cases h; omega
theorem mulhUu : ∀ x0 x1 x2, Statement (.mulhUu x0 x1 x2) := fun _ _ _ _ h => by cases h; omega
theorem mulhSu : ∀ x0 x1 x2, Statement (.mulhSu x0 x1 x2) := fun _ _ _ _ h => by cases h; omega
theorem divs : ∀ x0 x1 x2, Statement (.divs x0 x1 x2) := fun _ _ _ _ h => by cases h; omega
theorem divu : ∀ x0 x1 x2, Statement (.divu x0 x1 x2) := fun _ _ _ _ h => by cases h; omega
theorem mods : ∀ x0 x1 x2, Statement (.mods x0 x1 x2) := fun _ _ _ _ h => by cases h; omega
theorem modu : ∀ x0 x1 x2, Statement (.modu x0 x1 x2) := fun _ _ _ _ h => by cases h; omega
theorem clz : ∀ x0 x1, Statement (.clz x0 x1) := fun _ _ _ h => by cases h; omega
theorem ctz : ∀ x0 x1, Statement (.ctz x0 x1) := fun _ _ _ h => by cases h; omega
theorem cpop : ∀ x0 x1, Statement (.cpop x0 x1) := fun _ _ _ h => by cases h; omega
theorem brev : ∀ x0 x1, Statement (.brev x0 x1) := fun _ _ _ h => by cases h; omega
theorem bfx : ∀ x0 x1 x2, Statement (.bfx x0 x1 x2) := fun _ _ _ _ h => by cases h; omega
theorem bfxu : ∀ x0 x1 x2, Statement (.bfxu x0 x1 x2) := fun _ _ _ _ h => by cases h; omega
theorem bfi : ∀ x0 x1 x2, Statement (.bfi x0 x1 x2) := fun _ _ _ _ h => by cases h; omega
theorem lhi : ∀ x0 x1, Statement (.lhi x0 x1) := fun _ _ _ h => by cases h; omega
theorem pcrel : ∀ x0 x1, Statement (.pcrel x0 x1) := fun _ _ _ h => by cases h; omega
theorem ihz : ∀ x0 x1 x2, Statement (.ihz x0 x1 x2) := fun _ _ _ _ h => by cases h; omega
theorem ihk : ∀ x0 x1 x2, Statement (.ihk x0 x1 x2) := fun _ _ _ _ h => by cases h; omega
theorem ihs : ∀ x0 x1 x2, Statement (.ihs x0 x1 x2) := fun _ _ _ _ h => by cases h; omega
theorem lb : ∀ x0 x1 x2, Statement (.lb x0 x1 x2) := fun _ _ _ _ h => by cases h; omega
theorem lh : ∀ x0 x1 x2, Statement (.lh x0 x1 x2) := fun _ _ _ _ h => by cases h; omega
theorem lw : ∀ x0 x1 x2, Statement (.lw x0 x1 x2) := fun _ _ _ _ h => by cases h; omega
theorem ld : ∀ x0 x1 x2, Statement (.ld x0 x1 x2) := fun _ _ _ _ h => by cases h; omega
theorem lbu : ∀ x0 x1 x2, Statement (.lbu x0 x1 x2) := fun _ _ _ _ h => by cases h; omega
theorem lhu : ∀ x0 x1 x2, Statement (.lhu x0 x1 x2) := fun _ _ _ _ h => by cases h; omega
theorem lwu : ∀ x0 x1 x2, Statement (.lwu x0 x1 x2) := fun _ _ _ _ h => by cases h; omega
theorem sb : ∀ x0 x1 x2, Statement (.sb x0 x1 x2) := fun _ _ _ _ h => by cases h; omega
theorem sh : ∀ x0 x1 x2, Statement (.sh x0 x1 x2) := fun _ _ _ _ h => by cases h; omega
theorem sw : ∀ x0 x1 x2, Statement (.sw x0 x1 x2) := fun _ _ _ _ h => by cases h; omega
theorem sd : ∀ x0 x1 x2, Statement (.sd x0 x1 x2) := fun _ _ _ _ h => by cases h; omega
theorem atswp : ∀ x0 x1 x2 x3 x4, Statement (.atswp x0 x1 x2 x3 x4) := fun _ _ _ _ _ _ h => by cases h; omega
theorem atadd : ∀ x0 x1 x2 x3 x4, Statement (.atadd x0 x1 x2 x3 x4) := fun _ _ _ _ _ _ h => by cases h; omega
theorem atand : ∀ x0 x1 x2 x3 x4, Statement (.atand x0 x1 x2 x3 x4) := fun _ _ _ _ _ _ h => by cases h; omega
theorem ator : ∀ x0 x1 x2 x3 x4, Statement (.ator x0 x1 x2 x3 x4) := fun _ _ _ _ _ _ h => by cases h; omega
theorem atxor : ∀ x0 x1 x2 x3 x4, Statement (.atxor x0 x1 x2 x3 x4) := fun _ _ _ _ _ _ h => by cases h; omega
theorem atmin : ∀ x0 x1 x2 x3 x4, Statement (.atmin x0 x1 x2 x3 x4) := fun _ _ _ _ _ _ h => by cases h; omega
theorem atmax : ∀ x0 x1 x2 x3 x4, Statement (.atmax x0 x1 x2 x3 x4) := fun _ _ _ _ _ _ h => by cases h; omega
theorem atminu : ∀ x0 x1 x2 x3 x4, Statement (.atminu x0 x1 x2 x3 x4) := fun _ _ _ _ _ _ h => by cases h; omega
theorem atmaxu : ∀ x0 x1 x2 x3 x4, Statement (.atmaxu x0 x1 x2 x3 x4) := fun _ _ _ _ _ _ h => by cases h; omega
theorem atcas : ∀ x0 x1 x2 x3 x4, Statement (.atcas x0 x1 x2 x3 x4) := fun _ _ _ _ _ _ h => by cases h; omega
theorem crd : ∀ x0 x1, Statement (.crd x0 x1) := fun _ _ _ h => by cases h; omega
theorem cwr : ∀ x0 x1 x2, Statement (.cwr x0 x1 x2) := fun _ _ _ _ h => by cases h; omega
theorem cset : ∀ x0 x1 x2, Statement (.cset x0 x1 x2) := fun _ _ _ _ h => by cases h; omega
theorem cclr : ∀ x0 x1 x2, Statement (.cclr x0 x1 x2) := fun _ _ _ _ h => by cases h; omega
theorem cwri : ∀ x0 x1 x2, Statement (.cwri x0 x1 x2) := fun _ _ _ _ h => by cases h; omega
theorem cseti : ∀ x0 x1 x2, Statement (.cseti x0 x1 x2) := fun _ _ _ _ h => by cases h; omega
theorem cclri : ∀ x0 x1 x2, Statement (.cclri x0 x1 x2) := fun _ _ _ _ h => by cases h; omega
theorem beq : ∀ x0 x1 x2, Statement (.beq x0 x1 x2) := fun _ _ _ _ h => by cases h; omega
theorem bne : ∀ x0 x1 x2, Statement (.bne x0 x1 x2) := fun _ _ _ _ h => by cases h; omega
theorem blt : ∀ x0 x1 x2, Statement (.blt x0 x1 x2) := fun _ _ _ _ h => by cases h; omega
theorem bge : ∀ x0 x1 x2, Statement (.bge x0 x1 x2) := fun _ _ _ _ h => by cases h; omega
theorem bltu : ∀ x0 x1 x2, Statement (.bltu x0 x1 x2) := fun _ _ _ _ h => by cases h; omega
theorem bgeu : ∀ x0 x1 x2, Statement (.bgeu x0 x1 x2) := fun _ _ _ _ h => by cases h; omega
theorem jal : ∀ x0 x1, Statement (.jal x0 x1) := fun _ _ _ h => by cases h; omega
theorem jalr : ∀ x0 x1 x2, Statement (.jalr x0 x1 x2) := fun _ _ _ _ h => by cases h; omega
theorem loop : ∀ x0 x1, Statement (.loop x0 x1) := fun _ _ _ h => by cases h; omega
theorem loopr : ∀ x0 x1, Statement (.loopr x0 x1) := fun _ _ _ h => by cases h; omega
theorem loopv : ∀ x0 x1, Statement (.loopv x0 x1) := fun _ _ _ h => by cases h; omega
theorem lbrk : Statement .lbrk := fun _ h => by cases h; omega
theorem lidx : ∀ x0 x1, Statement (.lidx x0 x1) := fun _ _ _ h => by cases h; omega
theorem sfork : Statement .sfork := fun _ h => by cases h; omega
theorem sbra : ∀ x0 x1 x2, Statement (.sbra x0 x1 x2) := fun _ _ _ _ h => by cases h; omega
theorem sloop : ∀ x0 x1 x2, Statement (.sloop x0 x1 x2) := fun _ _ _ _ h => by cases h; omega
theorem sjoin : Statement .sjoin := fun _ h => by cases h; omega
theorem stripThreadModeEnd : Statement .stripThreadModeEnd := fun _ h => nomatch h
theorem pub : ∀ x0, Statement (.pub x0) := fun _ _ h => by cases h; omega
theorem acq : ∀ x0, Statement (.acq x0) := fun _ _ h => by cases h; omega
theorem phase : ∀ x0, Statement (.phase x0) := fun _ _ h => by cases h; omega
theorem fence : ∀ x0, Statement (.fence x0) := fun _ _ h => by cases h; omega
theorem vfence : ∀ x0 x1, Statement (.vfence x0 x1) := fun _ _ _ h => by cases h; omega
theorem bar : ∀ x0 x1 x2, Statement (.bar x0 x1 x2) := fun _ _ _ _ h => by cases h; omega
theorem tlwait : ∀ x0 x1, Statement (.tlwait x0 x1) := fun _ _ _ h => by cases h; omega
theorem tlpoll : ∀ x0 x1 x2, Statement (.tlpoll x0 x1 x2) := fun _ _ _ _ h => by cases h; omega
theorem tlrd : ∀ x0 x1, Statement (.tlrd x0 x1) := fun _ _ _ h => by cases h; omega
theorem publication : Statement .publication := fun _ h => nomatch h
theorem arrival : Statement .arrival := fun _ h => nomatch h
theorem barPass : Statement .barPass := fun _ h => nomatch h
theorem tlwaitPass : Statement .tlwaitPass := fun _ h => nomatch h
theorem spawn : ∀ x0 x1, Statement (.spawn x0 x1) := fun _ _ _ h => by cases h; omega
theorem join : ∀ x0 x1, Statement (.join x0 x1) := fun _ _ _ h => by cases h; omega
theorem done : Statement .done := fun _ h => by cases h; omega
theorem launch : ∀ x0 x1, Statement (.launch x0 x1) := fun _ _ _ h => by cases h; omega
theorem widf : ∀ x0 x1 x2, Statement (.widf x0 x1 x2) := fun _ _ _ _ h => by cases h; omega
theorem yield : ∀ x0, Statement (.yield x0) := fun _ _ h => by cases h; omega
theorem xcopy : ∀ x0 x1 x2 x3, Statement (.xcopy x0 x1 x2 x3) := fun _ _ _ _ _ h => by cases h; omega
theorem xconv : ∀ x0 x1 x2 x3, Statement (.xconv x0 x1 x2 x3) := fun _ _ _ _ _ h => by cases h; omega
theorem xzip : ∀ x0 x1 x2 x3, Statement (.xzip x0 x1 x2 x3) := fun _ _ _ _ _ h => by cases h; omega
theorem xexp : ∀ x0 x1 x2 x3, Statement (.xexp x0 x1 x2 x3) := fun _ _ _ _ _ h => by cases h; omega
theorem xfmt : ∀ x0 x1 x2 x3, Statement (.xfmt x0 x1 x2 x3) := fun _ _ _ _ _ h => by cases h; omega
theorem xtile : ∀ x0 x1 x2 x3, Statement (.xtile x0 x1 x2 x3) := fun _ _ _ _ _ h => by cases h; omega
theorem xput : ∀ x0 x1 x2 x3, Statement (.xput x0 x1 x2 x3) := fun _ _ _ _ _ h => by cases h; omega
theorem xget : ∀ x0 x1 x2 x3, Statement (.xget x0 x1 x2 x3) := fun _ _ _ _ _ h => by cases h; omega
theorem engineUnit : ∀ x0, Statement (.engineUnit x0) := fun _ _ h => nomatch h
theorem commandComplete : ∀ x0, Statement (.commandComplete x0) := fun _ _ h => nomatch h
theorem engineFault : Statement .engineFault := fun _ h => nomatch h
theorem userLevelInterrupt : Statement .userLevelInterrupt := fun _ h => nomatch h
theorem tdecl : ∀ x0 x1, Statement (.tdecl x0 x1) := fun _ _ _ h => by cases h; omega
theorem sweep : ∀ x0 x1 x2, Statement (.sweep x0 x1 x2) := fun _ _ _ _ h => by cases h; omega
theorem snext : ∀ x0, Statement (.snext x0) := fun _ _ h => by cases h; omega
theorem swait : ∀ x0 x1 x2, Statement (.swait x0 x1 x2) := fun _ _ _ _ h => by cases h; omega
theorem wake : ∀ x0 x1, Statement (.wake x0 x1) := fun _ _ _ h => by cases h; omega
theorem vwake : ∀ x0 x1 x2, Statement (.vwake x0 x1 x2) := fun _ _ _ _ h => by cases h; omega
theorem sctlRange : ∀ x0 x1, Statement (.sctlRange x0 x1) := fun _ _ _ h => by cases h; omega
theorem sctlStat : ∀ x0 x1, Statement (.sctlStat x0 x1) := fun _ _ _ h => by cases h; omega
theorem sctlAbort : ∀ x0 x1, Statement (.sctlAbort x0 x1) := fun _ _ _ h => by cases h; omega
theorem sctlRel : ∀ x0 x1, Statement (.sctlRel x0 x1) := fun _ _ _ h => by cases h; omega
theorem pfxmatch : ∀ x0 x1 x2, Statement (.pfxmatch x0 x1 x2) := fun _ _ _ _ h => by cases h; omega
theorem pfxins : ∀ x0 x1 x2, Statement (.pfxins x0 x1 x2) := fun _ _ _ _ h => by cases h; omega
theorem pfxrel : ∀ x0 x1 x2, Statement (.pfxrel x0 x1 x2) := fun _ _ _ _ h => by cases h; omega
theorem kvalloc : ∀ x0 x1 x2, Statement (.kvalloc x0 x1 x2) := fun _ _ _ _ h => by cases h; omega
theorem kvappend : ∀ x0 x1 x2, Statement (.kvappend x0 x1 x2) := fun _ _ _ _ h => by cases h; omega
theorem kvcommit : ∀ x0 x1 x2, Statement (.kvcommit x0 x1 x2) := fun _ _ _ _ h => by cases h; omega
theorem kvreject : ∀ x0 x1, Statement (.kvreject x0 x1) := fun _ _ _ h => by cases h; omega
theorem kvxlat : ∀ x0 x1 x2, Statement (.kvxlat x0 x1 x2) := fun _ _ _ _ h => by cases h; omega
theorem kvscore : ∀ x0 x1 x2, Statement (.kvscore x0 x1 x2) := fun _ _ _ _ h => by cases h; omega
theorem kvcompact : ∀ x0 x1 x2, Statement (.kvcompact x0 x1 x2) := fun _ _ _ _ h => by cases h; omega
theorem barchanOperation : Statement .barchanOperation := fun _ h => nomatch h
theorem barchanResult : Statement .barchanResult := fun _ h => nomatch h
theorem clockStep : Statement .clockStep := fun _ h => nomatch h
theorem wlpush : ∀ x0 x1 x2, Statement (.wlpush x0 x1 x2) := fun _ _ _ _ h => by cases h; omega
theorem wlpop : ∀ x0 x1 x2, Statement (.wlpop x0 x1 x2) := fun _ _ _ _ h => by cases h; omega
theorem wlins : ∀ x0 x1 x2, Statement (.wlins x0 x1 x2) := fun _ _ _ _ h => by cases h; omega
theorem vcapp : ∀ x0 x1 x2, Statement (.vcapp x0 x1 x2) := fun _ _ _ _ h => by cases h; omega
theorem windowTransfer : ∀ x0, Statement (.windowTransfer x0) := fun _ _ h => nomatch h
theorem trap : ∀ x0, Statement (.trap x0) := fun _ _ h => by cases h; omega
theorem tret : Statement .tret := fun _ h => by cases h; omega
theorem wfi : Statement .wfi := fun _ h => by cases h; omega
theorem ifence : Statement .ifence := fun _ h => by cases h; omega
theorem tlbinv : ∀ x0 x1 x2, Statement (.tlbinv x0 x1 x2) := fun _ _ _ _ h => by cases h; omega
theorem ctxsave : ∀ x0, Statement (.ctxsave x0) := fun _ _ h => by cases h; omega
theorem ctxload : ∀ x0, Statement (.ctxload x0) := fun _ _ h => by cases h; omega
theorem brk : Statement .brk := fun _ h => by cases h; omega
theorem halt : Statement .halt := fun _ h => by cases h; omega
theorem uret : Statement .uret := fun _ h => by cases h; omega
theorem illegalEncoding : ∀ x0, Statement (.illegalEncoding x0) := fun _ _ h => nomatch h
theorem stepBreakpoint : Statement .stepBreakpoint := fun _ h => nomatch h
theorem timerInterrupt : Statement .timerInterrupt := fun _ h => nomatch h
theorem preemptionTrap : Statement .preemptionTrap := fun _ h => nomatch h
theorem forcedPreemption : Statement .forcedPreemption := fun _ h => nomatch h
theorem schedulerPreemptionRequest : Statement .schedulerPreemptionRequest := fun _ h => nomatch h
theorem wfiWake : Statement .wfiWake := fun _ h => nomatch h
theorem wfiTimeout : Statement .wfiTimeout := fun _ h => nomatch h
theorem vcfg : ∀ x0 x1, Statement (.vcfg x0 x1) := fun _ _ _ h => by cases h; omega
theorem setvl : ∀ x0 x1, Statement (.setvl x0 x1) := fun _ _ _ h => by cases h; omega
theorem setw : ∀ x0 x1, Statement (.setw x0 x1) := fun _ _ _ h => by cases h; omega
theorem setvlrun : ∀ x0 x1 x2, Statement (.setvlrun x0 x1 x2) := fun _ _ _ _ h => by cases h; omega
theorem vadd : ∀ x0 x1 x2 x3, Statement (.vadd x0 x1 x2 x3) := fun _ _ _ _ _ h => by cases h; omega
theorem vadc : ∀ x0 x1 x2 x3, Statement (.vadc x0 x1 x2 x3) := fun _ _ _ _ _ h => by cases h; omega
theorem vsub : ∀ x0 x1 x2 x3, Statement (.vsub x0 x1 x2 x3) := fun _ _ _ _ _ h => by cases h; omega
theorem vsbc : ∀ x0 x1 x2 x3, Statement (.vsbc x0 x1 x2 x3) := fun _ _ _ _ _ h => by cases h; omega
theorem vmul : ∀ x0 x1 x2 x3, Statement (.vmul x0 x1 x2 x3) := fun _ _ _ _ _ h => by cases h; omega
theorem vmac : ∀ x0 x1 x2 x3, Statement (.vmac x0 x1 x2 x3) := fun _ _ _ _ _ h => by cases h; omega
theorem vand : ∀ x0 x1 x2 x3, Statement (.vand x0 x1 x2 x3) := fun _ _ _ _ _ h => by cases h; omega
theorem vor : ∀ x0 x1 x2 x3, Statement (.vor x0 x1 x2 x3) := fun _ _ _ _ _ h => by cases h; omega
theorem vxor : ∀ x0 x1 x2 x3, Statement (.vxor x0 x1 x2 x3) := fun _ _ _ _ _ h => by cases h; omega
theorem vsll : ∀ x0 x1 x2 x3, Statement (.vsll x0 x1 x2 x3) := fun _ _ _ _ _ h => by cases h; omega
theorem vsrl : ∀ x0 x1 x2 x3, Statement (.vsrl x0 x1 x2 x3) := fun _ _ _ _ _ h => by cases h; omega
theorem vsra : ∀ x0 x1 x2 x3, Statement (.vsra x0 x1 x2 x3) := fun _ _ _ _ _ h => by cases h; omega
theorem vsat : ∀ x0 x1 x2, Statement (.vsat x0 x1 x2) := fun _ _ _ _ h => by cases h; omega
theorem vrsra : ∀ x0 x1 x2 x3, Statement (.vrsra x0 x1 x2 x3) := fun _ _ _ _ _ h => by cases h; omega
theorem vwid : ∀ x0 x1 x2, Statement (.vwid x0 x1 x2) := fun _ _ _ _ h => by cases h; omega
theorem vsel : ∀ x0 x1 x2 x3, Statement (.vsel x0 x1 x2 x3) := fun _ _ _ _ _ h => by cases h; omega
theorem vmv : ∀ x0 x1 x2, Statement (.vmv x0 x1 x2) := fun _ _ _ _ h => by cases h; omega
theorem vmin : ∀ x0 x1 x2 x3, Statement (.vmin x0 x1 x2 x3) := fun _ _ _ _ _ h => by cases h; omega
theorem vmax : ∀ x0 x1 x2 x3, Statement (.vmax x0 x1 x2 x3) := fun _ _ _ _ _ h => by cases h; omega
theorem vminu : ∀ x0 x1 x2 x3, Statement (.vminu x0 x1 x2 x3) := fun _ _ _ _ _ h => by cases h; omega
theorem vmaxu : ∀ x0 x1 x2 x3, Statement (.vmaxu x0 x1 x2 x3) := fun _ _ _ _ _ h => by cases h; omega
theorem vbcst : ∀ x0 x1 x2, Statement (.vbcst x0 x1 x2) := fun _ _ _ _ h => by cases h; omega
theorem vidx : ∀ x0 x1, Statement (.vidx x0 x1) := fun _ _ _ h => by cases h; omega
theorem vaddScalar : ∀ x0 x1 x2 x3, Statement (.vaddScalar x0 x1 x2 x3) := fun _ _ _ _ _ h => by cases h; omega
theorem vadcScalar : ∀ x0 x1 x2 x3, Statement (.vadcScalar x0 x1 x2 x3) := fun _ _ _ _ _ h => by cases h; omega
theorem vsubScalar : ∀ x0 x1 x2 x3, Statement (.vsubScalar x0 x1 x2 x3) := fun _ _ _ _ _ h => by cases h; omega
theorem vsbcScalar : ∀ x0 x1 x2 x3, Statement (.vsbcScalar x0 x1 x2 x3) := fun _ _ _ _ _ h => by cases h; omega
theorem vmulScalar : ∀ x0 x1 x2 x3, Statement (.vmulScalar x0 x1 x2 x3) := fun _ _ _ _ _ h => by cases h; omega
theorem vmacScalar : ∀ x0 x1 x2 x3, Statement (.vmacScalar x0 x1 x2 x3) := fun _ _ _ _ _ h => by cases h; omega
theorem vandScalar : ∀ x0 x1 x2 x3, Statement (.vandScalar x0 x1 x2 x3) := fun _ _ _ _ _ h => by cases h; omega
theorem vorScalar : ∀ x0 x1 x2 x3, Statement (.vorScalar x0 x1 x2 x3) := fun _ _ _ _ _ h => by cases h; omega
theorem vxorScalar : ∀ x0 x1 x2 x3, Statement (.vxorScalar x0 x1 x2 x3) := fun _ _ _ _ _ h => by cases h; omega
theorem vsllScalar : ∀ x0 x1 x2 x3, Statement (.vsllScalar x0 x1 x2 x3) := fun _ _ _ _ _ h => by cases h; omega
theorem vsrlScalar : ∀ x0 x1 x2 x3, Statement (.vsrlScalar x0 x1 x2 x3) := fun _ _ _ _ _ h => by cases h; omega
theorem vsraScalar : ∀ x0 x1 x2 x3, Statement (.vsraScalar x0 x1 x2 x3) := fun _ _ _ _ _ h => by cases h; omega
theorem vsatScalar : ∀ x0 x1 x2 x3, Statement (.vsatScalar x0 x1 x2 x3) := fun _ _ _ _ _ h => by cases h; omega
theorem vrsraScalar : ∀ x0 x1 x2 x3, Statement (.vrsraScalar x0 x1 x2 x3) := fun _ _ _ _ _ h => by cases h; omega
theorem vminScalar : ∀ x0 x1 x2 x3, Statement (.vminScalar x0 x1 x2 x3) := fun _ _ _ _ _ h => by cases h; omega
theorem vmaxScalar : ∀ x0 x1 x2 x3, Statement (.vmaxScalar x0 x1 x2 x3) := fun _ _ _ _ _ h => by cases h; omega
theorem vminuScalar : ∀ x0 x1 x2 x3, Statement (.vminuScalar x0 x1 x2 x3) := fun _ _ _ _ _ h => by cases h; omega
theorem vmaxuScalar : ∀ x0 x1 x2 x3, Statement (.vmaxuScalar x0 x1 x2 x3) := fun _ _ _ _ _ h => by cases h; omega
theorem vsllImmediate : ∀ x0 x1 x2 x3, Statement (.vsllImmediate x0 x1 x2 x3) := fun _ _ _ _ _ h => by cases h; omega
theorem vsrlImmediate : ∀ x0 x1 x2 x3, Statement (.vsrlImmediate x0 x1 x2 x3) := fun _ _ _ _ _ h => by cases h; omega
theorem vsraImmediate : ∀ x0 x1 x2 x3, Statement (.vsraImmediate x0 x1 x2 x3) := fun _ _ _ _ _ h => by cases h; omega
theorem vrsraImmediate : ∀ x0 x1 x2 x3, Statement (.vrsraImmediate x0 x1 x2 x3) := fun _ _ _ _ _ h => by cases h; omega
theorem vseq : ∀ x0 x1 x2 x3, Statement (.vseq x0 x1 x2 x3) := fun _ _ _ _ _ h => by cases h; omega
theorem vsne : ∀ x0 x1 x2 x3, Statement (.vsne x0 x1 x2 x3) := fun _ _ _ _ _ h => by cases h; omega
theorem vslt : ∀ x0 x1 x2 x3, Statement (.vslt x0 x1 x2 x3) := fun _ _ _ _ _ h => by cases h; omega
theorem vsle : ∀ x0 x1 x2 x3, Statement (.vsle x0 x1 x2 x3) := fun _ _ _ _ _ h => by cases h; omega
theorem vsltu : ∀ x0 x1 x2 x3, Statement (.vsltu x0 x1 x2 x3) := fun _ _ _ _ _ h => by cases h; omega
theorem vsleu : ∀ x0 x1 x2 x3, Statement (.vsleu x0 x1 x2 x3) := fun _ _ _ _ _ h => by cases h; omega
theorem vsgt : ∀ x0 x1 x2 x3, Statement (.vsgt x0 x1 x2 x3) := fun _ _ _ _ _ h => by cases h; omega
theorem vsgtu : ∀ x0 x1 x2 x3, Statement (.vsgtu x0 x1 x2 x3) := fun _ _ _ _ _ h => by cases h; omega
theorem vseqScalar : ∀ x0 x1 x2 x3, Statement (.vseqScalar x0 x1 x2 x3) := fun _ _ _ _ _ h => by cases h; omega
theorem vsneScalar : ∀ x0 x1 x2 x3, Statement (.vsneScalar x0 x1 x2 x3) := fun _ _ _ _ _ h => by cases h; omega
theorem vsltScalar : ∀ x0 x1 x2 x3, Statement (.vsltScalar x0 x1 x2 x3) := fun _ _ _ _ _ h => by cases h; omega
theorem vsleScalar : ∀ x0 x1 x2 x3, Statement (.vsleScalar x0 x1 x2 x3) := fun _ _ _ _ _ h => by cases h; omega
theorem vsltuScalar : ∀ x0 x1 x2 x3, Statement (.vsltuScalar x0 x1 x2 x3) := fun _ _ _ _ _ h => by cases h; omega
theorem vsleuScalar : ∀ x0 x1 x2 x3, Statement (.vsleuScalar x0 x1 x2 x3) := fun _ _ _ _ _ h => by cases h; omega
theorem vsgtScalar : ∀ x0 x1 x2 x3, Statement (.vsgtScalar x0 x1 x2 x3) := fun _ _ _ _ _ h => by cases h; omega
theorem vsgtuScalar : ∀ x0 x1 x2 x3, Statement (.vsgtuScalar x0 x1 x2 x3) := fun _ _ _ _ _ h => by cases h; omega
theorem mand : ∀ x0 x1 x2, Statement (.mand x0 x1 x2) := fun _ _ _ _ h => by cases h; omega
theorem mor : ∀ x0 x1 x2, Statement (.mor x0 x1 x2) := fun _ _ _ _ h => by cases h; omega
theorem mxor : ∀ x0 x1 x2, Statement (.mxor x0 x1 x2) := fun _ _ _ _ h => by cases h; omega
theorem mandn : ∀ x0 x1 x2, Statement (.mandn x0 x1 x2) := fun _ _ _ _ h => by cases h; omega
theorem mnot : ∀ x0 x1, Statement (.mnot x0 x1) := fun _ _ _ h => by cases h; omega
theorem mslide : ∀ x0 x1 x2, Statement (.mslide x0 x1 x2) := fun _ _ _ _ h => by cases h; omega
theorem vfirst : ∀ x0 x1, Statement (.vfirst x0 x1) := fun _ _ _ h => by cases h; omega
theorem vlast : ∀ x0 x1, Statement (.vlast x0 x1) := fun _ _ _ h => by cases h; omega
theorem mcnt : ∀ x0 x1, Statement (.mcnt x0 x1) := fun _ _ _ h => by cases h; omega
theorem mmv : ∀ x0 x1, Statement (.mmv x0 x1) := fun _ _ _ h => by cases h; omega
theorem vredsum : ∀ x0 x1 x2, Statement (.vredsum x0 x1 x2) := fun _ _ _ _ h => by cases h; omega
theorem vredsumu : ∀ x0 x1 x2, Statement (.vredsumu x0 x1 x2) := fun _ _ _ _ h => by cases h; omega
theorem vredmin : ∀ x0 x1 x2, Statement (.vredmin x0 x1 x2) := fun _ _ _ _ h => by cases h; omega
theorem vredmax : ∀ x0 x1 x2, Statement (.vredmax x0 x1 x2) := fun _ _ _ _ h => by cases h; omega
theorem vredminu : ∀ x0 x1 x2, Statement (.vredminu x0 x1 x2) := fun _ _ _ _ h => by cases h; omega
theorem vredmaxu : ∀ x0 x1 x2, Statement (.vredmaxu x0 x1 x2) := fun _ _ _ _ h => by cases h; omega
theorem vredand : ∀ x0 x1 x2, Statement (.vredand x0 x1 x2) := fun _ _ _ _ h => by cases h; omega
theorem vredor : ∀ x0 x1 x2, Statement (.vredor x0 x1 x2) := fun _ _ _ _ h => by cases h; omega
theorem vredxor : ∀ x0 x1 x2, Statement (.vredxor x0 x1 x2) := fun _ _ _ _ h => by cases h; omega
theorem vperm : ∀ x0 x1 x2 x3, Statement (.vperm x0 x1 x2 x3) := fun _ _ _ _ _ h => by cases h; omega
theorem vslup : ∀ x0 x1 x2 x3, Statement (.vslup x0 x1 x2 x3) := fun _ _ _ _ _ h => by cases h; omega
theorem vsldn : ∀ x0 x1 x2 x3, Statement (.vsldn x0 x1 x2 x3) := fun _ _ _ _ _ h => by cases h; omega
theorem vcomp : ∀ x0 x1 x2, Statement (.vcomp x0 x1 x2) := fun _ _ _ _ h => by cases h; omega
theorem vexpd : ∀ x0 x1 x2, Statement (.vexpd x0 x1 x2) := fun _ _ _ _ h => by cases h; omega
theorem vld : ∀ x0 x1 x2 x3, Statement (.vld x0 x1 x2 x3) := fun _ _ _ _ _ h => by cases h; omega
theorem vlds : ∀ x0 x1 x2 x3 x4, Statement (.vlds x0 x1 x2 x3 x4) := fun _ _ _ _ _ _ h => by cases h; omega
theorem vldx : ∀ x0 x1 x2 x3 x4, Statement (.vldx x0 x1 x2 x3 x4) := fun _ _ _ _ _ _ h => by cases h; omega
theorem vldff : ∀ x0 x1 x2 x3, Statement (.vldff x0 x1 x2 x3) := fun _ _ _ _ _ h => by cases h; omega
theorem hgath : ∀ x0 x1 x2 x3 x4, Statement (.hgath x0 x1 x2 x3 x4) := fun _ _ _ _ _ _ h => by cases h; omega
theorem vst : ∀ x0 x1 x2 x3, Statement (.vst x0 x1 x2 x3) := fun _ _ _ _ _ h => by cases h; omega
theorem vsts : ∀ x0 x1 x2 x3 x4, Statement (.vsts x0 x1 x2 x3 x4) := fun _ _ _ _ _ _ h => by cases h; omega
theorem vstx : ∀ x0 x1 x2 x3 x4, Statement (.vstx x0 x1 x2 x3 x4) := fun _ _ _ _ _ _ h => by cases h; omega
theorem vscadd : ∀ x0 x1 x2 x3 x4, Statement (.vscadd x0 x1 x2 x3 x4) := fun _ _ _ _ _ _ h => by cases h; omega
theorem wadd : ∀ x0 x1 x2, Statement (.wadd x0 x1 x2) := fun _ _ _ _ h => by cases h; omega
theorem wsub : ∀ x0 x1 x2, Statement (.wsub x0 x1 x2) := fun _ _ _ _ h => by cases h; omega
theorem wmul : ∀ x0 x1 x2, Statement (.wmul x0 x1 x2) := fun _ _ _ _ h => by cases h; omega
theorem wfma : ∀ x0 x1 x2 x3, Statement (.wfma x0 x1 x2 x3) := fun _ _ _ _ _ h => by cases h; omega
theorem wfms : ∀ x0 x1 x2 x3, Statement (.wfms x0 x1 x2 x3) := fun _ _ _ _ _ h => by cases h; omega
theorem wfnma : ∀ x0 x1 x2 x3, Statement (.wfnma x0 x1 x2 x3) := fun _ _ _ _ _ h => by cases h; omega
theorem wdiv : ∀ x0 x1 x2, Statement (.wdiv x0 x1 x2) := fun _ _ _ _ h => by cases h; omega
theorem wsqrt : ∀ x0 x1, Statement (.wsqrt x0 x1) := fun _ _ _ h => by cases h; omega
theorem wmin : ∀ x0 x1 x2, Statement (.wmin x0 x1 x2) := fun _ _ _ _ h => by cases h; omega
theorem wmax : ∀ x0 x1 x2, Statement (.wmax x0 x1 x2) := fun _ _ _ _ h => by cases h; omega
theorem wabs : ∀ x0 x1, Statement (.wabs x0 x1) := fun _ _ _ h => by cases h; omega
theorem wneg : ∀ x0 x1, Statement (.wneg x0 x1) := fun _ _ _ h => by cases h; omega
theorem weq : ∀ x0 x1 x2, Statement (.weq x0 x1 x2) := fun _ _ _ _ h => by cases h; omega
theorem wlt : ∀ x0 x1 x2, Statement (.wlt x0 x1 x2) := fun _ _ _ _ h => by cases h; omega
theorem wle : ∀ x0 x1 x2, Statement (.wle x0 x1 x2) := fun _ _ _ _ h => by cases h; omega
theorem wsel : ∀ x0 x1 x2 x3, Statement (.wsel x0 x1 x2 x3) := fun _ _ _ _ _ h => by cases h; omega
theorem wmv : ∀ x0 x1, Statement (.wmv x0 x1) := fun _ _ _ h => by cases h; omega
theorem wexp : ∀ x0 x1, Statement (.wexp x0 x1) := fun _ _ _ h => by cases h; omega
theorem wexp2 : ∀ x0 x1, Statement (.wexp2 x0 x1) := fun _ _ _ h => by cases h; omega
theorem wlog : ∀ x0 x1, Statement (.wlog x0 x1) := fun _ _ _ h => by cases h; omega
theorem wlog2 : ∀ x0 x1, Statement (.wlog2 x0 x1) := fun _ _ _ h => by cases h; omega
theorem wrcp : ∀ x0 x1, Statement (.wrcp x0 x1) := fun _ _ _ h => by cases h; omega
theorem wrsq : ∀ x0 x1, Statement (.wrsq x0 x1) := fun _ _ _ h => by cases h; omega
theorem wtanh : ∀ x0 x1, Statement (.wtanh x0 x1) := fun _ _ _ h => by cases h; omega
theorem wsig : ∀ x0 x1, Statement (.wsig x0 x1) := fun _ _ _ h => by cases h; omega
theorem wsin : ∀ x0 x1, Statement (.wsin x0 x1) := fun _ _ _ h => by cases h; omega
theorem wcos : ∀ x0 x1, Statement (.wcos x0 x1) := fun _ _ _ h => by cases h; omega
theorem wredsum : ∀ x0 x1 x2 x3, Statement (.wredsum x0 x1 x2 x3) := fun _ _ _ _ _ h => by cases h; omega
theorem wredmax : ∀ x0 x1 x2 x3, Statement (.wredmax x0 x1 x2 x3) := fun _ _ _ _ _ h => by cases h; omega
theorem wredmin : ∀ x0 x1 x2 x3, Statement (.wredmin x0 x1 x2 x3) := fun _ _ _ _ _ h => by cases h; omega
theorem iscan : ∀ x0 x1 x2 x3, Statement (.iscan x0 x1 x2 x3) := fun _ _ _ _ _ h => by cases h; omega
theorem fscan : ∀ x0 x1 x2 x3, Statement (.fscan x0 x1 x2 x3) := fun _ _ _ _ _ h => by cases h; omega
theorem wtopk : ∀ x0 x1 x2 x3, Statement (.wtopk x0 x1 x2 x3) := fun _ _ _ _ _ h => by cases h; omega
theorem wsmx : ∀ x0 x1 x2 x3, Statement (.wsmx x0 x1 x2 x3) := fun _ _ _ _ _ h => by cases h; omega
theorem wscl : ∀ x0 x1 x2 x3, Statement (.wscl x0 x1 x2 x3) := fun _ _ _ _ _ h => by cases h; omega
theorem smerge : ∀ x0 x1 x2 x3, Statement (.smerge x0 x1 x2 x3) := fun _ _ _ _ _ h => by cases h; omega
theorem wcvt : ∀ x0 x1 x2 x3, Statement (.wcvt x0 x1 x2 x3) := fun _ _ _ _ _ h => by cases h; omega
theorem wcvti : ∀ x0 x1 x2 x3, Statement (.wcvti x0 x1 x2 x3) := fun _ _ _ _ _ h => by cases h; omega
theorem wcvtf : ∀ x0 x1 x2 x3, Statement (.wcvtf x0 x1 x2 x3) := fun _ _ _ _ _ h => by cases h; omega
theorem wpkmx : ∀ x0 x1 x2 x3, Statement (.wpkmx x0 x1 x2 x3) := fun _ _ _ _ _ h => by cases h; omega
theorem wupmx : ∀ x0 x1 x2 x3, Statement (.wupmx x0 x1 x2 x3) := fun _ _ _ _ _ h => by cases h; omega
theorem wmvv : ∀ x0 x1 x2, Statement (.wmvv x0 x1 x2) := fun _ _ _ _ h => by cases h; omega
theorem vmvw : ∀ x0 x1 x2, Statement (.vmvw x0 x1 x2) := fun _ _ _ _ h => by cases h; omega
theorem wmva : ∀ x0 x1 x2, Statement (.wmva x0 x1 x2) := fun _ _ _ _ h => by cases h; omega
theorem amvw : ∀ x0 x1 x2, Statement (.amvw x0 x1 x2) := fun _ _ _ _ h => by cases h; omega
theorem vdot : ∀ x0 x1 x2 x3, Statement (.vdot x0 x1 x2 x3) := fun _ _ _ _ _ h => by cases h; omega
theorem mgath : ∀ x0 x1 x2 x3, Statement (.mgath x0 x1 x2 x3) := fun _ _ _ _ _ h => by cases h; omega
theorem mgathc : ∀ x0 x1 x2 x3, Statement (.mgathc x0 x1 x2 x3) := fun _ _ _ _ _ h => by cases h; omega
theorem mmac : ∀ x0 x1 x2 x3, Statement (.mmac x0 x1 x2 x3) := fun _ _ _ _ _ h => by cases h; omega
theorem mzeroI32 : ∀ x0, Statement (.mzeroI32 x0) := fun _ _ h => by cases h; omega
theorem mzeroF32 : ∀ x0, Statement (.mzeroF32 x0) := fun _ _ h => by cases h; omega
theorem mpro : ∀ x0, Statement (.mpro x0) := fun _ _ h => by cases h; omega
theorem msclRs : ∀ x0 x1, Statement (.msclRs x0 x1) := fun _ _ _ h => by cases h; omega
theorem msclRe : ∀ x0 x1, Statement (.msclRe x0 x1) := fun _ _ _ h => by cases h; omega
theorem msclCs : ∀ x0 x1, Statement (.msclCs x0 x1) := fun _ _ _ h => by cases h; omega
theorem msclCe : ∀ x0 x1, Statement (.msclCe x0 x1) := fun _ _ _ h => by cases h; omega
theorem msclOl : ∀ x0 x1, Statement (.msclOl x0 x1) := fun _ _ _ h => by cases h; omega
theorem mldI32 : ∀ x0 x1 x2, Statement (.mldI32 x0 x1 x2) := fun _ _ _ _ h => by cases h; omega
theorem mldF32 : ∀ x0 x1 x2, Statement (.mldF32 x0 x1 x2) := fun _ _ _ _ h => by cases h; omega
theorem mst : ∀ x0 x1 x2, Statement (.mst x0 x1 x2) := fun _ _ _ _ h => by cases h; omega
theorem mstatBank : ∀ x0 x1, Statement (.mstatBank x0 x1) := fun _ _ _ h => by cases h; omega
theorem mstatTile : ∀ x0 x1, Statement (.mstatTile x0 x1) := fun _ _ _ h => by cases h; omega
theorem hint : ∀ x0, Statement (.hint x0) := fun _ _ h => by cases h; omega
theorem pfch : ∀ x0 x1, Statement (.pfch x0 x1) := fun _ _ _ h => by cases h; omega
theorem pfl2 : ∀ x0 x1, Statement (.pfl2 x0 x1) := fun _ _ _ h => by cases h; omega
theorem hintKind : ∀ x0 x1, Statement (.hintKind x0 x1) := fun _ _ _ h => by cases h; omega
theorem nop : Statement .nop := fun _ h => by cases h; omega
theorem rpt : ∀ x0 x1 x2 x3 x4, Statement (.rpt x0 x1 x2 x3 x4) := fun _ _ _ _ _ _ h => by cases h; omega
theorem takeRecord : Statement .takeRecord := fun _ h => nomatch h
theorem launchCompletion : Statement .launchCompletion := fun _ h => nomatch h
theorem tlbinvCompletion : Statement .tlbinvCompletion := fun _ h => nomatch h
theorem correctedError : ∀ x0, Statement (.correctedError x0) := fun _ _ h => nomatch h
theorem uncorrectableError : ∀ x0 x1, Statement (.uncorrectableError x0 x1) := fun _ _ _ h => nomatch h
theorem integrityError : ∀ x0, Statement (.integrityError x0) := fun _ _ h => nomatch h
theorem write : ∀ x0 x1, Statement (.write x0 x1) := fun _ _ _ h => nomatch h
theorem writeSync : ∀ x0 x1, Statement (.writeSync x0 x1) := fun _ _ _ h => nomatch h
theorem read : ∀ x0 x1, Statement (.read x0 x1) := fun _ _ _ h => nomatch h
theorem readSync : ∀ x0 x1, Statement (.readSync x0 x1) := fun _ _ _ h => nomatch h
theorem dataPacket : ∀ x0 x1, Statement (.dataPacket x0 x1) := fun _ _ _ h => nomatch h
theorem ack : ∀ x0 x1, Statement (.ack x0 x1) := fun _ _ _ h => nomatch h
theorem nak : ∀ x0 x1, Statement (.nak x0 x1) := fun _ _ _ h => nomatch h
theorem putPacket : ∀ x0 x1, Statement (.putPacket x0 x1) := fun _ _ _ h => nomatch h
theorem getPacket : ∀ x0 x1, Statement (.getPacket x0 x1) := fun _ _ _ h => nomatch h
theorem retransmission : ∀ x0, Statement (.retransmission x0) := fun _ _ h => nomatch h
theorem linkLoss : ∀ x0, Statement (.linkLoss x0) := fun _ _ h => nomatch h
theorem ringLinkFailure : ∀ x0, Statement (.ringLinkFailure x0) := fun _ _ h => nomatch h
theorem doorbell : ∀ x0 x1, Statement (.doorbell x0 x1) := fun _ _ _ h => nomatch h
theorem semaphoreAcquire : ∀ x0 x1, Statement (.semaphoreAcquire x0 x1) := fun _ _ _ h => nomatch h
theorem semaphoreRelease : ∀ x0 x1, Statement (.semaphoreRelease x0 x1) := fun _ _ _ h => nomatch h
theorem semaphoreForcedRelease : ∀ x0, Statement (.semaphoreForcedRelease x0) := fun _ _ h => nomatch h
theorem preq : ∀ x0, Statement (.preq x0) := fun _ _ h => nomatch h
theorem wakeRegister : ∀ x0, Statement (.wakeRegister x0) := fun _ _ h => nomatch h
theorem tcmp : ∀ x0 x1, Statement (.tcmp x0 x1) := fun _ _ _ h => nomatch h
theorem restart : ∀ x0, Statement (.restart x0) := fun _ _ h => nomatch h
theorem controlRegisterWrite : ∀ x0 x1 x2, Statement (.controlRegisterWrite x0 x1 x2) := fun _ _ _ _ h => nomatch h
theorem mailboxReportRequest : ∀ x0, Statement (.mailboxReportRequest x0) := fun _ _ h => nomatch h
theorem reportComplete : ∀ x0, Statement (.reportComplete x0) := fun _ _ h => nomatch h
theorem measurementExtend : ∀ x0, Statement (.measurementExtend x0) := fun _ _ h => nomatch h
theorem powerOn : ∀ x0 x1 x2, Statement (.powerOn x0 x1 x2) := fun _ _ _ _ h => nomatch h
theorem grantEpoch : ∀ x0 x1 x2, Statement (.grantEpoch x0 x1 x2) := fun _ _ _ _ h => nomatch h
theorem thermalTrip : Statement .thermalTrip := fun _ h => nomatch h
theorem refreshEvaluation : ∀ x0, Statement (.refreshEvaluation x0) := fun _ _ h => nomatch h
theorem linkUp : ∀ x0, Statement (.linkUp x0) := fun _ _ h => nomatch h

end Sys2Proof.Laws.Encoding
end

