-- ==== Sys2Proof/Tests/Slice0.lean ====
section
/-!
SUPPORT. The model's own tests: the encodings that are refused, words written out from the spec, small steps, and a witness for
the hypotheses of every statement.
-/

set_option Elab.async false

namespace Sys2Proof.Tests

open Sys2Proof Sys2Proof.Machine

/-! ### Helpers -/

/-- The next state of an outcome. -/
def nextOf : Out → State
  | .next t => t
  | _ => State.reset
/-- The outcome is a next state. -/
def isNext : Out → Bool
  | .next _ => true
  | _ => false
/-- The computation answers a result that p accepts. -/
def okAnd {ε α : Type} (x : Except ε α) (p : α → Bool) : Bool :=
  match x with
  | .ok a => p a
  | .error _ => false
/-- The state with n bytes of memory set. -/
def poke (s : State) (a n v : Nat) : State :=
  { s with memory.mem := ((upto a n).zip (leBytes v n)).foldl (fun m c => mapSet m c.1 c.2) s.memory.mem }
/-- Words of 8 bytes in memory. -/
def poke8 (s : State) (l : List (Nat × Nat)) : State := l.foldl (fun s p => poke s p.1 8 p.2) s
/-- Firmware runs at 0x3000. -/
def firm : State := { State.reset with mode := .running, level := .firmware, pc := 0x3000 }
/-- The kernel runs at 0x3000. -/
def kern : State := { firm with level := .kernel }
/-- An activation with its root at 0x80000 and its block at 0x10000. -/
def act0 : Activation := ⟨⟨0x3000, 0, 0, 0⟩, 0, 0, 0x80000, some 0x10000, none, false, 0, 0, 0, 0⟩
/-- A program runs at 0x3000; one leaf maps every low address to itself, marked and with every permission. -/
def user : State :=
  { poke State.reset 0x80000 1 0xFF with mode := .running, level := .program, pc := 0x3000, sched.act := some act0 }
/-- The translation of 0x1000 in `user`. -/
def leaf1 : Hit := { loc := 0x1000, type := .normal, leaf := some 0x80000 }
/-- A legal vector configuration of eight registers and four elements of 8 bits. -/
def vec (s : State) : State := { s with lanes.vl := 4 }

/-! ### What is not well-formed is refused: one term for each check (02_encoding.md R41, R44) -/

theorem test_wf_scope : (Instr.pub 3).wf = false := by decide
theorem test_wf_csr : (Instr.crd 1 0x7FF).wf = false := by decide
theorem test_wf_distance : (Instr.loop 3 0).wf = false := by decide
theorem test_wf_level : (Instr.lidx 1 6).wf = false := by decide
theorem test_wf_condition : (Instr.sbra 1 3 2).wf = false := by decide
theorem test_wf_field_index : (Instr.widf 1 6 0).wf = false := by decide
theorem test_wf_context : (Instr.xtile 1 2 3 3).wf = false := by decide
theorem test_wf_mask_dest : (Instr.mand 0 1 2).wf = false := by decide
theorem test_wf_container : (Instr.vlds 1 2 3 0 2).wf = false := by decide
theorem test_wf_convert_source : (Instr.wcvt 1 2 9 0).wf = false := by decide
theorem test_wf_convert_int_source : (Instr.wcvti 1 2 15 9).wf = false := by decide
theorem test_wf_convert_dest : (Instr.wcvt 1 2 0 5).wf = false := by decide
theorem test_wf_int_format : (Instr.wcvtf 1 2 8 0).wf = false := by decide
theorem test_wf_block_format : (Instr.wupmx 1 2 8 3).wf = false := by decide
theorem test_wf_distinct : (Instr.wtopk 4 2 3 4).wf = false := by decide
theorem test_wf_even_register : (Instr.smerge 4 1 3 2).wf = false := by decide
theorem test_wf_hint_kind : (Instr.hintKind 2 0).wf = false := by decide
theorem test_wf_step_code : (Instr.rpt 0 1 0 3 0).wf = false := by decide
theorem test_wf_count : (Instr.rpt 0 1 0 0 5).wf = false := by decide

/-! ### Words written out from the spec -/

/-- 02_encoding.md R40 to R58: the examples of the chapter. -/
theorem test_words_encoding : decode 0x0083FA08 = some (.ld 8 31 16) ∧ decode 0x00073141 = some (.add 5 6 7) ∧
    decode 0xFFC3FA09 = some (.sd 8 31 (-8)) ∧ decode 0x0000003F = some .nop ∧
    decode 0x01C0C07F = some (.rpt 0 3 7 0 0) := by decide
/-- 04_control.md R87 to R116. -/
theorem test_words_control : decode 0x0005924F = some (.loopr 9 11) ∧ decode 0xFFFFE00D = some (.jal 0 (-4)) ∧
    decode 0x0000F00E = some (.jalr 0 30 0) ∧ decode 0x00000010 = some .sfork ∧ decode 0x00001810 = some .sjoin := by
  decide
/-- 06_memory.md R159, R173, 11_sync.md R292: an atomic, a vector store and a scatter-add. -/
theorem test_words_memory : decode 0x180B500A = some (.atswp 0 10 11 2 1) ∧
    decode 0x186EB80A = some (.ator 0 23 14 2 1) ∧ decode 0x740250A1 = some (.vscadd 2 5 1 0 5) := by decide
/-- 07_lanes.md and 08_masks.md. -/
theorem test_words_lanes : decode 0x00404818 = some (.setw 0 9) ∧ decode 0x00204A98 = some (.setvl 10 9) ∧
    decode 0x00143119 = some (.vadd 4 3 5 0) ∧ decode 0x20040099 = some (.vmul 2 0 1 0) ∧
    decode 0x680820DB = some (.vrsraImmediate 3 2 2 0) ∧ decode 0x4804419B = some (.vsllImmediate 6 4 1 0) ∧
    decode 0xA80000D9 = some (.vbcst 3 0 0) ∧ decode 0x09040099 = some (.vadc 2 0 1 1) := by decide
theorem test_words_masks : decode 0x802C005C = some (.vseqScalar 1 0 11 0) ∧ decode 0x200400DC = some (.vsltu 3 0 1 0) ∧
    decode 0x0800125D = some (.mxor 1 1 1) ∧ decode 0x1404825D = some (.mslide 1 1 9) ∧
    decode 0x1806021D = some (.vfirst 1 12) ∧ decode 0x2005021D = some (.mcnt 1 10) := by decide
/-- 09_word.md. -/
theorem test_words_word : decode 0x00483067 = some (.wmvv 1 6 9) ∧ decode 0x04483067 = some (.vmvw 1 6 9) ∧
    decode 0x084A0027 = some (.wmva 0 1 9) ∧ decode 0x0C4A0027 = some (.amvw 0 1 9) ∧
    decode 0x188910E5 = some (.wsmx 3 2 9 4) ∧ decode 0x14CA1165 = some (.wtopk 5 2 10 6) ∧
    decode 0x20430125 = some (.smerge 4 0 3 2) := by decide
/-- 05_numbers.md R137, 09_word.md R232: conversions and an addition, w4 := w2 + w16 (OP 0x23, D 4, A 2, B 16). -/
theorem test_words_numbers : decode 0x0D454266 = some (.wpkmx 9 8 5 10) ∧ decode 0x026419E6 = some (.wcvt 7 3 4 0x13) ∧
    decode 0x00101123 = some (.wadd 4 2 16) := by decide
/-- 10_matrix.md. -/
theorem test_words_matrix : decode 0x02019928 = some (.mgath 1 12 3 0) ∧ decode 0x06029168 = some (.mmac 1 1 8 5) ∧
    decode 0x081000A8 = some (.mzeroF32 2) ∧ decode 0x0C310068 = some (.msclCs 1 3) ∧
    decode 0x10030E28 = some (.mst 0 7 6) ∧ decode 0x12B00128 = some (.mstatBank 1 11) ∧
    decode 0x00200228 = some (.vdot 0 1 0 2) := by decide
/-- 11_sync.md R292. -/
theorem test_words_sync : decode 0x08000011 = some (.pub 2) ∧ decode 0x08200011 = some (.acq 2) ∧
    decode 0x04400011 = some (.phase 1) ∧ decode 0x08600011 = some (.fence 2) ∧ decode 0x08805011 = some (.vfence 10 2) ∧
    decode 0x08AC5011 = some (.bar 10 12 2) ∧ decode 0x00C91811 = some (.tlwait 3 9) ∧
    decode 0x00E91B51 = some (.tlpoll 13 3 9) ∧ decode 0x01005391 = some (.tlrd 14 10) := by decide
/-- 12_engines.md and 13_work.md. -/
theorem test_words_engines : decode 0x000B5253 = some (.xcopy 9 10 11 0) ∧ decode 0x02805253 = some (.xconv 9 10 0 4) ∧
    decode 0x080B5253 = some (.xfmt 9 10 11 0) ∧ decode 0x01200017 = some .uret := by decide
theorem test_words_work : decode 0x00800A52 = some (.widf 9 1 0) ∧ decode 0x0019C012 = some (.spawn 24 25) ∧
    decode 0x00400012 = some .done ∧ decode 0x065AC016 = some (.vcapp 12 13 1) := by decide
/-- 14_sparse.md and 15_sweep.md. -/
theorem test_words_worklist : decode 0x001AC256 = some (.wlpush 9 12 13) ∧ decode 0x021AC116 = some (.wlpop 4 12 13) ∧
    decode 0x041AC256 = some (.wlins 9 12 13) := by decide
theorem test_words_sweep : decode 0x00014014 = some (.tdecl 20 0) ∧ decode 0x04008014 = some (.sweep 0 8 0) ∧
    decode 0x08000014 = some (.snext 0) ∧ decode 0x0C006294 = some (.swait 10 6 0) ∧ decode 0x10000254 = some (.wake 9 0) ∧
    decode 0x140220D4 = some (.vwake 3 2 1) ∧ decode 0x18042254 = some (.sctlAbort 9 2) := by decide
/-- 16_kv.md. -/
theorem test_words_kv : decode 0x0015A255 = some (.pfxmatch 9 20 21) ∧ decode 0x0035A255 = some (.pfxins 9 20 21) ∧
    decode 0x0040A255 = some (.pfxrel 9 20 0) ∧ decode 0x006AA255 = some (.kvalloc 9 20 10) ∧
    decode 0x0095A255 = some (.kvappend 9 20 21) ∧ decode 0x00AAA255 = some (.kvcommit 9 20 10) ∧
    decode 0x00C0A255 = some (.kvreject 9 20) ∧ decode 0x00EAA255 = some (.kvxlat 9 20 10) ∧
    decode 0x010AA0D5 = some (.kvscore 3 20 10) ∧ decode 0x0124A4D5 = some (.kvcompact 19 20 4) ∧
    decode 0x006AA258 = some (.setvlrun 9 20 10) := by decide
/-- 17_system.md. -/
theorem test_words_system : decode 0x00001817 = some (.trap 3) ∧ decode 0x008B5257 = some (.tlbinv 9 10 11) ∧
    decode 0x00A05017 = some (.ctxsave 10) ∧ decode 0x00C05017 = some (.ctxload 10) := by decide
/-- A reserved field that is not zero, and an operation code of no row, are refused (02_encoding.md R41, R45). -/
theorem test_words_refused : decode 0x00073143 = some (.mul 5 6 7) ∧ decode 0x07F73141 = none ∧ decode 0x0000007F ≠ some .nop ∧
    decode 0x00000000 = none := by decide

/-! ### Witnesses: what the hypotheses of the statements ask is met -/

theorem witness_StepKeepsMemoryCanonical : State.reset.memory.wf = true ∧
    isNext (step (State.reset.withFetchWord 32 0x3F)) = true := by decide +kernel
theorem witness_lanesLegal : LanesLegal State.reset :=
  ⟨by decide, ⟨by decide, by decide, by decide⟩, fun h => absurd h (by decide)⟩
theorem witness_lanesLegal_four : LanesLegal (vec user) :=
  ⟨by decide, ⟨by decide, by decide, by decide⟩, fun h => absurd h (by decide)⟩
theorem witness_StepKeepsVectorConfigurationLegal : isNext (step (firm.withFetchWord 32 0x00404818)) = true := by
  decide +kernel
theorem witness_DecodeOfEncodeIsIdentity :
    (Instr.jal 30 (-4)).wf = true ∧ encode (.jal 30 (-4)) = some 0xFFFFE78D ∧ (Instr.jal 30 (-4)).isEvent = false ∧
      Instr.takeRecord.isEvent = true := by decide
theorem witness_EncodeOfDecodeIsIdentity : decode 0x00073141 = some (.add 5 6 7) ∧ frameWordOk 0x00073141 = true ∧
    stripWordOk 0x00143119 = true := by decide
/-- A firmware state in which the next step executes `nop`, at an even cycle. -/
def quietState : State := firm.withFetchWord 32 0x3F
theorem witness_StepRunsDecodedInstruction : Quiet quietState := by
  constructor <;> decide +kernel
theorem witness_StepRunsDecodedInstruction_word : quietState.strip.live = false ∧ quietState.frame.live = false ∧
    quietState.inTask = false ∧ quietState.pc.toNat % 4 = 0 ∧
    (translate quietState .fetch quietState.pc).toOption.map (fun h => (h.loc, h.type)) = some (0x3000, .normal) ∧
    firstPoison quietState 0x3000 (upto 0x3000 4) = none ∧ decode (quietState.num 0x3000 4) = some .nop := by
  decide +kernel
/-- A repeat frame that is captured, with one body word. -/
def frameState : State :=
  { firm with frame := ⟨true, 1, 4, 0, true, .firmware, 0, 0x01C0C07F, [0x00100219, 0x000A4A41]⟩ }
theorem witness_StepRunsStaggeredBodyWord : Quiet frameState := by
  constructor <;> decide +kernel
theorem witness_StepRunsStaggeredBodyWord_word : frameState.strip.live = false ∧ frameState.frame.live = true ∧
    frameState.frame.captured = true ∧ frameState.frame.level = frameState.level ∧
    decode (stagger 0x01C0C07F 0x00100219 1) = some (.vadd 9 1 5 0) := by decide +kernel
/-- Strip threads run over a body of one word. -/
def stripState : State :=
  { firm with strip := ⟨true, 1, [], true, .firmware, 0, [], 0, 0x48, 0x48, 0x48, [0x00143119]⟩, lanes.vl := 4 }
theorem witness_StepRunsStripWord : Quiet stripState := by
  constructor <;> decide +kernel
theorem witness_StepRunsStripWord_word : stripState.inStrip = true ∧ stripState.strip.held = 0 ∧ stripState.thread < 256 ∧
    decode (stripState.strip.body.getD (stripState.stripPos stripState.thread) 0).toNat = some (.vadd 4 3 5 0) := by
  decide +kernel
theorem witness_StepRunsMisaligned_quiet : Quiet { user with pc := 0x3002 } := by
  constructor <;> decide +kernel
theorem witness_StepRunsMisaligned : ({ user with pc := 0x3002 } : State).inTask = false ∧ user.level = .program ∧
    (0x3002#64).toNat % 4 ≠ 0 ∧ quietState.frame.held = 0 ∧ stripState.pc.toNat % 4 = 0 := by decide +kernel
theorem witness_OnlyLostPowerStops : State.reset.hub.powered = true := by decide
theorem witness_RegisterFileBehaviour : (24#5).toNat = 24 ∧ (29#5).toNat = 29 ∧ kern.level ≠ user.level ∧
    (0#17).getLsbD 16 ≠ (0x10000#17).getLsbD 16 := by decide
theorem witness_SequencingAfterCommit_straight : user.straight := by
  refine ⟨?_, ?_, ?_⟩ <;> decide +kernel
theorem witness_SequencingAfterCommit_loop :
    let e : LoopEntry := ⟨.counted, 0x2000, 0x3000, 2, 0, false⟩
    let s : State := { user with loops := [e] }
    s.inFrame = false ∧ s.inStrip = false ∧ e.last = s.pc ∧ e.index.toNat + 1 < e.arg.toNat := by decide +kernel
theorem witness_SequencingAfterCommit_last :
    let e : LoopEntry := ⟨.counted, 0x2000, 0x3000, 2, 1, false⟩
    let s : State := { user with loops := [e] }
    s.inFrame = false ∧ s.inStrip = false ∧ e.last = s.pc ∧ e.arg.toNat ≤ e.index.toNat + 1 := by decide +kernel
theorem witness_SequencingAfterCommit_frame : frameState.inFrame = true ∧
    frameState.frame.p.toNat + 1 < frameState.frame.body.length ∧ frameState.frame.p ≠ 15 := by decide +kernel
theorem witness_SequencingAfterCommit_replay :
    let s : State := { frameState with frame.p := 1 }
    s.inFrame = true ∧ s.frame.p.toNat + 1 = s.frame.body.length ∧ s.frame.j.toNat + 1 < s.frame.n.toNat := by
  decide +kernel
theorem witness_SequencingAfterCommit_end :
    let s : State := { frameState with frame.p := 1, frame.j := 3 }
    s.inFrame = true ∧ s.frame.p.toNat + 1 = s.frame.body.length ∧ s.frame.n.toNat ≤ s.frame.j.toNat + 1 := by
  decide +kernel
/-- The end of a body that runs for the trip counts in v3: 5 for element 0. -/
def tripState (index : BitVec 64) : State :=
  { user with loops := [⟨.vector, 0x2000, 0x3000, 3, index, false⟩], lanes.vl := 2, lanes.ewa := 8
              lanes.vreg := mapSet [] (3 * 262144) 5 }
theorem witness_SequencingAfterCommit_vector :
    let s := tripState 3
    s.inFrame = false ∧ s.inStrip = false ∧ (3#64).toNat < 64 ∧ s.loops.map (·.last) = [s.pc] ∧ 0 < s.vlmax ∧
      0 < s.lanes.vl.toNat ∧ 4 < tripCount s 3 0 ∧ (retire s).pc = 0x2000 := by decide +kernel
theorem witness_SequencingAfterCommit_vector_end :
    let s := tripState 4
    (List.range s.lanes.vl.toNat).all (fun i => decide (tripCount s 3 i ≤ 5)) = true ∧ (retire s).pc = 0x3004 ∧
      (retire s).loops = [] := by decide +kernel
theorem witness_SequencingAfterCommit_strip :
    let s : State := { stripState with strip.len := 2 }
    s.inFrame = false ∧ s.inStrip = true ∧ s.thread = 0 ∧ s.stripPos 0 + 1 ≠ s.strip.len.toNat ∧
      stripState.stripPos 0 + 1 = stripState.strip.len.toNat ∧ stripState.stripPos 1 ≠ stripState.strip.len.toNat ∧
      (retire stripState).thread = 1 := by decide +kernel
theorem witness_SequencingAfterCommit_strip_last :
    let s : State := { stripState with strip.pos := mapBuild (fun k => if k < 255 then 1 else 0) 0 256 }
    s.thread = 255 ∧ s.stripPos 255 + 1 = s.strip.len.toNat ∧ (retire s).thread = 256 := by decide +kernel
theorem witness_ScalarArithmeticFrame : ScalarInto (.add 5 6 7) 5 ∧ isNext (exec (.add 5 6 7) user) = true :=
  ⟨.add 5 6 7, by decide +kernel⟩
theorem witness_CsrInstructionResult : csrListed 0x011 = true ∧ csrLevel 0x011 ≤ user.level.code ∧
    csrWritable user 0x011 = true ∧ csrListed 0x7FF = false ∧ 0x404 / 1024 % 4 ≠ 0 ∧ 0x220 / 512 % 2 = 1 ∧
    kern.level ≠ .program := by decide
theorem witness_CsrInstructionResult_writer : CsrWriter user (.cwr 5 6 0x011) 5 0x011 (user.rd 6) := .cwr 5 6 0x011
theorem witness_CsrInstructionResult_instret : csrWritable kern 0x051 = true ∧ csrWritable user 0x051 = false ∧
    firm.level = .firmware ∧ ¬ firm.kernelTakes := by
  refine ⟨?_, ?_, ?_, fun h => ?_⟩
  · decide
  · decide
  · decide
  · cases h with
    | inl h => cases h
    | inr h => cases h.1
theorem witness_CsrReadsWhatWasWritten : (5#64).toNat % 2 ^ 18 < user.vlmax ∧
    ¬ (0x3FFFF#64).toNat % 2 ^ 18 < ({ user with lanes.vcfg := 1 } : State).vlmax ∧
    csrRead (csrWrite { user with lanes.vcfg := 1, lanes.vstart := 9 } 0x020 0x3FFFF) 0x020 = 9 := by decide +kernel
theorem witness_CsrInstructionFrame : isNext (exec (.crd 5 0x011) user) = true ∧
    isNext (exec (.cwr 5 6 0x011) user) = true := by decide +kernel
theorem witness_CsrInstructionFrame_dirty :
    let s : State := { user with lanes.vdirty := 8, lanes.wdirty := 4 }
    CsrWriter s (.cwr 5 6 0x022) 5 0x022 (s.rd 6) ∧ isNext (exec (.cwr 5 6 0x022) s) = true ∧
      isNext (exec (.cwr 5 6 0x023) s) = true ∧ s.lanes.vdirty.getLsbD 3 = true ∧ s.lanes.wdirty.getLsbD 2 = true ∧
      (s.rd 6).getLsbD 3 = false :=
  ⟨.cwr 5 6 0x022, by decide +kernel⟩
theorem witness_CsrInstructionFrame_spl : isNext (exec (.cwr 5 6 0x021) (user.wr 6 8)) = true ∧
    user.memory.arrivals = [] ∧ (8 : Nat) ≠ user.ctl.spl.toNat := by decide +kernel
theorem witness_CsrInstructionFrame_cycle : isNext (exec (.cwr 5 6 0x050) { firm with mode := .running }) = true ∧
    csrRead (nextOf (exec (.cwr 5 6 0x050) ((firm.wr 6 7)))) 0x403 &&& 0x7F = csrRead firm 0x403 &&& 0x7F := by decide +kernel
theorem witness_BranchAndJumpResult : user.atLoopEnd = false ∧ user.rd 5 = user.rd 6 ∧
    canonical (BitVec.ofInt 64 (user.pc.toInt + 4 * (3 : BitVec 13).toInt)) = true ∧
    (BitVec.ofInt 64 (user.pc.toInt + 4 * (3 : BitVec 13).toInt)).toNat % 4 = 0 := by decide +kernel
theorem witness_BranchAndJumpResult_branch : BranchWhen user (.beq 5 6 3) (user.rd 5 = user.rd 6) 3 := .beq 5 6 3
theorem witness_BranchAndJumpResult_not_taken : ¬ (user.rd 5 ≠ user.rd 6) := by decide +kernel
theorem witness_RedirectChecks_misaligned :
    (BitVec.ofInt 64 ((user.rd 6).toInt + (2 : BitVec 13).toInt)).toNat % 4 ≠ 0 ∧ user.level = .program := by decide +kernel
theorem witness_RedirectChecks_noncanonical :
    let t := BitVec.ofInt 64 (((user.wr 6 0x0080000000000000).rd 6).toInt + (0 : BitVec 13).toInt)
    t.toNat % 4 = 0 ∧ canonical t = false := by decide +kernel
theorem witness_RedirectChecks_loop_end :
    let s : State := { user with loops := [⟨.counted, 0x2000, 0x3000, 2, 0, false⟩] }
    s.level = .program ∧ s.inStrip = false ∧ s.atLoopEnd = true := by decide +kernel
theorem witness_RedirectChecks_loop_end_target :
    canonical (BitVec.ofInt 64 (user.pc.toInt + 4 * (3 : BitVec 13).toInt)) = true ∧
    canonical (BitVec.ofInt 64 (user.pc.toInt + 4 * (3 : BitVec 21).toInt)) = true ∧
    canonical (BitVec.ofInt 64 ((user.rd 6).toInt + (2 : BitVec 13).toInt)) = true := by decide +kernel
theorem witness_RedirectChecks_join :
    let s : State := { stripState with level := .program, strip.level := .program
                                       loops := [⟨.counted, 0x2000, 0x3008, 2, 0, false⟩] }
    s.level = .program ∧ s.inStrip = true ∧ s.loops.map (·.last) = [s.pc + BitVec.ofNat 64 (4 * (s.strip.len.toNat + 1))] ∧
      ({ s with strip.pos := mapBuild (fun _ => 1) 0 256 } : State).thread = 256 := by decide +kernel
theorem witness_HardwareLoopResult : user.loops.length < 6 ∧ user.inStrip = false ∧ user.inFrame = false ∧
    user.atLoopEnd = false ∧ user.rd 5 = 0 ∧ (user.wr 5 3).rd 5 ≠ 0 ∧ (63#6).toNat < 64 ∧ (3#6).toNat < user.nr := by
  decide +kernel
theorem witness_HardwareLoopResult_vector : anyM7 (loopEval user 3 0) = false ∧
    anyM7 (loopEval { user with lanes.vl := 2, lanes.ewa := 8, lanes.vreg := mapSet [] (3 * 262144) 5 } 3 0) = true := by
  decide +kernel
theorem witness_HardwareLoopResult_leave :
    let e : LoopEntry := ⟨.counted, 0x2000, 0x3010, 2, 1, false⟩
    let s : State := { user with loops := [e] }
    s.atLoopEnd = false ∧ e.kind ≠ .sweep ∧ s.loops[(0 : BitVec 17).toNat]? = some e := by decide +kernel
/-- `rpt 2, 1, none` over `add s9, s9, s10` stands at 0x3000. -/
def rptState : State := poke firm 0x3004 4 0x000A4A41
theorem witness_CapturedBodyResult : rptPlaceOk rptState 1 = true ∧
    okAnd (fetchWords rptState (rptState.pc + 4) 1) (fun ws =>
      (firstBad rptState 0 0 0 (rptState.pc + 4) ws.1).isNone && ws.1.all (·.clean)) = true ∧
    ((rptState.rd 5).toNat = 0) ∧ (0 : Nat) ≤ 65535 := by decide +kernel
theorem witness_CapturedBodyResult_bad : user.level = .program ∧ okAnd (fetchWords user (user.pc + 4) 1) (fun ws =>
    (firstBad user 0 0 0 (user.pc + 4) ws.1).isSome) = true := by decide +kernel
/-- 02_encoding.md R55, 10_matrix.md R268: the body `addi s5, s5, k`, `mgathc` of the shape in s5 is checked with the shape that
`mgathc` is going to read, whose format 6 is illegal. -/
theorem test_rpt_checks_computed_shape :
    let word (i : Instr) : Nat := (encode i).getD 0
    let bad (x : Word) (k : BitVec 13) : Option Word :=
      let s := poke (poke firm 0x3004 4 (word (.addi 5 5 k))) 0x3008 4 (word (.mgathc 0 5 3 0))
      match fetchWords (s.wr 5 x) 0x3004 2 with
      | .ok ws => firstBad (s.wr 5 x) 0 0 0 0x3004 ws.1
      | .error _ => none
    bad 0x60000000 0 = some 0x3008 ∧ bad 0x5FFFFFFF 1 = some 0x3008 ∧ bad 0x60000000 (-1) = none := by decide +kernel
/-- `sfork`, `vadd`, `sjoin` stand at 0x3000. -/
def forkState : State := poke (poke firm 0x3004 4 0x00143119) 0x3008 4 0x00001810
theorem witness_CapturedBodyResult_fork : forkState.strip.live = false ∧ forkState.atLoopEnd = false ∧
    okAnd (fetchBody forkState (forkState.pc + 4) 256) (fun r => r.1.2.isJoin &&
      (firstStripBad forkState r.1.1.length forkState.pc 0 r.1.1).isNone && stripPlaceOk forkState forkState.pc r.1.1.length &&
        r.1.1.length < 256) = true := by decide +kernel
theorem witness_CapturedBodyResult_strip : stripState.inStrip = true ∧ stripState.joinAtLoopEnd = false := by
  decide +kernel
theorem witness_CapturedBodyResult_count : 65535 < ((rptState.wr 5 65536).rd 5).toNat ∧
    rptPlaceOk { rptState with level := .program } 1 = true := by decide +kernel
theorem witness_CapturedBodyResult_end :
    ({ stripState with strip.pos := mapBuild (fun _ => 1) 0 256 } : State).thread = 256 := by decide +kernel
theorem witness_CapturedBodyResult_branch :
    let s : State := { stripState with lanes.vl := 3 }
    let all : State := { s with lanes.mask := mapBuild (fun _ => 1) (2 * 262144) 3 }
    s.inStrip = true ∧ s.thread = 0 ∧ stripTest s 2 0 = false ∧ stripTest s 2 1 = true ∧ stripTest s 2 2 = false ∧
      stripTest all 2 0 = true ∧ stripTest all 2 1 = false ∧ stripTest all 2 2 = true := by decide +kernel
theorem witness_ScalarMemoryAccessResult :
    okAnd (scalarHits user .load 0x1000 8) (fun hs => hitsType hs == .normal && (firstPoison user 0x1000 (hitLocs hs)).isNone) =
      true ∧ okAnd (loadNum user 0x1000 8) (fun _ => true) = true ∧ okAnd (storeNum user 0x1000 8 7) (fun _ => true) = true ∧
    okAnd (scalarHits user .store 0x1000 8) (fun hs => hs.length == 1 && hitsType hs == .normal) = true := by
  decide +kernel
theorem witness_ScalarMemoryAccessResult_forms : LoadInto (.ld 5 6 8) true 8 5 6 8 ∧ StoreFrom (.sd 5 6 8) 8 5 6 8 :=
  ⟨.ld 5 6 8, .sd 5 6 8⟩
theorem witness_ScalarMemoryAccessResult_leaf : Walks user false 0x1000 2 0x80000 (.ok (0x1000, .normal, 0x80000)) :=
  .leaf (e := 0xFF) ⟨rfl, by decide +kernel, by decide +kernel⟩ (by unfold PteSound; decide) rfl rfl
    (by unfold LeafGrants; decide) rfl (by decide +kernel) rfl
/-- The translation fails with f. -/
def failsWith (x : Except MemFault Hit) (f : MemFault) : Bool :=
  match x with
  | .error g => g == f
  | .ok _ => false
/-- The root's entry 1 points to a table at 0x90000, whose entry 0 is a leaf at 0x20000000 without W. -/
def tables : State := poke8 user [(0x80008, 0x90001), (0x90000, 0x20000000 + 0xF3)]
theorem witness_ScalarMemoryAccessResult_pointer :
    Walks tables false 0x40000000008 2 0x80000 (.ok (0x20000008, .normal, 0x90000)) :=
  .pointer (at_ := 0x80008) (e := 0x90001) ⟨rfl, by decide +kernel, by decide +kernel⟩ (by unfold PteSound; decide)
    (by unfold PtePointer; decide) (.leaf (e := 0x200000F3) ⟨rfl, by decide +kernel, by decide +kernel⟩ (by unfold PteSound; decide)
      rfl rfl (by unfold LeafGrants; decide) rfl (by decide +kernel) rfl)
theorem witness_ScalarMemoryAccessResult_refused : Walks tables true 0x40000000008 1 0x90000 (.error .access) :=
  .refused (e := 0x200000F3) ⟨rfl, by decide +kernel, by decide +kernel⟩ (by unfold PteSound; decide) rfl
    (by unfold LeafGrants; decide)
theorem witness_ScalarMemoryAccessResult_invalid : Walks user false 0x40000000000 2 0x80000 (.error .page) :=
  .invalid (e := 0) ⟨rfl, by decide +kernel, by decide +kernel⟩ rfl
theorem witness_ScalarMemoryAccessResult_walked : tables.level ≠ .firmware ∧ tables.root = some 0x80000 ∧
    tables.cachedAt 0x40000000008 = none ∧ (0x40000000008#64).toNat < 2 ^ 54 ∧ firm.level = .firmware ∧
    firm.populated 0x1000 = true ∧ kern.root = none := by decide +kernel
theorem witness_ScalarMemoryAccessResult_traps :
    let s : State := poke8 user [(0x80008, 0x2FF), (0x80010, 0x4FF)]
    let next : Word := 0x4001FFFFFFC + BitVec.ofNat 64 4
    failsWith (translate user .load 0x0080000000000000) ⟨.page, 0x0080000000000000⟩ = true ∧ user.cachedAt 0x0080000000000000 = none ∧
    failsWith (translate user .store 0xFFFFFFFFFFFFFF00) ⟨.access, 0xFFFFFFFFFFFFFF00⟩ = true ∧
    (translate tables .load 0x4001FFFFFFC).toOption.isSome = true ∧ pageType tables 0x4001FFFFFFC = .normal ∧
    failsWith (translate tables .load next) ⟨.page, next⟩ = true ∧ pageType tables next = .normal ∧
    failsWith (translate (poke8 tables [(0x90008, 0x801)]) .load next) ⟨.access, next⟩ = true ∧
    (translate s .load 0x40000000002).toOption.map (·.type) = some .sync ∧ s.cachedAt 0x40000000002 = none ∧
    (translate s .load 0x80000000002).toOption.map (·.type) = some .control := by decide +kernel
theorem witness_ScalarMemoryAccessResult_takes : user.kernelTakes := .inl rfl
theorem witness_AtomicResult : (translate user .atomic 0x1000).toOption.map (fun h => (h.loc, h.type)) = some (0x1000, .normal) ∧
    firstPoison user 0x1000 (upto 0x1000 8) = none ∧ (0x1000#64).toNat % 8 = 0 ∧ (0x1004#64).toNat % 8 ≠ 0 := by
  decide +kernel
theorem witness_AtomicResult_form : AtomicWith (.atswp 5 6 7 2 1) (4 + 4 * (1 : BitVec 1).toNat) 2 5 6 7 (fun _ y _ => y) :=
  .atswp 5 6 7 2 1
theorem witness_ElementwiseResult : LaneInto (vec user) (.vadd 4 3 5 0) 4 0 (3 < (vec user).nr ∧ 5 < (vec user).nr)
    (fun e => (vec user).srcA 3 e + (vec user).srcB 5 e) := .vadd 4 3 5 0
theorem witness_ElementwiseResult_legal : DestLegal (vec user) 4 ∧ 3 < (vec user).nr ∧ 5 < (vec user).nr := by
  refine ⟨⟨?_, ?_⟩, ?_⟩ <;> decide
theorem witness_ElementwiseResult_pair :
    let s : State := { vec user with lanes.ewd := 24 }
    16 < s.wd ∧ signedOf s.lanes.ewd = false := by decide
/-- 07_lanes.md R194: B, the scalar and a pair D, each read as a signed number of its width. -/
theorem test_signed_operands :
    let s : State := { (vec user).wr 5 0x1F8 with
      lanes.ewb := 64 + 4, lanes.ewd := 64 + 24,
      lanes.vreg := mapSet (mapSet [] (vkey 2 0) 0x123C) (vkey 3 0) 0x00FF }
    s.srcB 2 0 = -4 ∧ s.uB 2 0 = 12 ∧ s.srcS 5 = -8 ∧ s.srcD 2 0 = 0xFF123C - 2 ^ 24 := by decide +kernel
theorem witness_SaturationAndCarryResult : LaneSatInto (vec user) (.vsat 4 3 0) 4 0 (3 < (vec user).nr)
    (fun e => (vec user).srcA 3 e) (vec user).dLo (vec user).dHi := .vsat 4 3 0
theorem witness_SaturationAndCarryResult_carry : LaneCarryInto (vec user) (.vadc 4 3 5 1) 4 1
    (3 < (vec user).nr ∧ 5 < (vec user).nr) (fun e k => (vec user).srcA 3 e + (vec user).srcB 5 e + k)
    (fun x => (2 : Int) ^ (vec user).wd ≤ x) := .vadc 4 3 5 1
theorem witness_SaturationAndCarryResult_illegal : ¬ DestLegal (vec user) 8 ∧ (vec user).level = .program := by
  refine ⟨fun h => absurd h.1 ?_, ?_⟩ <;> decide
theorem witness_VectorConfigurationResult : user.inStrip = false ∧ user.lanes.vl.toNat ≤ user.vlmax ∧
    isNext (exec (.setvl 5 6) user) = true ∧ isNext (exec (.vcfg 5 6) user) = true ∧ isNext (exec (.setw 5 6) user) = true := by
  decide +kernel
theorem witness_MaskInstructionResult : CompareInto (vec user) (.vseq 1 2 3 0) 1 0
    (2 < (vec user).nr ∧ 3 < (vec user).nr) (fun e => (vec user).srcA 2 e = (vec user).srcB 3 e) := .vseq 1 2 3 0
theorem witness_MaskInstructionResult_present :
    (nextOf (exec (.mnot 3 2) (vec user))).sched.act.map (·.masksPresent) = some 4 ∧
      (nextOf (exec (.mslide 3 2 5) user)).sched = user.sched ∧ user.window.n = 0 := by decide +kernel
theorem witness_MaskInstructionResult_logic : MaskInto (vec user) (.mnot 1 2) 1
    (fun e => (vec user).maskBit 2 e = false) := .mnot 1 2
theorem witness_MaskInstructionResult_search :
    let s : State := { vec user with lanes.mask := mapSet [] (2 * 262144 + 3) 1 }
    3 < s.lanes.vl.toNat ∧ s.maskBit 2 3 = true ∧ s.maskBit 2 2 = false := by decide +kernel
theorem witness_ReductionResult : (3#6).toNat < (vec user).nr := by decide
theorem witness_PermuteResult : DestLegal (vec user) 4 ∧ (3#6).toNat < (vec user).nr := by
  refine ⟨⟨?_, ?_⟩, ?_⟩ <;> decide
theorem witness_VectorMemoryResult :
    let s := (vec firm).wr 6 0x1000
    let p := enumerate (probe s .vload false true) (unitPlace 3 (s.rd 6) s.wd) [] (s.vmPerformed 0)
    p.fault.isNone = true ∧ p.rest = [] ∧ okAnd (checkItems s p.items) (fun _ => true) = true := by decide +kernel
theorem witness_VectorMemoryResult_load : VectorLoadForm (vec firm) (.vld 4 6 0 3) 4 0 false false
    ((vec firm).wd ≤ 16 ∨ (3 : BitVec 3) ≠ 6) (unitPlace 3 ((vec firm).rd 6) (vec firm).wd) (unitStride 3) := .vld 4 6 0 3
theorem witness_VectorMemoryResult_store :
    let s := (vec firm).wr 6 0x1000
    let l := s.vmPerformed 0
    let p := enumerate (probe s .vstore false false) (unitPlace 3 (s.rd 6) (widthOf s.lanes.ewa)) [] l
    p.fault.isNone = true ∧ p.rest = [] ∧ s.memory.poison = [] ∧
      pendingFull s (storedBytes 3 (widthOf s.lanes.ewa) l.length) = false := by decide +kernel
/-- At firmware level the elements of a store fit below the end of the address space, for every container. -/
theorem witness_VectorMemoryResult_bytes :
    let s := (vec firm).wr 6 0x1000
    s.level = .firmware ∧ s.memory.poison = [] ∧ s.memory.arrivals = [] ∧ s.vmPerformed 0 = [0, 1, 2, 3] ∧
      (∀ c ∈ [0, 3, 5, 6], pendingFull s (storedBytes c (widthOf s.lanes.ewa) 4) = false) ∧
      (∀ c ∈ [(3 : BitVec 3), 5], ∀ e ∈ s.vmPerformed 0,
        ((unitPlace c (s.rd 6) 8 e).starts.headD 0).toNat % containerBytes c = 0 ∧
          ((unitPlace c (s.rd 6) 8 e).starts.headD 0).toNat + containerBytes c ≤ 2 ^ 37) ∧
      (s.rd 6).toNat % 64 = 0 ∧ (s.rd 6).toNat + 2 ^ 19 ≤ 2 ^ 37 := by decide +kernel
theorem witness_VectorMemoryResult_sums :
    let s := (vec firm).wr 6 0x1000
    (∀ c ∈ [(3 : BitVec 3), 5], ∀ e ∈ s.vmPerformed 0,
      (s.rd 6 + BitVec.ofInt 64 (s.elemInt 3 e s.ewb * containerBytes c)).toNat % containerBytes c = 0) := by
  decide +kernel
theorem witness_VectorMemoryResult_scadd :
    let s := (vec firm).wr 6 0x1000
    let p := enumerate (probe s .atomic false false) (s.indexedPlace 5 (s.rd 6) 3) [] (s.vmPerformed 0)
    p.fault.isNone = true ∧ p.rest = [] ∧ okAnd (checkItems s p.items) (fun _ => true) = true := by decide +kernel
theorem witness_VectorMemoryFault :
    let s := (vec { user with sched.act := none }).wr 6 0x1000
    let p := enumerate (probe s .vstore false false) (unitPlace 3 (s.rd 6) (widthOf s.lanes.ewa)) [] (s.vmPerformed 0)
    p.fault.isSome = true ∧ s.level = .program ∧
      pendingFull s (storedBytes 3 (widthOf s.lanes.ewa) p.items.length) = false := by decide +kernel
theorem witness_VectorMemoryFault_load :
    let s := (vec { user with sched.act := none }).wr 6 0x1000
    let p := enumerate (probe s .vload false true) (unitPlace 3 (s.rd 6) s.wd) [] (s.vmPerformed 0)
    p.fault.isSome = true ∧ okAnd (checkItems s p.items) (fun _ => true) = true ∧ (s.vmPerformed 0).head? = some 0 := by
  decide +kernel
theorem witness_VectorMemoryFault_trimmed :
    let s := (vec user).wr 6 0xFFFFFFFFFE
    let p := enumerate (probe s .vload false true) (unitPlace 3 (s.rd 6) s.wd) [] (s.vmPerformed 0)
    p.fault.map (·.1) = some 2 ∧ okAnd (checkItems s p.items) (fun _ => true) = true := by decide +kernel
theorem witness_VectorMemoryFault_scadd :
    let s := (vec { user with sched.act := none }).wr 6 0x1000
    let p := enumerate (probe s .atomic false false) (s.indexedPlace 5 (s.rd 6) 3) [] (s.vmPerformed 0)
    p.fault.isSome = true ∧ okAnd (checkItems s p.items) (fun _ => true) = true ∧ s.level = .program := by decide +kernel
theorem witness_UnitStrideLoadReadsMemory :
    let s : State := { (vec firm).wr 6 0x1000 with lanes.ewd := 8, lanes.vl := 4 }
    s.inStrip = false ∧ signedOf s.lanes.ewd = false ∧ s.wd ≤ 16 ∧ s.lanes.vstart = 0 ∧ containerBytes 5 = 4 ∧
      (s.rd 6).toNat % containerBytes 5 = 0 ∧ (s.rd 6).toNat + containerBytes 5 * s.lanes.vl.toNat ≤ 2 ^ 37 := by
  decide +kernel
theorem witness_RoundingResult : 0x3F800000 % 2 ^ 31 < 0x7F800000 ∧ (-1 : Int) ≤ 0 ∧ (-3 : Int) < 2 ∧
    (roundGrid .rne ⟨false, 3, -1, false⟩ 0).2 = true := by decide
theorem witness_RoundingResult_float : 2 ^ 23 ≤ (⟨false, 2 ^ 23 + 1, 3, false⟩ : Exact).m ∧ (2 ^ 23 + 1 : Nat) < 2 ^ 24 ∧
    (roundGrid .rne ⟨false, 2 ^ 23 + 1, 3, false⟩ 3).1 * 2 ^ (3 + 149) ≤ 2 ^ 277 - 2 ^ 253 ∧
    2 ^ 277 - 2 ^ 253 < (roundGrid .rne ⟨false, 2 ^ 24 - 1, 105, false⟩ 105).1 * 2 ^ (105 + 149) := by decide
theorem witness_WordArithmeticResult : WordInto user (.wadd 4 2 3) 4 (fun k =>
    addNum user.frm (val32 (user.word 2 k)) (val32 (user.word 3 k))) := .wadd 4 2 3
theorem witness_WordArithmeticResult_codes : Nan32 0x7F800001 ∧ Sig32 0x7F800001 ∧ Nan32 0x7FC00000 ∧
    ¬ Sig32 0x7FC00000 ∧ Inf32 0xFF800000 ∧ Fin32 0x7F7FFFFF ∧ ¬ Nan32 0x7F800000 ∧ fixed32 0x80000000 = 0 ∧
    fixed32 1 = 1 ∧ 0 < fixed32 0x3F800000 := by
  unfold Sig32 Inf32 Fin32 Nan32
  decide
theorem witness_WordArithmeticResult_powers : fixed32 0xC3150000 = -149 * 2 ^ 149 ∧ fixed32 0x42FE0000 = 127 * 2 ^ 149 ∧
    fixed32 1 = 2 ^ ((-149 : Int) + 149).toNat ∧ fixed32 0x7F000000 = 2 ^ ((127 : Int) + 149).toNat := by decide +kernel
theorem witness_WordArithmeticResult_conversion : (2 ^ 3 ≤ 9 ∧ 9 < 2 ^ 4) ∧ valOf 5 7 = .fin false 3 1 ∧
    (5 : Nat) ∈ [5, 6, 7, 15] ∧ (0x7E : Nat) % 2 ^ 8 ≠ 255 ∧ 2 ^ 35 / 2 ^ 35 % 2 = 1 ∧ 2 ^ 35 / 2 ^ 36 % 2 = 0 := by decide
theorem witness_RowOperationResult : LeastPower 0 0 ∧ LeastPower 0 1 ∧ LeastPower 2 3 ∧ LeastPower 10 1024 ∧
    rowValid (4 + 3 * 2 ^ 11) = 3 := by
  unfold LeastPower
  decide
/-- 09_word.md R239: (1 + 2^-24) + 2^-24 is 1 in sequence, and 1 + (2^-24 + 2^-24) above 1 in the tree. -/
theorem test_sum_orders :
    let x := fun k => if k = 0 then 0x33800000 else if k = 1 then 0x33800000 else 0
    (sumOrder false .rne 0x3F800000 x 2 1).val = 0x3F800001 ∧ (rowSum false .rne 0x3F800000 [0x33800000, 0x33800000]).val =
      0x3F800001 ∧ (sumChain .rne 0x3F800000 (fun k => if k % 32 = 0 then 0x33800000 else 0) 2).val = 0x3F800000 := by
  decide +kernel
theorem witness_TwoResultWordOperations : (3 : BitVec 5) ≠ 4 ∧ (4#5).toNat % 2 = 0 := by decide
theorem witness_TwoResultWordOperations_pack : user.word 2 0 % 2 ^ 31 = 0 ∧ ¬ (Nan32 (user.word 2 0) ∨ Inf32 (user.word 2 0)) ∧
    Inf32 (({ user with lanes.wreg := mapSet [] (2 * 1024) 0x7F800000 } : State).word 2 0) := by
  unfold Inf32 Nan32
  decide +kernel
/-- 05_numbers.md R139: a block whose largest element is 2 packs to MXFP4 with the scale 2^-1, 2 as 4 and 0.5 as 1. -/
theorem test_pack_scaled :
    let s : State := { user with lanes.wreg := mapSet (mapSet [] (2 * 1024) 0x40000000) (2 * 1024 + 1) 0x3F000000 }
    let t := nextOf (exec (.wpkmx 3 2 5 4) (s.wr 5 0))
    (fixed32 0x40000000).natAbs = 2 ^ 150 ∧ val32 0x40000000 = .fin false (2 ^ 23) (-22) ∧ (2 : Nat) ^ 23 < 2 ^ 24 ∧
      t.word 4 0 = 126 ∧ t.word 3 0 = 6 ∧ t.word 3 1 = 2 ∧ t.word 3 2 = 0 := by decide +kernel
theorem witness_CornerTurnMoveResult : DestLegal (vec user) 6 := by refine ⟨?_, ?_⟩ <;> decide
theorem witness_TileMetadataResult : (user.bank 1).rows < 64 ∧ (user.bank 1).klen < 2048 ∧ (user.bank 1).w < 32 ∧
    (user.tile 2).entries.length < 1024 := by decide +kernel
theorem witness_MatrixProductResult :
    let x : Mac := ⟨0, user.bank 0, 3, 0, 0⟩
    mmacOk user x = true ∧ user.kmode = 0 ∧ user.blocks = 1 ∧ (user.tile 0).entries = [] ∧ user.ovftrap = false ∧
      user.ctl.preReq = none ∧ fld user.lanes.acst.toNat 16 5 = 0 ∧ x.bank.rows ≤ 32 ∧
      okAnd (mmacRows x 0 0 user) (fun _ => true) = true ∧ mmacOk user ⟨0, user.bank 0, 63, 0, 0⟩ = false ∧
      (3#6).toNat < user.nr ∧ b1Ok user (user.bank 0) = true := by decide +kernel
/-- Tile 0 holds FP32 elements; row 0 of bank 0 holds one element 3 of 8 bits, and v3 begins with 5. -/
def realState (kmode : Nat) : State :=
  { vec user with
    lanes.mcfg := BitVec.ofNat 8 kmode, lanes.acst := 1, lanes.grantE := 1, lanes.ewb := 8
    lanes.vreg := mapSet [] (vkey 3 0) 5
    lanes.bank0 := ⟨true, 1, 1, 1, 8, false, 0, mapSet [] 0 3, [], []⟩ }
theorem witness_MatrixProductResult_real : ∀ k ∈ [1, 2], let s := realState k
    let x : Mac := ⟨0, s.bank 0, 3, 0, 0⟩
    mmacOk s x = true ∧ s.kmode = k ∧ s.ovftrap = false ∧ s.ctl.preReq = none ∧ fld s.lanes.acst.toNat 16 5 = 0 ∧
      x.bank.rows ≤ 32 ∧ 0 < s.lanes.vl.toNat ∧ 0 < s.lanes.grantE.toNat ∧ s.dotTerm x.bank 3 0 0 0 0 0 = some (3, 5) := by
  decide +kernel
theorem witness_MatrixProductResult_promotion : Fin32 0x3F800000 ∧ Nan32 0x7FC00000 ∧ fixed16 0x3C00 = 2 ^ 24 ∧
    (0x80003C00 : Nat) / 2 ^ 31 % 2 = 1 ∧ (0x80003C00 : Nat) / 2 ^ 10 % 2 ^ 5 ≠ 31 ∧
    (promoteReal 0x40000000 0x3F800000 0x3F800000 1 (-1) 15 [⟨0x80003C00, 3, 5⟩]).val = 0x41000000 := by
  unfold Fin32 Nan32
  decide +kernel
/-- Firmware with 256 KiB of scratchpad; s6 is its first byte and s7 describes one row of one byte. -/
def padState : State := { (firm.wr 6 (BitVec.ofNat 64 windowBase)).wr 7 0x101 with ctl.spl := 1 }
theorem witness_LatchAndTileTransfers : shapeLen 0x101 = 1 ∧ shapeRows 0x101 32 = 1 ∧
    okAnd (checkGather padState [(rowAddr padState 0x101 6 0 0, 1)]) (fun _ => true) = true ∧
    gatherFormat 0 = some ⟨3, false, 128, 8, some 6⟩ ∧
    okAnd (checkGather padState [(rowAddr padState 0x101 6 0 0, 1), (rowAddr padState 0x101 6 0 0 + 128, 4)])
      (fun _ => true) = true := by decide +kernel
/-- 05_numbers.md R135: the example of one block in both alignments. -/
theorem test_aligned_rows :
    let s := poke firm 0x1000 4 0x0AB5315C
    let row (k : Nat) := (gatherFormat k).map (fun g => convertRow s g 0x1000 4)
    (row 0).map (fun r => (r.ints, r.exps, r.q)) = some ([96, 2, -3, 0], [-2, 0, 0, 0], qAl) ∧
      (row 1).map (fun r => (r.ints, r.exps, r.q)) = some ([24576, 576, -832, 20], [-10, 0, 0, 0], 0) := by decide +kernel
/-- 05_numbers.md R134: an MXINT8 row with the scale 1 and the NaN scale. -/
theorem test_mx_rows :
    let s := poke (poke firm 0x1000 4 0x05FF) 0x1080 4 0x7F7FFF7F
    (gatherFormat 5).map (fun g => let r := convertRow s g 0x1000 2; (r.ints, r.exps, r.q)) =
      some ([-1, 5], [-6, -32768, -6, -6], qMn) ∧
    valOf 15 0xFF = .fin true 1 (-6) ∧ valOf 3 0x7F = .nan false false ∧ valOf 3 0x5C = .fin false 12 1 := by decide +kernel
theorem witness_LatchAndTileTransfers_tile :
    let s := (firm.wr 6 0x4000).wr 7 1024
    (s.rd 6).toNat % 4 = 0 ∧ (s.rd 7).toNat % 4 = 0 ∧ s.memory.poison = [] ∧
      okAnd (tileHits s .vload 3 6 7) (fun _ => true) = true ∧
      okAnd (tileHits s .vstore 4 6 7) (fun hs => hs.all (fun h => h.1.leaf.isNone)) = true := by decide +kernel
theorem witness_PublicationResult : (2 : BitVec 2) ≠ 3 ∧ user.level = .program ∧ user.memory.arrivals = [] := by decide
theorem witness_PublicationResult_left :
    let s := nextOf (exec .done (nextOf (exec (.pub 0) (storeByte kern 0x1000 7))))
    s.isLeft 0x1000 = true ∧ s.isLeft 0x1001 = false ∧ s.byte 0x1000 = 7 ∧ s.pubByte 0x1000 = 0 := by decide +kernel
/-- s10 names a barrier object for one participant, s12 the round. -/
def barState : State := { poke8 (user.wr 10 0x1000) [(0x1008, 1)] with
  memory.arrivals := [⟨0x1000, 2⟩] }
/-- 11_sync.md R286: the arrival queued to a word precedes a later access to that word, and no other. -/
theorem test_arrival_before_access :
    let s : State := { user with memory.arrivals := [⟨0x1000, 0⟩] }
    (arriveBefore s [0x1004]).num 0x1000 8 = 1 ∧ (arriveBefore s [0x1004]).memory.arrivals = [] ∧
      (arriveBefore s [0x1008]).memory.arrivals.length = 1 := by decide +kernel
theorem witness_BarrierResult : (0x1000#64).toNat % 64 = 0 ∧ (0x1000#64).toNat < windowBase ∧
    (translate barState .atomic 0x1000).toOption.map (fun h => (h.loc, h.type)) = some (0x1000, .normal) ∧
    firstPoison barState 0x1000 (upto 0x1000 8) = none ∧ publicationDone barState = true := by decide +kernel
theorem witness_BarrierResult_not_due : publicationDone { barState with memory.pubPkg := 1 } = false ∧
    barState.memory.pendPkg = 0 ∧ ({ barState with memory.pendPkg := 1 } : State).memory.pendPkg ≠ 0 := by decide +kernel
theorem witness_BarrierResult_bar :
    let u := syncOrder (beginPublish (markLeaf barState leaf1 false) 2)
    (translate barState .load 0x1000).toOption.map (fun h => (h.loc, h.type)) = some (0x1000, .normal) ∧ u.num 0x1000 8 = 1 ∧
      u.num 0x1008 8 = 1 ∧ firstPoison barState 0x1000 (upto 0x1000 16) = none := by decide +kernel
theorem witness_BarrierResult_no_count :
    (syncOrder (beginPublish (markLeaf (user.wr 10 0x1000) leaf1 false) 2)).num 0x1008 8 = 0 := by
  decide +kernel
theorem witness_BarrierResult_pass :
    let s : State := { poke barState 0x3000 4 0x08AC5011 with wait := some .bar }
    okAnd (fetchWord s s.pc) (fun r => decode r.1 == some (.bar 10 12 2)) = true := by decide +kernel
theorem witness_TimelineResult : (user.rd 9).toNat ≤ (user.tc 3).toNat ∧ (user.tc 3).toNat < ((user.wr 9 1).rd 9).toNat ∧
    (let s : State := { poke user 0x3000 4 0x00C91811 with wait := some .timeline }
     okAnd (fetchWord s s.pc) (fun r => decode r.1 == some (.tlwait 3 9)) = true) := by decide +kernel
/-- s10 names a descriptor of zeros; the queues of the activation hold 16 commands each. -/
def issueState : State := poke8 (user.wr 10 0x1000) [(0x10028, 4)]
theorem witness_CommandIssueResult : CommandForm (.xcopy 9 10 0 0) 0 9 10 0 0 := .xcopy 9 10 0 0 (by decide)
theorem witness_CommandIssueResult_room : issueState.block = some 0x10000 ∧
    okAnd (readDescriptor issueState 0 (issueState.rd 10) none) (fun r => queueCap r.1 0x10000 0 == 4 &&
      r.1.num (queueHeader 0x10000 0) 8 < r.1.num (queueHeader 0x10000 0 + 8) 8 + 2 ^ 4) = true := by decide +kernel
theorem witness_CommandIssueResult_full :
    let s := poke8 issueState [(0x10000, 16)]
    okAnd (readDescriptor s 0 (s.rd 10) none) (fun r => queueCap r.1 0x10000 0 == 4 &&
      decide (r.1.num (queueHeader 0x10000 0 + 8) 8 + 2 ^ 4 ≤ r.1.num (queueHeader 0x10000 0) 8)) = true := by decide +kernel
theorem witness_CommandIssueResult_reserved :
    okAnd (readDescriptor (poke8 issueState [(0x10028, 2 ^ 63 + 4)]) 0 (issueState.rd 10) none) (fun r =>
      headerReserved r.1 (queueHeader 0x10000 0)) = true ∧
    okAnd (readDescriptor issueState 0 (issueState.rd 10) none) (fun r =>
      !headerReserved r.1 (queueHeader 0x10000 0)) = true := by decide +kernel
theorem witness_CommandIssueResult_context : 7 < (8#4).toNat ∧ (3#4).toNat < 4 ∧ (7#4).toNat < 8 ∧ 9 < (10#4).toNat ∧
    user.level = .program := by decide
/-- An accepted command of context 0. -/
def cmd0 : Command := ⟨0x10000, 0, 1, 0, 0x1000, List.replicate 8 0, none, .program, 0x80000, 0, 0, 0, 0, 0, [], none, false,
  [], 0⟩
/-- Context 0 runs the command c. -/
def engineState (c : Command) : State := { poke8 issueState [(0x10000, 1), (0x10010, 1)] with sched.commands := [c] }
/-- The command with a source that no page maps and 16 bytes to copy. -/
def cmdBad : Command := { cmd0 with words := [0, 0x0080000000000000, 0x2000, 0x1000000001, 0, 0, 0, 0] }
/-- The command with 16 bytes to copy from 0x1000 to 0x2000. -/
def cmdCopy : Command := { cmd0 with words := [0, 0x1000, 0x2000, 0x1000000001, 0, 0, 0, 0] }
theorem witness_EngineEventResult : runnable (engineState cmdCopy) 0 = some cmdCopy ∧ cmdCopy.shown = false ∧
    cmdCopy.ended = none ∧ okAnd (performUnit (engineState cmdCopy) cmdCopy) (fun _ => true) = true := by decide +kernel
theorem witness_EngineEventResult_fault : (match performUnit (engineState cmdBad) cmdBad with
    | .error (.fault _ _ _ _) => true
    | _ => false) = true := by decide +kernel
theorem witness_EngineEventResult_poison :
    let s : State := { engineState cmdCopy with memory.poison := [(0x1000 / 64, 1)] }
    runnable s 0 = some cmdCopy ∧ (match performUnit s cmdCopy with
      | .error (.poison _ _) => true
      | _ => false) = true := by decide +kernel
/-- The command has ended, its counter is shown, and its record goes to va. -/
def cmdShown (va : Word) : Command := { cmdCopy with ended := some 0, shown := true, record := some va }
theorem witness_EngineEventResult_record : (runnable (engineState (cmdShown 0x4000)) 0 = some (cmdShown 0x4000)) ∧
    okAnd ((engLocs (engineState (cmdShown 0x4000)) (cmdShown 0x4000) true 0x4000 32).run {}) (fun _ => true) = true ∧
    (match (engLocs (engineState (cmdShown 0)) (cmdShown 0x0080000000000000) true 0x0080000000000000 32).run {} with
      | .error (.fault _ _ _ _) => true
      | _ => false) = true := by decide +kernel
/-- 11_sync.md R286, R287: publication at `pkg` shows a later store to a command that was accepted before it. -/
theorem test_publication_shows_to_command :
    let c : Command := { cmdCopy with view := [(0x1000, 5)] }
    let s : State := { engineState c with memory.unpub := [(0x1000, 5)] }
    c.byteAt s 0x1000 = 5 ∧ (beginPublish s 2).sched.commands.map (·.view) = [[]] ∧
      (beginPublish s 1).sched.commands.map (·.view) = [c.view] := by decide +kernel
theorem witness_EngineEventResult_copy :
    let c : Command := { cmdCopy with level := .firmware }
    let s := poke8 (engineState c) [(0x1000, 0x1122334455667788)]
    runnable s 0 = some c ∧ c.shown = false ∧ c.ended = none ∧ s.memory.poison = [] ∧ c.fn = 0 ∧ c.block = 0x10000 ∧
      (c.words.getD 0 0).toNat / 2 % 8 = 0 ∧ 0 < (c.words.getD 3 0).toNat % 2 ^ 32 ∧
      (nextOf (exec (.engineUnit 0) s)).num 0x2000 8 = 0x1122334455667788 := by decide +kernel
/-- A firmware command whose descriptor holds the words ws, at a phase and unit of it. -/
def cmdWords (fn phase unit : Nat) (ws : List Word) : Command :=
  { cmd0 with fn := fn, phase := phase, unit := unit, words := ws, level := .firmware }
theorem witness_EngineEventResult_conv :
    let c := cmdWords 1 0 0 [0x40, 0x1000, 0x2000, 2, 0, 0, 0, 0]
    let s := poke (engineState c) 0x1000 4 0xBF803F80
    runnable s 0 = some c ∧ c.shown = false ∧ c.ended = none ∧ s.memory.poison = [] ∧ 0x40 / 2 ^ 5 % 2 ^ 11 = 2 ∧
      (nextOf (exec (.engineUnit 0) s)).num 0x2000 8 = 0xBF8000003F800000 := by decide +kernel
theorem witness_EngineEventResult_tile :
    let c := cmdWords 5 0 0 [0, 0x1000, 0x3000, 2, 0x2000, 0, 0, 0]
    let z := poke8 (engineState c) [(0x1000, 2)]
    let d := { cmdWords 5 0 1 [0, 0x1000, 0x3000, 2, 0x2000, 0, 0, 0] with aux := [8] }
    let r := poke8 (engineState d) [(0x1008, 1)]
    runnable z 0 = some c ∧ z.num 0x1000 8 = 2 ∧ runnable r 0 = some d ∧ r.num 0x1008 8 % 2 ^ 8 = 1 ∧
      r.num 0x1008 8 / 2 ^ 8 < d.unit ∧ runnable (engineState c) 0 = some c ∧ (engineState c).num 0x1000 8 = 0 ∧
      c.view = [] ∧ 0 + 8 + 4096 ≤ 0x2000 := by decide +kernel
theorem witness_EngineEventResult_fmt :
    let ws : List Word := [2 + 4, 0x3000, 2 + 4 * 2 ^ 32, 8, 0x1000, 0x1100, 0x1200, 0]
    let c := cmdWords 4 0 0 ws
    let d := cmdWords 4 1 0 ws
    let s := poke8 (engineState d) [(0x1000, 1 * 2 ^ 32), (0x1100, 3), (0x1200, 0xABCD)]
    runnable (poke8 (engineState c) [(0x3000, 5)]) 0 = some c ∧
      (nextOf (exec (.engineUnit 0) (poke8 (engineState c) [(0x3000, 5)]))).num 0x3000 8 = 0 ∧
      runnable s 0 = some d ∧ (nextOf (exec (.engineUnit 0) s)).num 0x3006 2 = 0xABCD := by decide +kernel
/-- The command with what it has passed on. -/
def cmdAux (fn phase unit : Nat) (ws : List Word) (aux : List Nat) : Command := { cmdWords fn phase unit ws with aux := aux }
/-- The state after a unit of the command, with some words of memory before it. -/
noncomputable def unitOn (c : Command) (ms : List (Nat × Nat)) : State := nextOf (exec (.engineUnit 0) (poke8 (engineState c) ms))
theorem witness_EngineEventResult_planes :
    let copy (lay pw : Nat) (ds : Word) : Command := cmdWords 0 0 0
      [BitVec.ofNat 64 (lay * 2 ^ 2 + pw * 2 ^ 6), 0x1000, 0x2000, 1 + 2 * 2 ^ 32, 2, ds, 0, 0]
    (∀ c ∈ [copy 1 0 4, copy 2 2 0, copy 3 2 2], runnable (engineState c) 0 = some c) ∧
      (unitOn (copy 1 0 4) [(0x1000, 0x0B0A)]).num 0x2000 8 = 0x0B0000000A ∧
      (unitOn (copy 3 2 2) [(0x1000, 1), (0x2000, 3)]).num 0x2000 2 = 0x0203 := by decide +kernel
/-- The words of an `xzip` of one block at 0x1000 into the buffer at 0x3000 of the given capacity, and of the `xexp` of it to 0x5000. -/
def zipWords (cap : Word) : List Word := [0, 0x1000, 0x3000, 4096, cap, 0, 0, 0]
def expWords : List Word := [0, 0x3000, 0x5000, 0, 0, 0, 0, 0]
theorem witness_EngineEventResult_zip :
    let c := cmdAux 2 1 0 (zipWords 0x1000) [72]
    let u := unitOn c [(0x1040, 5)]
    runnable (engineState c) 0 = some c ∧ u.num 0x3048 8 = 2 ∧ u.num 0x3050 8 = 5 ∧
      ((u.sched.commands.find? c.same).map (fun d => (d.phase, d.unit, d.aux))) = some (2, 0, [144, 72]) := by decide +kernel
theorem witness_EngineEventResult_zip_measure :
    ((unitOn (cmdWords 2 0 0 (zipWords 100)) [(0x1040, 5)]).sched.commands.map (fun d => (d.ended, d.count))) =
      [(some 2, 144)] ∧
    ((unitOn (cmdWords 2 0 0 (zipWords 144)) [(0x1040, 5)]).sched.commands.map (fun d => (d.phase, d.ended))) =
      [(1, none)] := by decide +kernel
theorem witness_EngineEventResult_zip_header :
    let u := unitOn (cmdAux 2 2 0 (zipWords 0x1000) [144, 72]) []
    u.num 0x3000 8 = 0x100 ∧ u.num 0x3008 8 = 144 ∧ u.num 0x3040 8 = 72 := by decide +kernel
theorem witness_EngineEventResult_exp :
    let c := cmdWords 3 0 0 expWords
    let s := poke8 (engineState c) [(0x3000, 0x100), (0x3008, 144), (0x3040, 72), (0x3048, 2), (0x3050, 5)]
    runnable s 0 = some c ∧ s.num 0x3000 8 / 2 ^ 8 = 1 ∧ s.num 0x3008 8 = 144 ∧ s.num (0x3000 + 72) 8 = 2 ∧
      okAnd ((readHeader s c 0x3000).run {}) (fun p => okAnd ((readBlock s c 0x3000 p.1 0).run {}) (fun r =>
        (r.1.take 65).getLast? == some 5 && (r.1.drop 65).all (· == 0))) = true := by decide +kernel
theorem witness_EngineEventResult_rows :
    let ws : List Word := [4, 0x1000, 1 + 3 * 2 ^ 32, 6, 0x2000, 0x2100, 0x2200, 9]
    let u := unitOn (cmdWords 4 0 0 ws) [(0x1000, 0x000B00000000000A)]
    (runnable (engineState (cmdWords 4 0 0 ws)) 0).isSome = true ∧ u.num 0x2100 8 = 0 ∧ u.num 0x2200 8 = 0x0A ∧
      u.sched.commands.map (fun d => (d.phase, d.count)) = [(1, 1)] ∧
      (unitOn { cmdAux 4 1 0 ws [0] with count := 1 } []).num 0x2000 8 = 2 ^ 32 := by decide +kernel
/-- Peer 1 is enabled on port 0, with connection 9 and the address-table entry 0, which serves the port. -/
def peered (s : State) : State :=
  { s with hub.peers := mapSet (mapSet s.hub.peers 2 (8 + 9 * 2 ^ 32)) 3 0
           hub.ports := mapSet s.hub.ports (256 + 3) 1 }
/-- An `xput` of 8 bytes from 0x1000 to address 0x7000 of peer 1. -/
def putWords : List Word := [0, 0x1000, 0x7000, 8, 1, 0, 0, 0]
theorem witness_EngineEventResult_put :
    let c := cmdWords 6 0 0 putWords
    let s := peered (poke8 (engineState c) [(0x1000, 0x1234)])
    let u := nextOf (exec (.engineUnit 0) s)
    runnable s 0 = some c ∧ peerOpen s 1 = true ∧
      u.hub.conns.map (fun k => k.pending.map (fun x => (x.1.kind, x.1.addr, leNat x.1.data))) = [[(7, 0x7000, 0x1234)]] ∧
      peerOpen (engineState c) 1 = false := by decide +kernel
/-- Connection 9, with the given packets sent and replies received. -/
def conn9 (pending : List (Packet × Nat)) (replies : List (Nat × List Byte)) : Conn :=
  ⟨9, 0, 0, 1, 0, pending, [], replies, [], false, false, 0⟩
theorem witness_EngineEventResult_answer :
    let c := cmdAux 6 0 0 putWords [1, 9, 0]
    let g := cmdAux 7 0 0 putWords [1, 9, 0]
    let on (c : Command) (k : Conn) : State := { peered (engineState c) with hub.conns := [k] }
    let sent : Packet × Nat := (⟨7, 9, 1, 0, 0x7000, []⟩, 0)
    anyConn (on c (conn9 [] [])) 9 0 = some (conn9 [] []) ∧ connOpen (on c (conn9 [sent] [])) (conn9 [sent] []) = true ∧
      (nextOf (exec (.engineUnit 0) (on c (conn9 [] [])))).sched.commands.map (·.ended) = [some 0] ∧
      nextOf (exec (.engineUnit 0) (on c (conn9 [sent] []))) = on c (conn9 [sent] []) ∧
      (nextOf (exec (.engineUnit 0) (on g (conn9 [] [(1, [7])])))).byte 0x1000 = 7 := by decide +kernel
/-- 12_engines.md R320, R322: an `xget` whose local bytes have no translation sends no GET, and forgets an answer. -/
theorem witness_EngineEventResult_get_fault :
    let ws : List Word := [0, 0x0080000000000000, 0x7000, 8, 1, 0, 0, 0]
    let on (aux : List Nat) (k : Conn) : State :=
      nextOf (exec (.engineUnit 0) { peered (engineState (cmdAux 7 0 0 ws aux)) with hub.conns := [k] })
    let t := on [1, 9, 0] (conn9 [] [(1, [7])])
    t.sched.commands.map (·.aux) = [[]] ∧ t.hub.conns.map (·.replies) = [[]] ∧ t.ctl.engPend.length = 1 ∧
      (on [] (conn9 [] [])).hub.conns = [conn9 [] []] := by decide +kernel
theorem witness_EngineEventResult_complete :
    let c : Command := { cmd0 with ended := some 0 }
    runnable (engineState c) 0 = some c ∧ c.shown = false ∧ c.record = none := by decide +kernel
theorem witness_EngineEventResult_complete_record :
    let c : Command := { cmd0 with ended := some 2, level := .firmware, record := some 0x4000 }
    runnable (engineState c) 0 = some c ∧ c.ended.isSome = true ∧ (0x4000#64).toNat % 32 = 0 ∧
      (0x4000#64).toNat + 32 ≤ queueHeader 0x10000 0 := by decide +kernel
theorem witness_EngineEventResult_take : ({ user with commit := some .plain } : State).engineBoundary = true := by
  decide +kernel
theorem witness_EngineEventResult_poison_first :
    let s : State := { user with commit := some .plain, ctl.engPend := [⟨0, 0x1000, 0, false, false⟩, ⟨1, 0, 1, false, true⟩] }
    s.engineBoundary = true ∧ (nextFault s.ctl.engPend).map (·.ctx) = some 1 := by decide +kernel
theorem witness_EngineEventResult_restart :
    (∀ c ∈ [3, 7], let s : State := { poke8 (engineState cmdBad) [(0x10010, c)] with
        level := .kernel, ctl.ecause := 10, sched.party := some ⟨0, 0x10000⟩ }
      s.block = some 0x10000 ∧ s.atLoopEnd = false ∧ s.actParty = s.sched.party ∧ queueState s 0x10000 0 = 3 ∧
        oldest s 0x10000 0 = some cmdBad ∧ queueAbort s 0x10000 0 = (c == 7)) := by decide +kernel
theorem witness_EngineEventResult_interrupt :
    let s : State := { user with commit := some .plain, ctl.uvec := 0x4001, ctl.ustat := 1 }
    s.atBoundary = true ∧ mmacInProgress s = false ∧ s.ctl.uvec.getLsbD 0 = true ∧ s.inHandler = false ∧
      s.ctl.ustat.toNat % 2 ^ 11 ≠ 0 ∧ s.frame.live = false ∧ s.strip.live = false ∧ s.ctl.preReq = none := by decide +kernel
theorem witness_EngineEventResult_uret :
    let s : State := { user with ctl.ustat := 0x10000 }
    s.level = .program ∧ s.inHandler = true ∧ s.atLoopEnd = false := by decide +kernel
/-- Queue 0 is bound to the address space 0 with 64 entries and priorities up to 7; s24 names a record, s25 the queue. -/
def workState : State :=
  let s := poke8 (((user.wr 24 0x1000).wr 25 0).wr 26 0x40000) [(0x1000, 0x3000), (0x1008, 5), (0x1010, 6), (0x1018, 2)]
  { s with sched.qdesc := mapSet [] 2 0x1E6 }
theorem witness_WorkInstructionResult_spawn :
    let u := markLeaf workState leaf1 false
    outsideHandler workState = true ∧ (workState.rd 24).toNat % 32 = 0 ∧
      (translate workState .load (workState.rd 24)).toOption.map (fun h => (h.loc, h.type)) = some (0x1000, .normal) ∧
      firstPoison workState (workState.rd 24) (upto 0x1000 32) = none ∧ u.num 0x1018 8 / 2 ^ 6 % 2 ^ 49 = 0 ∧
      recordBad workState (u.num 0x1018 8) (u.num 0x1000 8) (selectQueue 0) = false ∧
      queueFull workState (selectQueue 0) = false := by decide +kernel
theorem witness_WorkInstructionResult_spawn_parent :
    let s := poke8 workState [(0x1018, 0x2002)]
    let u := markLeaf s leaf1 false
    u.num 0x1018 8 / 2 ^ 6 % 2 ^ 49 ≠ 0 ∧ okAnd (objectHit u .atomic 4 (parentBlock (u.num 0x1018 8))) (fun _ => true) = true ∧
      recordBad s (u.num 0x1018 8) (u.num 0x1000 8) (selectQueue 0) = false := by decide +kernel
theorem witness_WorkInstructionResult_spawn_held :
    let s := poke8 workState [(0x1000, 0x3000), (0x1018, 2 ^ 55 + 0x2002), (0x2000, 1)]
    let u := markLeaf s leaf1 false
    let tag := u.num 0x1018 8
    okAnd (objectHit u .atomic 4 (parentBlock tag)) (fun q =>
        !countDone ((syncOrder (markLeaf u q true)).num q.loc 8) && countDone ((syncOrder (markLeaf workState q true)).num
          q.loc 8)) = true ∧ tag / 2 ^ 55 % 4 = 1 ∧ recordBad s tag (u.num 0x1000 8) (selectQueue 0) = false ∧
      queueFull s (selectQueue 0) = false := by decide +kernel
/-- The record of workState, waiting in queue 0. -/
def waiting0 : Nat × QEntry := (0, .record ⟨0x3000, 5, 6, 2⟩ none)
theorem witness_WorkInstructionResult_spawn_full :
    let s : State := { workState with sched.queues := List.replicate 64 waiting0 }
    recordBad s 2 0x3000 (selectQueue 0) = false ∧ queueFull s (selectQueue 0) = true := by decide +kernel
theorem witness_WorkInstructionResult_join : okAnd (joinChecks workState 0x2000 0x40000) (fun c =>
      (firstPoison workState 0x2000 (upto c.1.loc 64)).isNone && countDone ((syncOrder (markLeaf workState c.1 true)).num
        c.1.loc 8)) = true := by decide +kernel
theorem witness_WorkInstructionResult_park :
    let s := poke8 workState [(0x2000, 1)]
    okAnd (joinChecks s 0x2000 0x40000) (fun c =>
      let u := syncOrder (markLeaf s c.1 true)
      !countDone (u.num c.1.loc 8) && u.num (c.1.loc + 8) 8 % 2 == 0) = true ∧ s.sched.act = some act0 := by decide +kernel
/-- A join at the block at `b`, whose count is 1, with the save area at 0x40000. -/
def joinState (b : Nat) : State :=
  { ((poke8 workState [(b, 1)]).wr 10 (BitVec.ofNat 64 b)).wr 11 0x40000 with sched.act := some { act0 with block := none } }
/-- Where the block of that join and its save area lie. -/
def joinPlaces (b : Nat) : Hit × ImagePages :=
  match joinChecks (joinState b) (BitVec.ofNat 64 b) 0x40000 with
  | .ok c => c
  | .error _ => (leaf1, [])
/-- The join has read its block. -/
def joinReads (b : Nat) : State := syncOrder (markLeaf (joinState b) (joinPlaces b).1 true)
/-- The state in which that join saves the activation. -/
def joinSaves (b : Nat) : State :=
  (joinPlaces b).2.foldl (fun s p => markLeaf s p.2 true) (stopContexts (publishAll (joinReads b)))
theorem joinSaves_facts (b : Nat) (h : b = 0x2000 ∨ b = 0x40040) :
    (okAnd (joinChecks (joinState b) (BitVec.ofNat 64 b) 0x40000) (fun c => c.1.loc == b) = true ∧
      resumePc (joinState b) = 0x3004 ∧ unitInFlight (joinState b) = false ∧ countDone ((joinReads b).num b 8) = false) ∧
    (joinPlaces b).2.map (fun p => (p.1, p.2.loc)) = [(4, 0x40000)] ∧ (savedParts (joinSaves b)).tail = [] ∧
    (imageHead (joinSaves b) 0x40000 0x3004).length ≤ 65536 ∧ (joinSaves b).memory.arrivals = [] := by
  rcases h with rfl | rfl <;> decide +kernel
theorem joinSaves_places (b : Nat) (h : b = 0x2000 ∨ b = 0x40040) (k : Nat)
    (hk : k < (imageHead (joinSaves b) 0x40000 0x3004).length) : imageLoc (joinPlaces b).2 0x40000 k = 0x40000 + k := by
  obtain ⟨-, hp, -, hl, -⟩ := joinSaves_facts b h
  obtain ⟨p, hp, h1, h2⟩ : ∃ p, (joinPlaces b).2 = [p] ∧ p.1 = 4 ∧ p.2.loc = 0x40000 := by
    match hq : (joinPlaces b).2 with
    | [] => simp [hq] at hp
    | [p] => exact ⟨p, rfl, by simpa [hq] using hp⟩
    | _ :: _ :: _ => simp [hq] at hp
  have ha : ((0x40000 : Word) + w64 k).toNat = 0x40000 + k := by simp [w64]; omega
  have h3 : (0x40000 + k) / 65536 = 4 := by omega
  simp only [imageLoc, hp, ha, h3, List.lookup, h1, beq_self_eq_true, Option.map_some, Option.getD_some, h2]
  omega
/-- 13_work.md R355: the count as the join reads it again after the save. The save area that covers the block holds s0 at its offset
0x40, which is zero; one that lies apart leaves the count. -/
theorem witness_WorkInstructionResult_saved :
    countDone ((publishAll (saveImage (joinReads 0x2000) 0x40000 0x3004 (joinPlaces 0x2000).2)).num 0x2000 8) = false ∧
    countDone ((publishAll (saveImage (joinReads 0x40040) 0x40000 0x3004 (joinPlaces 0x40040).2)).num 0x40040 8) = true := by
  constructor
  · obtain ⟨-, -, ht, -, hq⟩ := joinSaves_facts 0x2000 (.inl rfl)
    have h := (byte_saveImage (c := 0x40000) rfl ht rfl (joinSaves_places 0x2000 (.inl rfl)) hq).2
    have hn : leNat ((upto 0x2000 8).map (joinSaves 0x2000).byte) = 1 := by decide +kernel
    generalize publishAll (saveImage (joinReads 0x2000) 0x40000 0x3004 (joinPlaces 0x2000).2) = v at h ⊢
    rw [num_of_bytes fun a _ ha => h a (by omega)]
    exact hn ▸ by decide
  · obtain ⟨-, -, ht, -, hq⟩ := joinSaves_facts 0x40040 (.inr rfl)
    have h := (byte_saveImage (c := 0x40000) rfl ht rfl (joinSaves_places 0x40040 (.inr rfl)) hq).1
    have hz : ∀ k ∈ upto 0x40 8, (imageHead (joinSaves 0x40040) 0x40000 0x3004)[k]? = some 0 := by decide +kernel
    generalize publishAll (saveImage (joinReads 0x40040) 0x40000 0x3004 (joinPlaces 0x40040).2) = v at h ⊢
    rw [num_of_bytes (f := fun _ => 0) fun a hl ha => by
      rw [show a = 0x40000 + (a - 0x40000) by omega]
      exact h _ 0 (hz _ (by rw [mem_upto]; omega))]
    decide
theorem witness_WorkInstructionResult_reserved : okAnd (objectHit workState .atomic 4 0x2000) (fun h =>
    !blockReserved workState h.loc && blockReserved (poke8 workState [(0x2008, 2 ^ 11)]) h.loc) = true := by decide +kernel
theorem witness_WorkInstructionResult_yield :
    let s : State := { workState with sched.queues := [waiting0] }
    s.ctl.preReq = none ∧ s.mode ≠ .idle ∧ queueFull s 0 = false ∧ (dieHead s (fun p => decide (0 ≤ p))).isSome = true ∧
      okAnd (checkSave s (s.rd 26)) (fun _ => true) = true ∧ act0.record.tag.toNat % 8 = 0 := by decide +kernel
theorem witness_WorkInstructionResult_done : workState.atLoopEnd = false ∧ enginesDone workState = true ∧
    enginesDone (engineState cmd0) = false ∧ act0.record.tag.toNat / 2 ^ 6 % 2 ^ 49 = 0 ∧ kern.level ≠ .program ∧
    kern.atLoopEnd = false := by decide +kernel
theorem witness_WorkInstructionResult_done_parent :
    let s : State := { workState with sched.act := some { act0 with record := ⟨0x3000, 0, 0, 0x2000⟩ } }
    okAnd (objectHit s .atomic 4 (parentBlock 0x2000)) (fun h =>
      (firstPoison s (parentBlock 0x2000) (upto h.loc 64)).isNone &&
        (decrement (markLeaf (publishAll s) h true) h.loc).isSome) = true := by decide +kernel
theorem witness_WorkInstructionResult_done_waits :
    let s : State := { poke8 workState [(0x2000, 1), (0x2008, 1)] with
      sched.act := some { act0 with record := ⟨0x3000, 0, 0, 0x2000⟩ }, sched.queues := List.replicate 64 waiting0 }
    okAnd (objectHit s .atomic 4 (parentBlock 0x2000)) (fun h =>
      (decrement (markLeaf (publishAll s) h true) h.loc).isNone) = true := by decide +kernel
theorem witness_WorkInstructionResult_done_kernel :
    let s : State := storeByte kern 0x1000 7
    s.level ≠ .program ∧ (s.memory.unpub.map (·.1)).Nodup ∧ s.memory.unpub ≠ [] := by decide +kernel
theorem witness_WorkInstructionResult_spawn_poison :
    let s : State := { poke8 workState [(0x1018, 0x2002)] with memory.poison := [(0x2000 / 64, 1)] }
    let u := markLeaf s leaf1 false
    firstPoison s (s.rd 24) (upto 0x1000 32) = none ∧ u.num 0x1018 8 / 2 ^ 6 % 2 ^ 49 ≠ 0 ∧
      okAnd (objectHit u .atomic 4 (parentBlock (u.num 0x1018 8))) (fun q =>
        firstPoison u (parentBlock (u.num 0x1018 8)) (upto q.loc 64) == some (0x2000, 1)) = true := by decide +kernel
theorem witness_WorkInstructionResult_spawn_reserved :
    let s := poke8 workState [(0x1018, 0x2002), (0x2008, 2 ^ 11)]
    let u := markLeaf s leaf1 false
    okAnd (objectHit u .atomic 4 (parentBlock (u.num 0x1018 8))) (fun q => blockReserved u q.loc &&
      (firstPoison u (parentBlock (u.num 0x1018 8)) (upto q.loc 64)).isNone) = true := by decide +kernel
/-- The last child of the block at 0x2000, whose parked record has a reserved bit set. -/
theorem witness_WorkInstructionResult_done_rejects :
    let s : State := { poke8 workState [(0x2000, 1), (0x2008, 1), (0x2038, 2 ^ 3)] with
      sched.act := some { act0 with record := ⟨0x3000, 0, 0, 0x2000⟩ } }
    let v := publishAll s
    enginesDone s = true ∧ v.num 0x2000 8 = 1 ∧ v.num 0x2008 8 % 2 = 1 ∧ v.num 0x2038 8 / 2 ^ 3 % 8 ≠ 0 ∧
      blockReserved v 0x2000 = false ∧ okAnd (objectHit s .atomic 4 (parentBlock 0x2000)) (fun h => h.loc == 0x2000 &&
        (firstPoison s (parentBlock 0x2000) (upto h.loc 64)).isNone) = true := by decide +kernel
/-- The kernel ends an activation that has a store of its own, and the activation comes back. -/
theorem witness_WorkInstructionResult_party :
    let s := storeByte { kern with sched.act := some act0, sched.party := some ⟨0, 0x10000⟩ } 0x1000 7
    let t := nextOf (exec .done s)
    let v : State := { t with sched.act := some act0 }
    s.sched.party = some ⟨0, 0x10000⟩ ∧ s.sched.away = [] ∧ s.memory.own ≠ [] ∧ t.byte 0x1000 = 0 ∧ v.actParty = some ⟨0, 0x10000⟩ ∧
      (enterParty v).byte 0x1000 = 7 := by decide +kernel
theorem witness_SchedulingResult_widf : (5#5).toNat ≤ 5 := by decide
/-- s24 names a launch header: one field of one bit, queue 0 of die 0. -/
def launchState : State :=
  let s := poke8 (user.wr 24 0x1000) [(0x1000, 0x3000), (0x1010, 1 + 2 ^ 48), (0x1018, 1), (0x1020, 2 ^ 32)]
  { s with sched.qdesc := mapSet [] 2 0x1E6 }
theorem witness_SchedulingResult_launch : outsideHandler launchState = true ∧
    okAnd (loadDescriptor launchState (launchState.rd 24)) (fun r =>
      let hw := r.2.map (·.toNat)
      headerOk hw && hw.getD 4 0 / 2 ^ 42 % 8 == 0 && r.2.getD 6 0 == 0 &&
        (targetQueues hw).all (fun dq => queueBound launchState dq && !queueFull launchState dq)) = true := by decide +kernel
theorem witness_SchedulingResult_launch_timeline :
    let s := poke8 launchState [(0x1020, 2 ^ 32 + 2 ^ 42)]
    okAnd (loadDescriptor s (s.rd 24)) (fun r =>
      let hw := r.2.map (·.toNat)
      headerOk hw && hw.getD 4 0 / 2 ^ 42 % 8 == 1) = true ∧ s.block = some 0x10000 := by decide +kernel
/-- An idle core with a record waiting and free activation blocks at 0x20000. -/
def idleState : State :=
  { workState with mode := .idle, sched.act := none, sched.queues := [waiting0], ctl.acbase := 0x20000 }
theorem witness_SchedulingResult_take : idleState.sched.coreUnit = none ∧ chooseQueue idleState = some (0, 2) ∧
    (queueEntries idleState 0).head? = some (.record ⟨0x3000, 5, 6, 2⟩ none) ∧ (2 : Nat) / 2 ^ 55 % 4 = 0 ∧
    blockBusy idleState (nextBlock idleState) = false := by decide +kernel
/-- A launch without items on work timeline 0 of the block at 0x10000. -/
def launch0 : Launch :=
  { id := 0, words := [0x3000, 0, 0x1000000000001, 0, 0x10100000000, 0, 0, 0], queues := [0], next := 0, finished := 0
    timeline := some (0x10000, 0, 7), level := .program, asid := 0, root := 0x80000, groups := [], shown := false, written := false }
theorem witness_SchedulingResult_completion :
    let s : State := { user with sched.launches := [launch0] }
    readyLaunch s = some launch0 ∧ launch0.shown = false ∧ launch0.w 6 = 0 ∧ s.sched.retired = [] := by decide +kernel
/-- Two items of a launch at the head of queue 0; `scope` is the code of level 1. -/
def itemLaunch (scope : Word) : Launch :=
  { launch0 with words := [0x3000, 7, 0x1000000000001, 1, 0x20000 + scope, 0, 0, 0] }
/-- An idle core with that launch. -/
def itemState (scope : Word) : State :=
  { idleState with sched.launches := [itemLaunch scope], sched.queues := [(0, .launch 0)] }
theorem witness_SchedulingResult_launch_head : (itemState 0).sched.coreUnit = none ∧ chooseQueue (itemState 0) = some (0, 2) ∧
    (queueEntries (itemState 0) 0).head? = some (.launch 0) ∧
    (itemState 0).sched.launches.find? (fun x => x.id == 0) = some (itemLaunch 0) ∧
    blockBusy (itemState 0) (nextBlock (itemState 0)) = false := by decide +kernel
theorem witness_SchedulingResult_launch_head_scopes : (nextOf (exec .takeRecord (itemState 0))).pc = 0x3000 ∧
    (nextOf (exec .takeRecord (itemState 1))).sched.coreUnit = some ⟨0, 1, 2, 2⟩ ∧
    (nextOf (exec .takeRecord (itemState 2))).sched.launches.map (·.groups) = [[(0, 0)]] := by decide +kernel
theorem witness_SchedulingResult_launch_head_codes : (0x20001 : Nat) / 2 ^ 0 % 4 = 1 ∧ (0x20002 : Nat) / 2 ^ 0 % 4 = 2 ∧
    (∀ k ∈ [2, 3, 4, 5, 6], (0x20002 : Nat) / 2 ^ (2 * (k - 1)) % 4 = 0) ∧ ¬ (0 = 1 ∨ (0 : Nat) = 2) := by decide
/-- An idle core with a tile task at the head of queue 0, whose descriptor stands at 0x1000. -/
def idleTile (w : Nat) : State :=
  let s := poke8 idleState [(0x1000, w)]
  { s with sched.queues := [(0, .record ⟨0x1000, 5, 6, 2 ^ 55 + 2⟩ none)], sched.qdesc := mapSet s.sched.qdesc 1 0x80000 }
theorem witness_SchedulingResult_tile : chooseQueue (idleTile 0x08080808) = some (0, 2) ∧
    blockBusy (idleTile 0x08080808) (nextBlock (idleTile 0x08080808)) = false ∧
    (nextOf (exec .takeRecord (idleTile 0x08080808))).level = .program ∧
    (nextOf (exec .takeRecord (idleTile 0x08080803))).level = .kernel := by decide +kernel
/-- The task at a line of its sequence, its descriptor at 0x1000. -/
def atLine (line : Nat) : State :=
  let s := poke8 (user.wr 9 0) [(0x1000, 0x08080800), (0x1008, windowBase), (0x1010, 0x101)]
  { s with pc := 0x1000, sched.act := some { act0 with isMacro := true, macroStep := line, macroG := 4 } }
theorem witness_SchedulingResult_line_quiet : Quiet (atLine 0) := by
  constructor <;> decide +kernel
theorem witness_SchedulingResult_line : ∀ line ∈ [0, 2, 3, 4, 8, 10, 12],
    (atLine line).frame.live = false ∧ (atLine line).strip.live = false ∧ (atLine line).level = .program ∧
    okAnd (loadDescriptor (atLine line) 0x1000) (fun r => r.2.getD 0 0 == 0x08080800) = true := by decide +kernel
theorem witness_SchedulingResult_descriptor : TileDescriptorOk [0x08080800] ∧ ¬ TileDescriptorOk [0x08080803] := by
  unfold TileDescriptorOk; decide
theorem witness_SchedulingResult_line_runs : ∀ x ∈ [(2, 3), (5, 6), (6, 7), (7, 8)],
    (fun s : State => (s.level, s.wait.isSome, s.sched.act.map (·.macroStep))) (nextOf (step (atLine x.1))) =
      (.program, false, some x.2) := by decide +kernel
theorem witness_SchedulingResult_line_trap :
    (fun s : State => (s.level, s.sched.act.map (·.macroStep))) (nextOf (step (poke8 (atLine 9) [(0x1030, 2)]))) =
      (.kernel, some 9) := by decide +kernel
theorem witness_SchedulingResult_urgent :
    urgentQueue { workState with sched.queues := [waiting0] } = some (0, 0) := by decide +kernel
theorem witness_SchedulingResult_parked :
    let u : CoreUnit := ⟨3, 2, 4, 2⟩
    let s : State := { user with mode := .idle, sched.act := none, sched.coreUnit := some u
                                 sched.saved := [⟨0, 0x40000, some 1, some 3, false, 0, true⟩] }
    s.sched.queues = [] ∧ s.sched.saved.any (fun y => y.parked && y.unit == some u.launch) = true ∧
      isNext (exec .takeRecord s) = true := by decide +kernel
/-- s20 names a slot descriptor for four elements of 8 bits, with contexts at 0x2000 and the skip map at 0x4000. -/
def slotState : State :=
  poke8 (user.wr 20 0x1000) [(0x1000, 0x1800), (0x1008, 0x2000), (0x1010, 0x4000), (0x1018, 4 + 3 * 2 ^ 32 + 7 * 2 ^ 36)]
/-- The slot that it declares, with the range lo to hi. -/
def slot4 (lo hi : BitVec 32) : Slot := ⟨true, 0x1800, 0x2000, 0x4000, 4 + 3 * 2 ^ 32 + 7 * 2 ^ 36, lo, hi, 0, 0⟩
/-- A sweep of slot 0 with four elements a chunk over the body at 0x2000, chunk not held. -/
def sweepEntry : LoopEntry := ⟨.sweep, 0x2000, 0xFFFFFFFFFFFFFFFC, 4 * 2 ^ 24, 0, false⟩
theorem witness_SweepSlotResult : sweeping slotState 0 = false ∧
    okAnd (loadDescriptor slotState (slotState.rd 20)) (fun r => slotOk (r.2.map (·.toNat))) = true ∧
    (slot4 0 4).valid = true ∧ (1 : Nat) ≤ 4 ∧ 4 ≤ (slot4 0 4).count ∧ (slot4 0 4).count < 5 ∧ user.lanes.slot0.valid = false ∧
    sweepEntry.kind = .sweep ∧ sweepEntry.ts = 0 ∧ sweepEntry.ld = false := by decide +kernel
/-- `sweep` stands at 0x3000 and `snext` follows, with slot 0 declared over the range. -/
def sweepState (lo hi : BitVec 32) : State :=
  { poke slotState 0x3004 4 0x08000014 with lanes.vl := 4, lanes.slot0 := slot4 lo hi }
theorem witness_SweepResult :
    let s := sweepState 0 0
    (0#6).toNat < s.nr ∧ (s.slot 0).valid = true ∧ s.loops = [] ∧ s.inStrip = false ∧ s.inFrame = false ∧
      s.atLoopEnd = false ∧ 8 % (s.slot 0).nw = 0 ∧ 1 ≤ s.lanes.vl.toNat ∧ s.lanes.vl.toNat ≤ 1024 ∧
      okAnd (findWord s (s.pc + 4) 0x08000014 1024 0) (fun r => r.1.isAt 0) = true ∧
      (s.slot 0).hi.toNat ≤ (s.slot 0).lo.toNat := by decide +kernel
theorem witness_SweepResult_snext :
    let s : State := { sweepState 0 4 with loops := [sweepEntry], pc := 0x2000 }
    s.atLoopEnd = false ∧ s.pc = sweepEntry.start + BitVec.ofNat 64 (4 * sweepEntry.d) ∧ s.lanes.vl.toNat = sweepEntry.c ∧
      sweepEntry.vE < s.nr ∧ okAnd (closeChunk s sweepEntry) (fun _ => true) = true := by decide +kernel
theorem witness_SweepResult_snext_fails :
    let s : State := { sweepState 0 4 with loops := [sweepEntry], pc := 0x2000, sched.act := none }
    sweepEntry.ld = false ∧ sweepEntry.index.toNat < (s.slot sweepEntry.ts).hi.toNat ∧ s.level = .program ∧
      (match seekChunk s sweepEntry 0 (min sweepEntry.c 4) with
       | .fail _ _ => true
       | _ => false) = true ∧ cursorFault (sweepState 0 4) sweepEntry = none := by decide +kernel
theorem witness_SweepResult_snext_resumed :
    let e : LoopEntry := { sweepEntry with failed := true }
    let s : State := { sweepState 0 4 with loops := [e], pc := 0x2000, sched.act := none }
    e.failed = true ∧ e.ld = false ∧ (match seekChunk s e 0 (min e.c 4) with
      | .fail _ _ => true
      | _ => false) = true := by decide +kernel
theorem witness_SweepResult_swait : (sweepEntry.at true 0).ld = true ∧ (sweepEntry.at true 0).ts = 0 := by decide +kernel
theorem witness_SweepResult_wake :
    let s := sweepState 0 4
    (s.slot 0).valid = true ∧ (3 : Nat) < (s.slot 0).count ∧ (s.slot 0).count ≤ 4 ∧
      okAnd (checkRanges s (wakeRanges (s.slot 0) [3])) (fun _ => true) = true ∧ (3#6).toNat < s.nr := by decide +kernel
theorem witness_SweepResult_ranges :
    let s := sweepState 0 4
    let far : Range := ⟨.load, 0x0080000000000000, 4, false⟩
    let near : Range := ⟨.load, 0x1000, 4, false⟩
    let p : State := { s with memory.poison := [(0x1000 / 64, 1)] }
    (rangeFault p far).isSome = true ∧ (rangePoison p near).isSome = true ∧ rangeFault p near = none ∧
      (match checkRanges p [near, far] with
       | .error (.trap f) => f.eaddr == 0x0080000000000000
       | _ => false) = true := by decide +kernel
theorem witness_SweepResult_classes :
    (0x100 : Nat) / 2 ^ 8 % 16 = 1 ∧ (0x3200 : Nat) / 2 ^ 8 % 16 = 2 ∧ (0x3200 : Nat) / 2 ^ 12 ≠ 0 ∧
      counterWait 2 [0x300, 5] = some 5 ∧ counterWait 1 [0x300] = none ∧ 4 ≤ (0x400 : Nat) / 2 ^ 8 % 16 ∧
      (0xFFFFFFFF : Nat) < 2 ^ 32 := by decide
/-- Firmware with four elements of 8 bits that are written back, one element asleep. -/
def chunkState : State :=
  { poke8 firm [(0x1800, 0xF1E2D3C4), (0x4000, 0x0B)] with
    lanes.vl := 4, lanes.slot0 := { slot4 0 4 with shape := (slot4 0 4).shape + 2 ^ 44 } }
theorem witness_SweepResult_take :
    let s := chunkState
    let x := s.slot 0
    s.level = .firmware ∧ (x.elemAddr 3).toNat + 1 ≤ 2 ^ 37 ∧ (x.awakeAddr 0).toNat + 8 ≤ 2 ^ 37 ∧
      (loadElem s x 2).1 = 0xE2 ∧ (takeBits s x 0 4 [0]).1 = [0, 1, 3] := by decide +kernel
theorem witness_SweepResult_put :
    let s := chunkState
    let x := s.slot 0
    x.welem = true ∧ x.bits = 8 ∧ (slot4 0 4).welem = false ∧ (x.ctxAddr 1).toNat + 4 * x.nw ≤ 2 ^ 37 ∧
      (x.elemAddr 1).toNat + 1 ≤ (x.ctxAddr 1).toNat ∧ (putElem x s ⟨1, .run, [7], 0x1FF⟩).num 0x1800 4 = 0xF1E2FFC4 ∧
      (putElem x s ⟨1, .heldAfter, [7], 0⟩).num 0x2004 4 = 7 := by decide +kernel
theorem witness_SweepResult_load :
    let s := chunkState
    let t := loadChunk s sweepEntry 0 [⟨.run, [5], false⟩, ⟨.heldAfter, [6], false⟩]
    sweepEntry.c = 4 ∧ (s.slot sweepEntry.ts).nw = 1 ∧ t.maskBit 6 0 = true ∧ t.maskBit 6 1 = false ∧ t.word 0 1 = 6 := by
  decide +kernel
theorem witness_SweepResult_awake : (∃ b, b < 64 ∧ 64 * 0 + b ∈ [2]) ∧ ¬ (∃ b, b < 64 ∧ 64 * 0 + b ∈ [70]) ∧
    (setAwake chunkState (chunkState.slot 0) [2] 0).num 0x4000 8 = 0xF :=
  ⟨⟨2, by decide⟩, by simp, by decide +kernel⟩
/-- The chunk of `chunkState` when its summary bit is set: it is held, and put back. -/
theorem witness_SweepResult_hold :
    let s := poke8 chunkState [(0x4008, 1)]
    let x := s.slot 0
    let u := (summarySet s x 0 4).2
    let t : State := { loadChunk (take u 0 0 4).2 sweepEntry 0 (take u 0 0 4).1 with loops := [] }
    let e := sweepEntry.at true 0
    lowestRange s (summaryRanges x 0 4) = none ∧ (summarySet s x 0 4).1 = true ∧ lowestRange u (takeRanges x 0 4) = none ∧
      (take u 0 0 4).1.map (fun y => y.cls) = [.run, .run, .none, .run] ∧ (x.ctxAddr 3).toNat + 4 * x.nw ≤ 2 ^ 37 ∧
      e.ld = true ∧ okAnd (checkRanges t (putRanges x 0 4 (heldPuts t e 4))) (fun _ => true) = true ∧
      okAnd (closeChunk t e) (fun r => r.1.num 0x4000 1 == 0xB && r.1.num 0x1800 4 == 0xF1E2D3C4) = true := by decide +kernel
/-- The summary bit of the group is set with its awake bits and cleared without; a wake sets both. -/
theorem witness_SweepResult_summary :
    let s := chunkState
    let x := s.slot 0
    let z := poke8 chunkState [(0x4000, 0), (0x4008, 3)]
    s.memory.arrivals = [] ∧ 128 * 0 < x.count ∧ x.skip = 0x4000 ∧ (x.count + 63) / 64 = 1 ∧ (x.count + 8191) / 8192 = 1 ∧
      (putSummary s x [2] 0).num 0x4008 8 = 1 ∧ (putSummary z x [] 0).num 0x4008 8 = 2 ∧ (putSummary s x [] 0).num 0x4008 8 = 0 ∧
      (wakeAll s x [2]).num 0x4000 8 = 0xF ∧ (wakeAll s x [2]).num 0x4008 8 = 1 ∧
      ((addBad s 0 (2 ^ 20)).slot 0).bad.toNat = 2 ^ 20 - 1 := by decide +kernel
/-- Elements of 4 bits that are written back. -/
theorem witness_SweepResult_put_bits :
    let x : Slot := { slot4 0 4 with shape := 4 + 2 * 2 ^ 32 + 3 * 2 ^ 36 + 2 ^ 44 }
    x.bits = 4 ∧ x.welem = true ∧ (x.elemAddr 1).toNat + 1 ≤ (x.ctxAddr 1).toNat ∧
      (putElem x chunkState ⟨1, .run, [7], 0xA⟩).num 0x1800 1 = 0xA4 := by decide +kernel
/-- s12 names a work-list of four slots at 0x2000, without a bitmap; `used` entries and word 6 as given. -/
def listState (bitmap used w6 : Nat) : State := poke8 (user.wr 12 0x1000)
  [(0x1000, 0x2000), (0x1010, 4), (0x1020, used), (0x1028, bitmap), (0x1030, w6)]
/-- The work-list is read, is valid, and can take one entry. -/
def listOk (s : State) (p : WorkList → State → Bool) : Bool :=
  okAnd (readList s (s.rd 12)) (fun r => r.1.ok && okAnd (checkList r.2 r.1 (pushSlots r.1 1)) (fun _ => true) && p r.1 r.2)
theorem witness_WorkListResult : listOk (listState 0 0 0) (fun l _ => decide (l.len < l.slots) && l.w 5 == 0) = true ∧
    listOk (listState 0 4 0) (fun l _ => l.len == l.slots && !bitOf (l.w 6) 48) = true ∧
    listOk (listState 0 4 (2 ^ 48)) (fun l _ => l.len == l.slots && bitOf (l.w 6) 48) = true := by decide +kernel
theorem witness_WorkListResult_slot : listOk (listState 0 0 0) (fun l u =>
    okAnd (translate (publishAll u) .store (l.slotAddr (l.w 4))) (fun h =>
      (upto h.loc 4).all (fun k => !(upto (l.loc + 32) 8).contains k))) = true := by decide +kernel
theorem witness_WorkListResult_order :
    okAnd (readList (listState 0 0 0) 0x1000) (fun r => (pushSlots r.1 1).length == 1 &&
      (pushSlots r.1 1).all (fun x => (listFault r.2 x).isNone)) = true ∧
    okAnd (readList (listState 0 5 0) 0x1000) (fun r => !r.1.ok) = true ∧
    okAnd (readList (poke8 (listState 0 0 0) [(0x1000, 0x0080000000000000)]) 0x1000) (fun r =>
      (pushSlots r.1 1).any (fun x => (listFault r.2 x).isSome)) = true := by decide +kernel
theorem witness_WorkListResult_bitmap :
    listOk (listState 0x4000 0 0) (fun l _ => l.w 5 != 0 && decide (l.nbits ≤ 3)) = true ∧
    listOk (listState 0x4000 0 64) (fun l u => l.w 5 != 0 && decide (3 < l.nbits) &&
      okAnd (checkList u l (pushSlots l 1 ++ [⟨.atomic, l.bitAddr 3, 8, true⟩])) (fun _ => true) &&
      !bitOf (readAt u (l.bitAddr 3) 8).1 3 && okAnd (pushStep u l [3]) (fun p => p.1 == .pushed 0)) = true ∧
    listOk (listState 0x4000 4 64) (fun l u => !bitOf (readAt u (l.bitAddr 3) 8).1 3 &&
      okAnd (pushStep u l [3]) (fun p => p.1 == .dropped)) = true ∧
    listOk (poke (listState 0x4000 0 64) 0x4000 1 8) (fun l u => bitOf (readAt u (l.bitAddr 3) 8).1 3) = true := by
  decide +kernel
theorem witness_WorkListResult_pop : listOk (listState 0 2 0) (fun l u =>
      okAnd (checkList u l ((upto (l.w 3) 2).map (fun p => ⟨.load, l.slotAddr p, 4, true⟩))) (fun _ => true)) = true ∧
    user.inStrip = false := by decide +kernel
theorem witness_WorkListResult_pop_legal : LanesLegal (listState 0 2 0) ∧ DestLegal (listState 0 2 0) 4 := by
  refine ⟨⟨?_, ⟨?_, ?_, ?_⟩, fun h => absurd h ?_⟩, ⟨?_, ?_⟩⟩ <;> decide +kernel
theorem witness_WorkListResult_append :
    let s := { listState 0 0 0 with lanes.vl := 2 }
    (List.range s.lanes.vl.toNat).filter (fun i => s.maskBit 0 i) = [0, 1] ∧
      listOk s (fun l u => okAnd (checkList u l (pushSlots l 2)) (fun _ => true) &&
        okAnd (pushStep u l [5, 6]) (fun p => p.1 == .pushed 0)) = true ∧
      listOk { listState 0 3 0 with lanes.vl := 2 } (fun l u =>
        okAnd (pushStep u l [5, 6]) (fun p => p.1 == .dropped)) = true := by decide +kernel
/-- s20 names a sequence of no entries whose cache is not valid. -/
def kvState : State := user.wr 20 0x1000
theorem witness_BarchanInstructionResult : BarchanForm kvState (.kvalloc 9 20 10) .kvalloc 1 9 (kvState.rd 20) (kvState.rd 10) :=
  .kvalloc 9 20 10
theorem witness_BarchanInstructionResult_room : (kvState.rd 20).toNat % 64 = 0 ∧ (kvState.rd 10).toNat % 1 = 0 ∧
    kvState.kv.barOps.length < 1024 ∧ kvState.kv.barOps = [] ∧ kvState.kv.barResults = [] ∧ (0x1020#64).toNat % 64 ≠ 0 := by
  decide +kernel
theorem witness_BarchanInstructionResult_status :
    let u := nextOf (exec (.kvalloc 9 20 10) kvState)
    (match (kvPerform ((u.kv.barOps).headD (nextOp kvState .kvalloc 0 0 1))).result u with
      | .error (.status r) => r == -3
      | _ => false) = true := by decide +kernel
theorem witness_BarchanInstructionResult_full :
    1024 ≤ (List.replicate 1024 (nextOp kvState .kvalloc 0 0 1)).length := by decide +kernel
theorem witness_BarchanInstructionResult_append : (kvState.rd 21).toNat % 32 = 0 ∧
    okAnd (objectHit kvState .store 4 (kvState.rd 20)) (fun _ => true) = true := by decide +kernel
/-- An empty sequence at 0x1000; its cache at 0x4000 has one unit, in the state z, of a group at the given address. -/
def seqState (pool z : Nat) : State := poke8 kvState [(0x1000, 0x4000), (0x1008, 0x2000), (0x1010, 4), (0x4000, 1), (0x4008, 0x5000),
  (0x4010, 0x6000), (0x4030, 1), (0x4038, 0x7000), (0x5000, pool), (0x7000, z)]
/-- What an operation on the sequence gives. -/
def kvTried (s : State) (op : KvOp) : Except KvHalt (Int × State) := (kvPerform (nextOp s op 0x1000 0 1)).result s
theorem witness_BarchanInstructionResult_ok :
    let u := nextOf (exec (.kvreject 9 20) (seqState 0x400000 0))
    (match (kvPerform ((u.kv.barOps).headD (nextOp u .kvalloc 0 0 1))).result u with
      | .ok (r, v) => r == 0 && v.wait == u.wait && v.kv.barResults == []
      | _ => false) = true := by decide +kernel
theorem witness_BarchanInstructionResult_halts :
    (match kvTried (poke8 kvState [(0x1000, 0x0080000000000000)]) .kvreject with
      | .error .failed => true
      | _ => false) = true ∧
    (match kvTried (seqState 0 3) .kvreject with
      | .error .pager => true
      | _ => false) = true := by decide +kernel
/-- A copy-on-write of a sequence whose cache is not valid ends with ecode 3 or 4 in the sequence. -/
theorem witness_BarchanInstructionResult_step :
    (match kvTried kvState .cow with
      | .error h => h != .pager && okAnd ((stepError (nextOp kvState .cow 0x1000 0 1) 3).result kvState) (fun x =>
          x.2.num 0x1030 1 == 3)
      | _ => false) = true := by decide +kernel
/-- Firmware structures of an empty sequence at 0x1000 over a cache at 0x4000 with two free ids and one group at 2^36; the oldest
operation is an allocation in the given mode, for id 1 where the mode asks for one. -/
def allocState (mode bcap free : Nat) : State :=
  let s := poke8 firm [(0x1000, 0x4000), (0x1008, 0x2000), (0x1010, bcap), (0x4000, 2), (0x4008, 0x5000), (0x4010, 0x6000),
    (0x4018, free * 2 ^ 32), (0x4030, 1), (0x5000, 2 ^ 36), (0x6000, 2 ^ 32), (0x6008, 1)]
  { s with kv.barOps := [⟨1, .kvalloc, 0x1000, BitVec.ofNat 64 (mode + 2 ^ 32), .firmware, none, [], [], 0⟩], kv.barIssued := 1 }
/-- What the allocation gives, and the first table entry, nb and nt, and the two block words after it. -/
def allocated (mode bcap free : Nat) : List Nat :=
  let x := nextOf (exec .barchanOperation (allocState mode bcap free))
  x.kv.barResults.map (fun r => (r.2 + 4).toNat) ++ [x.num 0x2000 4, x.num 0x1014 4, x.num 0x101C 4, x.num 0x6000 8, x.num 0x6008 8]
theorem witness_BarchanInstructionResult_alloc :
    allocated 0 4 2 = [4, 0, 1, 0, 2 ^ 32 + 1, 1] ∧ allocated 1 4 2 = [4, 0, 1, 1, 2 ^ 57 + 2 ^ 32 + 1, 1] ∧
    allocated 2 4 2 = [5, 1, 1, 0, 2 ^ 32, 2] := by decide +kernel
theorem witness_BarchanInstructionResult_alloc_status :
    allocated 3 4 2 = [1, 0, 0, 0, 2 ^ 32, 1] ∧ allocated 0 0 2 = [2, 0, 0, 0, 2 ^ 32, 1] ∧
    allocated 0 4 0 = [3, 0, 0, 0, 2 ^ 32, 1] := by decide +kernel
theorem witness_BarchanInstructionResult_alloc_valid : let s := allocState 0 4 2
    Sequence.ok ⟨0x1000, (upto 0 8).map (fun k => s.num (0x1000 + 8 * k) 8)⟩ = true ∧
    Cache.ok ⟨0x1000, (upto 0 16).map (fun k => s.num (0x4000 + 8 * k) 8), []⟩ = true ∧
    s.memory.poison = [] ∧ s.num 0x5000 8 = 2 ^ 36 ∧ s.num 0x5008 8 ≤ 4 ∧
    Sequence.ok ⟨0x1000, [0, 0, 2 ^ 32, 0, 0, 0, 0, 0]⟩ = false := by decide +kernel
/-- Firmware structures with the given counts: a sequence at 0x1000, its table at 0x2000, a cache of four ids at 0x4000 with block words
at 0x6000, nodes at 0x8000, keys at 0xA000, and one group at 2^36; `more` adds 8-byte words. -/
def barBase (nb lc nt ec head nfree nfh : Nat) (more : List (Nat × Nat)) : State :=
  poke8 firm ([(0x1000, 0x4000), (0x1008, 0x2000), (0x1010, 4 + nb * 2 ^ 32), (0x1018, lc + nt * 2 ^ 32), (0x1030, ec),
    (0x4000, 4), (0x4008, 0x5000), (0x4010, 0x6000), (0x4018, head + nfree * 2 ^ 32), (0x4020, 0x8000), (0x4028, 0xA000),
    (0x4030, 4 + nfh * 2 ^ 32), (0x4038, 0x7000), (0x5000, 2 ^ 36)] ++ more)
/-- The state with one Barchan operation. -/
def withBarOp (s : State) (o : BarOp) : State := { s with kv.barOps := [o] }
theorem withBarOp_oldest (s : State) (o : BarOp) (h : s.memory.poison = []) (h1 : o.level = .firmware ∧ o.root = none)
    (h2 : o.view = [] ∧ o.behind = 0) : KvOldest (withBarOp s o) o := ⟨rfl, h1, h2.1, h2.2, h⟩
theorem withBarOp_sequence {s : State} {sq : Nat} (o : BarOp) (h : KvSequenceAt s sq) : KvSequenceAt (withBarOp s o) sq :=
  ⟨h.place, h.valid, ⟨h.cache.place, h.cache.valid, h.cache.table, h.cache.groups⟩, h.apart⟩
theorem withBarOp_table {s : State} {sq n : Nat} (o : BarOp) (h : KvTableAt s sq n) : KvTableAt (withBarOp s o) sq n :=
  ⟨h.table, h.blocks⟩
theorem withBarOp_pools {s : State} {ca : Nat} {rs} (o : BarOp) (h : KvPoolsAt s ca rs) : KvPoolsAt (withBarOp s o) ca rs :=
  ⟨h.pools, h.resident⟩
/-- Two entries, for the blocks 1 with two references and 2, tentative; ids 0 and 3 are free. An argument block and a keep list
stand at 0x3000. -/
def barTwo (ec : Nat) (more : List (Nat × Nat)) : State := barBase 2 10 1 ec 0 1 0
  ([(0x2000, 1 + 2 * 2 ^ 32), (0x6008, 2), (0x6010, 1 + 2 ^ 57), (0x6000, 3 * 2 ^ 32)] ++ more)
theorem witness_BarchanInstructionResult_two (o : BarOp) (h1 : o.level = .firmware ∧ o.root = none)
    (h2 : o.view = [] ∧ o.behind = 0) : let s := withBarOp (barTwo 0 []) o
    KvOldest s o ∧ KvSequenceAt s 0x1000 ∧ KvTableAt s 0x1000 2 ∧ KvPoolsAt s 0x4000 [(0x4000, 128), (0x6000, 8)] := by
  refine ⟨withBarOp_oldest _ _ (by decide +kernel) h1 h2,
    withBarOp_sequence o ⟨by decide +kernel, by decide +kernel, ⟨by decide +kernel, by decide +kernel, by decide +kernel,
      by decide +kernel⟩, by decide +kernel⟩,
    withBarOp_table o ⟨by decide +kernel, ?_⟩, withBarOp_pools o ⟨by decide +kernel, by decide +kernel⟩⟩
  intro j hj
  rcases j with _ | _ | j
  · decide +kernel
  · decide +kernel
  · omega
/-- Nodes of 64 bytes: word 0 and the hash, parent and child, sibling and children, stamp. -/
def nodeWords (i bid hash parent child sib nchild stamp : Nat) : List (Nat × Nat) :=
  [(0x8000 + 64 * i, bid + 2 ^ 24 + hash * 2 ^ 32), (0x8008 + 64 * i, parent + child * 2 ^ 32),
    (0x8010 + 64 * i, sib + nchild * 2 ^ 32), (0x8018 + 64 * i, stamp)]
/-- The hash of 64 zero tokens is 0, so that the key of zeros at node 1 matches a list of zeros at 0x3000. -/
def barTree (nb lc nfh child : Nat) (more : List (Nat × Nat)) : State := barBase nb lc 0 0 0 1 nfh
  (nodeWords 0 0 0 0xFFFFFFFF child 0xFFFFFFFF 0 0 ++ [(0x2000, 1), (0x6008, 1), (0x3000, 64)] ++ more)
/-- The tree with one matching child. -/
def treeOne : State := barTree 0 0 2 1 (nodeWords 1 1 0 0 0xFFFFFFFF 0xFFFFFFFF 0 0)
theorem treeNode_zero : ∀ i < 2, ∀ j < 32, treeOne.byte (0x8000 + 64 * i + (32 + j)) = 0 := by decide +kernel
theorem treeNode_place : treeOne.kvWord 0x4000 4 = 0x8000 ∧ treeOne.kvWord 0x4000 5 = 0xA000 ∧
    ∀ i < 2, treeOne.num (0x8000 + 64 * i) 4 / 2 ^ 25 = 0 := by decide +kernel
theorem treeNode (i : Nat) (h : i < 2) : KvNodeAt treeOne 0x4000 i := by
  refine ⟨?_, ?_, ?_, fun k h1 h2 => ?_⟩
  · rw [treeNode_place.1]; show _ ≤ _; omega
  · rw [treeNode_place.2.1]; show _ ≤ _; omega
  · rw [treeNode_place.1]; exact treeNode_place.2.2 i h
  · obtain ⟨j, rfl⟩ : ∃ j, k = 32 + j := ⟨k - 32, by omega⟩
    rw [treeNode_place.1]
    exact treeNode_zero i h j (by omega)
theorem withBarOp_node {s : State} {ca i : Nat} (o : BarOp) (h : KvNodeAt s ca i) : KvNodeAt (withBarOp s o) ca i :=
  ⟨h.node, h.key, h.sound⟩
theorem withBarOp_matches {s : State} {ca i a : Nat} (o : BarOp) (h : s.kvMatches ca i a) : (withBarOp s o).kvMatches ca i a := h
theorem treeMatch : treeOne.kvMatches 0x4000 1 0x3004 := ⟨by decide +kernel, by decide +kernel⟩
theorem witness_BarchanInstructionResult_tree (o : BarOp) (h1 : o.level = .firmware ∧ o.root = none)
    (h2 : o.view = [] ∧ o.behind = 0) :
    let s := withBarOp treeOne o
    KvOldest s o ∧ KvSequenceAt s 0x1000 ∧ KvNodeAt s 0x4000 0 ∧ KvNodeAt s 0x4000 1 ∧ s.kvMatches 0x4000 1 0x3004 := by
  refine ⟨withBarOp_oldest _ _ (by decide +kernel) h1 h2,
    withBarOp_sequence o ⟨by decide +kernel, by decide +kernel, ⟨by decide +kernel, by decide +kernel, by decide +kernel,
      by decide +kernel⟩, by decide +kernel⟩, withBarOp_node o (treeNode 0 (by decide)),
    withBarOp_node o (treeNode 1 (by decide)), withBarOp_matches o treeMatch⟩
/-- What the oldest operation gives: the results, and some 8-byte words after it. -/
def barGives (s : State) (op : KvOp) (a b : Nat) (args : List Nat) (at_ : List Nat) : List Int × List Nat :=
  let x := nextOf (exec .barchanOperation (withBarOp s ⟨7, op, BitVec.ofNat 64 a, BitVec.ofNat 64 b, .firmware, none, args, [], 0⟩))
  (x.kv.barResults.map (fun r => r.2.toInt), at_.map (fun k => x.num k 8))
theorem witness_BarchanInstructionResult_counts :
    barGives (barTwo 0 []) .kvreject 0x1000 0 [] [0x1010, 0x1018, 0x4018, 0x6008, 0x6010] =
      ([1], [4 + 2 ^ 32, 10, 2 + 2 * 2 ^ 32, 2, 0]) ∧
    barGives (barTwo 5 []) .pfxrel 0x1000 0 [] [0x1010, 0x1018, 0x1030, 0x4018, 0x6008, 0x6010] =
      ([1], [4, 0, 0, 2 + 2 * 2 ^ 32, 1, 0]) ∧
    barGives (barTwo 0 []) .kvcommit 0x1000 60 [] [0x1010, 0x1018, 0x6008, 0x6010] = ([70], [4 + 2 * 2 ^ 32, 70, 2, 1]) ∧
    barGives (barTwo 0 []) .kvcommit 0x1000 120 [] [] = ([-3], []) ∧
    barGives (barTwo 1 []) .kvcommit 0x1000 1 [] [] = ([-5], []) := by decide +kernel
theorem witness_BarchanInstructionResult_written :
    barGives (barTwo 0 [(0xC000, 0x1122), (0xD000, 0x3344)]) .append 0x1000 0x3000 [0, 60, 0xC000, 0xD000]
      [2 ^ 36 + 2 * 16384 + 6 * 128, 2 ^ 36 + 2 * 16384 + 8192 + 6 * 128] = ([], [0x1122, 0x3344]) ∧
    barGives (barTwo 0 []) .append 0x1000 0x3000 [0, 200, 0xC000, 0xD000] [0x1030, 0x1038] = ([], [1, 7]) ∧
    barGives (barTwo 0 []) .append 0x1000 0x3000 [0, 0, 0xC000, 0xD000] [0x1030, 0x1038] = ([], [4, 7]) ∧
    barGives (barTwo 0 [(0x3000, 1)]) .cow 0x1000 0x3000 [] [0x1030, 0x1038] = ([], [3, 7]) ∧
    barGives (barTwo 0 [(0x3000, 200 * 65536)]) .cow 0x1000 0x3000 [] [0x1030, 0x1038] = ([], [1, 7]) ∧
    barGives (barBase 2 80 0 0 0 1 0 [(0x2000, 1 + 2 * 2 ^ 32), (0x6008, 2), (0x6010, 1), (0x6000, 3 * 2 ^ 32),
      (0x3000, 1 + 3 * 2 ^ 32), (2 ^ 36 + 16384 + 3 * 128, 77)]) .kvcompact 0x1000 0x3000 []
      [0x1010, 0x1018, 0x2000, 0x4018, 0x6000, 0x6008, 2 ^ 36] =
      ([1], [4 + 2 ^ 32, 1, 2 * 2 ^ 32, 2 + 2 ^ 32, 3 * 2 ^ 32 + 1, 1, 77]) := by decide +kernel
theorem witness_BarchanInstructionResult_nodes :
    barGives treeOne .pfxmatch 0x1000 0x3000 []
      [0x1010, 0x1018, 0x2000, 0x6008, 0x8058] = ([1], [4 + 2 ^ 32, 64, 1, 2, 7]) ∧
    barGives (barTree 1 64 2 0xFFFFFFFF []) .pfxins 0x1000 0x3000 [] [0x4030, 0x6008, 0x8008, 0x8010, 0x8080, 0x8098] =
      ([1], [4, 2, 0xFFFFFFFF + 2 * 2 ^ 32, 0xFFFFFFFF + 2 ^ 32, 1 + 2 ^ 24, 7]) ∧
    barGives (barTree 1 64 0xFFFFFFFF 0xFFFFFFFF []) .pfxins 0x1000 0x3000 [] [] = ([2 ^ 32], []) ∧
    barGives (barTree 0 0 2 1 (nodeWords 1 1 0 0 0xFFFFFFFF 3 0 0 ++ [(0x8010, 0xFFFFFFFF + 2 ^ 32)])) .pfxrel 0x4000 1 []
      [0x4018, 0x4030, 0x6008, 0x8008, 0x8010, 0x8040, 0x8050] =
      ([1], [1 + 2 * 2 ^ 32, 4 + 2 ^ 32, 0, 0xFFFFFFFF + 3 * 2 ^ 32, 0xFFFFFFFF, 1, 2]) := by decide +kernel
theorem witness_BarchanInstructionResult_operation :
    let o := nextOp kvState .kvreject 0x1000 0 1
    ({ kvState with kv.barOps := [o] } : State).kv.barOps = o :: [] ∧ (o.op ≠ .cow ∧ o.op ≠ .append) := by decide +kernel
theorem witness_BarchanInstructionResult_result :
    let s : State := { kvState with wait := some (.result 4 9), kv.barResults := [(4, 7)] }
    s.kv.barResults.find? (fun x => x.1 == 4) = some (4, 7) ∧ s.kv.barResults.find? (fun x => x.1 == 5) = none ∧
      (nextOf (exec .barchanResult s)).rd 9 = 7 := by decide +kernel
theorem witness_KvAccessResult : okAnd (kvAddress kvState (kvState.rd 20) 0) (fun _ => true) = true ∧
    okAnd (objectHit kvState .load 3 (kvState.rd 20)) (fun _ => true) = true ∧
    okAnd (objectSync kvState (kvState.rd 20 + 24) 4) (fun _ => true) = true ∧ kvState.inStrip = false := by decide +kernel
/-- The sequence holds one block, with the cache at 0x4000, its groups at 0x5000 and the score table at 0x2000; the last
word of the group and word 6 of the sequence are given. -/
def kvOne (z w6 : Nat) : State := poke8 kvState
  [(0x1000, 0x4000), (0x1008, 0x2000), (0x1010, 2 ^ 32 + 1), (0x1020, 0x2000), (0x1028, 4), (0x1030, w6), (0x4008, 0x5000),
    (0x5008, z)]
theorem witness_KvAccessResult_xlat :
    (∀ z ∈ [0, 4, 5], let s := kvOne z 0
      okAnd (objectHit s .load 3 (s.rd 20)) (fun _ => okAnd (objectSync s (s.rd 20 + 20) 4) (fun nb => nb.1 == 1 &&
        okAnd (objectWords nb.2 (s.rd 20) 64) (fun sq => !(Sequence.mk (s.rd 20) sq.1).reserved &&
          okAnd (objectSync sq.2 (BitVec.ofNat 64 (sq.1.getD 1 0)) 4) (fun b =>
            okAnd (objectWords (syncOrder b.2) (BitVec.ofNat 64 (sq.1.getD 0 0)) 128) (fun cd =>
              !({ va := BitVec.ofNat 64 (sq.1.getD 0 0), words := cd.1 } : Cache).reserved &&
                okAnd (objectWords cd.2 (BitVec.ofNat 64 (cd.1.getD 1 0)) 16) (fun e => e.1.getD 1 0 == z)))))) = true) ∧
    okAnd (objectSync kvState (kvState.rd 20 + 20) 4) (fun nb => nb.1 == 0) = true ∧
    ((kvState.wr 20 0x1004).rd 20).toNat % 64 ≠ 0 := by decide +kernel
theorem witness_KvAccessResult_reserved :
    okAnd (objectWords (kvOne 0 256) 0x1000 64) (fun sq => (Sequence.mk 0x1000 sq.1).reserved) = true ∧
    okAnd (objectWords (poke8 (kvOne 0 0) [(0x4070, 1)]) 0x4000 128) (fun cd =>
      ({ va := 0x4000, words := cd.1 } : Cache).reserved) = true := by decide +kernel
theorem witness_KvAccessResult_misaligned :
    let s := poke8 (kvOne 0 256) [(0x1020, 0x2002)]
    okAnd (objectWords s 0x1000 64 4) (fun r => r.1.getD 4 0 % 4 != 0 && (Sequence.mk 0x1000 r.1).reserved) = true ∧
      (nextOf (exec (.kvscore 5 20 6) s)).ctl.ecause = 6 ∧ (nextOf (exec (.kvscore 5 20 6) s)).ctl.eaddr = 0x2002 := by
  decide +kernel
theorem witness_KvAccessResult_run : okAnd (objectSync (kvOne 0 0) ((kvOne 0 0).rd 20 + 24) 4) (fun lc =>
    okAnd (objectWords lc.2 0x1000 64) (fun sq => !(Sequence.mk 0x1000 sq.1).reserved)) = true := by decide +kernel
theorem witness_KvAccessResult_score :
    okAnd (objectWords (kvOne 0 0) 0x1000 64) (fun r => !(Sequence.mk 0x1000 r.1).reserved && r.1.getD 4 0 == 0x2000 &&
      r.1.getD 5 0 == 4 && r.2.memory.poison == [] && okAnd ((upto 0 4).mapM (fun k => objectHit r.2 .atomic 4
        (BitVec.ofNat 64 (0x2000 + 4 * k)))) (fun _ => true)) = true ∧
    okAnd (objectWords kvState 0x1000 64) (fun r => r.1.getD 4 0 == 0) = true := by decide +kernel
/-- A clock on the cache at 0x1000 of the activation. -/
def clock1 : Clock := ⟨0x1000, .program, some 0x80000, 0⟩
/-- The cache at 0x1000 has fewer free frames than its low mark; its unit has the mode of z, and its clock runs. -/
def clockState (z : Nat) : State := { poke8 kvState [(0x1000, 1), (0x1030, 1), (0x1040, 2 ^ 32), (0x1008, 0x5000),
  (0x1010, 0x6000), (0x1038, 0x7000), (0x5000, 0x400000), (0x7000, z)] with
  kv.clocks := [clock1] }
theorem witness_KvAccessResult_clock : clockDue kvState clock1 = false ∧ clockDue (clockState 0) clock1 = true ∧
    (clockState 0).kv.clocks = [clock1] ∧ (clockState 0).kv.barOps = [] ∧ kvState.kv.clocks = [] ∧
    (nextOf (exec .clockStep { kvState with kv.clocks := [clock1] })).kv.clocks = [] := by decide +kernel
/-- The step of the clock on the unit, once its cache and groups are read. -/
def clockTry (s : State) (p : Except KvHalt ((Bool × Bool) × State) → Bool) : Bool :=
  let op := clockOp s clock1 (s.kv.barIssued + 1)
  match (openCache op 0x1000 ((readDue (clockOp s clock1 0) 0x1000).attempt (clockOp s clock1 0) s)).run [] with
  | (.ok (k, u), l) => match (readGroups op k u).run l with
    | (.ok (_, v), m) => p ((clockUnit op k v).run m).1
    | _ => false
  | _ => false
theorem witness_KvAccessResult_clock_step : clockTry (clockState 0) (fun r => okAnd r (fun x => !x.1.1)) = true := by
  decide +kernel
theorem witness_KvAccessResult_clock_fails : clockDue (clockState 8) clock1 = true ∧ clockTry (clockState 8) (fun r => match r with
    | .error e => e != .pager
    | _ => false) = true := by decide +kernel
theorem witness_TrapEntryResult : decode 0 = none ∧ user.level = .program ∧ kern.level = .kernel ∧
    kern.ctl.estatus.getLsbD 2 = false ∧ user.atLoopEnd = false := by decide +kernel
theorem witness_TrapEntryResult_kernelTakes : user.kernelTakes ∧ kern.kernelTakes := ⟨.inl rfl, .inr ⟨rfl, rfl⟩⟩
theorem witness_TrapEntryResult_double :
    let s : State := { kern with ctl.estatus := 4 }
    s.level = .kernel ∧ s.ctl.estatus.getLsbD 2 = true ∧ s.ctl.kstat.toNat / 2 ^ 48 < 2 ^ 16 - 1 ∧
      firm.level = .firmware ∧ firm.ctl.fstat.getLsbD 2 = false ∧
      ({ firm with ctl.fstat := 4 } : State).ctl.fstat.getLsbD 2 = true := by decide +kernel
theorem witness_SystemInstructionResult : kern.atLoopEnd = false ∧ kern.level = .kernel ∧ firm.atLoopEnd = false ∧
    firm.level = .firmware ∧ kern.level ≠ .program ∧ (1 : Word) ≠ kern.kv.tlbIssued ∧ user.inHandler = false ∧
    ({ user with ctl.ustat := 0x10000 } : State).inHandler = true := by decide +kernel
theorem witness_SystemInstructionResult_contexts : kern.block = none ∧ Level.ofCode (kern.ctl.estatus.toNat % 4) = .program ∧
    (let s := nextOf (exec (.tlbinv 9 10 11) kern)
     s.kv.tc15 ≠ s.kv.tlbIssued ∧ s.kv.tlbPending = [(0, 0)]) := by decide +kernel
theorem witness_SystemInstructionResult_party :
    let s : State := { kern with sched.party := some ⟨0, 0x10000⟩, ctl.estatus := 4 }
    s.block = none ∧ s.sched.party ≠ none ∧ Level.ofCode (s.ctl.estatus.toNat % 4) = .program ∧
      (nextOf (exec .tret s)).sched.party = none := by decide +kernel
theorem witness_ContextImageResult : okAnd (checkSave (firm.wr 10 0x40000) 0x40000) (fun _ => true) = true ∧
    (0x40000#64).toNat % 4096 = 0 ∧ kern.level ≠ .program := by decide +kernel
theorem witness_ContextImageResult_image :
    let s := firm.wr 10 0x40000
    s.loops.length ≤ 6 ∧ (s.tile 0).entries.length ≤ 1023 ∧ savedParts s = [(0, 0xC00)] ∧
      okAnd (checkSave s 0x40000) (fun ps => imageLoc ps 0x40000 0 == 0x40000 && imageLoc ps 0x40000 0xBFF == 0x40BFF) = true := by
  decide +kernel
/-- An image at 0x40000 of an activation with nothing present. -/
def imageState : State := poke8 firm [(0x40018, 2 ^ 56), (0x40020, 0x3000), (0x40028, 256 * 2 ^ 16)]
theorem witness_ContextImageResult_load :
    okAnd (readImageAt imageState (translate imageState) 0x40000) (fun r =>
      r.any (fun x => okAnd (checkImage x) (fun _ => true))) = true := by decide +kernel
/-- 13_work.md R363: the save of `join` waits for the unit in flight, and a forced request is taken there. -/
theorem witness_WorkInstructionResult_park_waits :
    let s : State := { poke8 (engineState (cmdAux 6 0 0 putWords [1, 9, 0])) [(0x2000, 1)] with
      sched.act := some { act0 with block := some 0x10000 } }
    let t := nextOf (exec (.join 10 11) ((s.wr 10 0x2000).wr 11 0x40000))
    unitInFlight s = true ∧ t.wait = some .park ∧ t.atBoundary = true := by decide +kernel
/-- A unit of `xput` is in flight when the image is to be saved or loaded. -/
theorem witness_ContextImageResult_wait :
    let s : State := { poke8 (engineState (cmdAux 6 0 0 putWords [1, 9, 0])) [(0x40018, 2 ^ 56), (0x40020, 0x3000),
      (0x40028, 256 * 2 ^ 16)] with level := .firmware }.wr 10 0x40000
    unitInFlight s = true ∧ okAnd (checkSave s 0x40000) (fun _ => true) = true ∧
      okAnd (readImageAt s (translate s) 0x40000) (fun r => r.any (fun x => okAnd (checkImage x) (fun _ => true))) = true ∧
      (nextOf (exec (.ctxload 10) s)).wait = some .save := by decide +kernel
/-- The image holds a frame. -/
theorem witness_ContextImageResult_frame :
    let t := nextOf (exec (.ctxload 10) ((poke8 imageState [(0x40308, 2 ^ 63 + 4 * 2 ^ 16 + 1)]).wr 10 0x40000))
    t.frame.live = true ∧ t.frame.level = .program ∧ t.level = .firmware ∧ t.block = some 0 ∧ t.sched.party = none := by decide +kernel
theorem witness_ContextImageResult_invalid :
    okAnd (readImageAt { user with level := .kernel } (translate { user with level := .kernel }) 0x40000) (fun r => r.isNone) = true ∧
      kern.ctl.estatus.getLsbD 2 = false := by decide +kernel
theorem witness_ContextImageResult_poisoned :
    let s : State := { poke8 user [(0x40018, 2 ^ 56), (0x40020, 0x3000), (0x40028, 256 * 2 ^ 16)] with
      level := .kernel, memory.poison := [(0x40000 / 64, 1)] }
    okAnd (readImageAt s (translate s) 0x40000) (fun r => r.any (fun x => x.poisoned == some (0x40000, 1))) = true ∧
      s.ctl.estatus.getLsbD 2 = false ∧ (0x40004#64).toNat % 4096 ≠ 0 := by decide +kernel
theorem witness_AsynchronousCauseResult :
    let s : State := { user with commit := some .boundary, ctl.tcmp := 0, ctl.preReq := some 0, ctl.stepArmed := true }
    s.ctl.tcmp.toNat ≤ s.ctl.cycle.toNat ∧ s.atBoundary = true ∧ s.level = .program ∧ s.mode = .running ∧
      s.ctl.preReq.isSome = true ∧ s.requestForced = false ∧ s.commit = some .boundary ∧ s.inStrip = false ∧
      s.ctl.stepArmed = true ∧ ({ s with ctl.cycle := 0x100000 } : State).requestForced = true := by decide +kernel
theorem witness_AsynchronousCauseResult_kernel :
    let s : State := { kern with commit := some .plain, ctl.tcmp := 0, ctl.estatus := 8 }
    s.ctl.tcmp.toNat ≤ s.ctl.cycle.toNat ∧ s.atBoundary = true ∧ s.level = .kernel ∧ s.ctl.estatus.getLsbD 3 = true ∧
      s.ctl.estatus.getLsbD 2 = false := by decide +kernel
theorem witness_AsynchronousCauseResult_counts :
    let s : State := { user with commit := some .boundary, ctl.preReq := some 0, ctl.kstat := 0x5FFFFFFFFFFFF }
    (nextOf (exec .preemptionTrap s)).ctl.kstat = 0x5FFFFFFFFFFFF ∧
      (nextOf (exec .preemptionTrap { s with ctl.kstat := 0 })).ctl.kstat = 0x1000000 := by decide +kernel
theorem witness_AsynchronousCauseResult_wfi : user.ctl.cycle.toNat < user.ctl.tcmp.toNat ∧ user.ctl.preReq = none ∧
    user.ctl.ustat.toNat % 2 ^ 11 = 0 ∧ user.ctl.wake = false ∧ user.wait = none ∧
    2 ^ 20 ≤ ((0x100000#64) - 0#64).toNat := by decide +kernel
theorem witness_HubRegisterResult : (0#11).toNat = Config.coreId ∧ (1#11).toNat ≠ Config.coreId ∧ user.mode ≠ .idle ∧
    State.reset.mode = .halted ∧ (0x3FFF00000010#64).toNat = 0x3FFF00000000 + 4096 * Config.coreId + 16 ∧
    isControl 0x3FFF00000010 = true ∧ (controlWrite8 user (hostWho 0) 0x3FFF00000010 5).isSome = true ∧
    isControl 0x1000 = false := by decide +kernel
theorem witness_HubRegisterResult_release :
    let s : State := { storeByte user 0x1000 7 with hub.semas := mapSet [] 9 0x10001 }
    let t := nextOf (exec (.controlRegisterWrite false 0x3FFF80000048 0) s)
    (mapGet s.hub.semas 9).toNat % 2 ^ 16 = 1 + Config.coreId ∧ s.isLeft 0x1000 = false ∧ s.pubByte 0x1000 = 0 ∧
      t.pubByte 0x1000 = 7 ∧ mapGet t.hub.semas 9 = 0x10000 := by decide +kernel
theorem witness_HubRegisterResult_doorbell :
    (nextOf (exec (.controlRegisterWrite true 0x3FFF80007010 0x1000) user)).hub.bellReq = [(1, 0x1000)] ∧
    (nextOf (exec (.controlRegisterWrite false 0x3FFF80007010 0x1000) user)).hub.bellReq = [] := by decide +kernel
theorem witness_HubRegisterResult_doorbell_load :
    let s := { user with hub.doorbell := mapSet [] 1 2 }
    (controlRead s s.self 0x3FFF80007010 8).map (·.1) = some 0 ∧
      (controlRead s s.self 0x3FFF80007018 8).map (·.1) = some 2 := by decide +kernel
theorem witness_HubRegisterResult_acquire : (1#16).toNat = 1 + Config.coreId ∧
    (mapGet (nextOf (exec (.semaphoreAcquire 1 9) user)).hub.semas 9).toNat % 2 ^ 16 = 1 := by decide +kernel
theorem witness_HubEventResult : isMemory 0x1000 = true ∧ 2 ^ 46 ≤ (0x400000001000#47).toNat ∧ (0x400000001000#47).toNat < 2 ^ 46 + 2 ^ 21 ∧ (9 : Nat) ≤ (9#4).toNat ∧ (8#4).toNat < 9 ∧
    user.hub.ringDown.getLsbD 8 = false ∧
    (let s : State := { user with commit := some .plain, ctl.errPend := [(2, 0x1000)] }
     s.atBoundary = true ∧ s.ctl.errPend.any (fun x => x.1 == 2) = true ∧ s.ctl.errPend.all (fun x => x.1 != 5) = true ∧
       s.mode = .running ∧ s.wait = none ∧ s.level = .program) := by decide +kernel
theorem witness_HubEventResult_grant : groupOf user 3 = [3] ∧
    ([0x60#8].getD 0 0).toNat < 105 ∧ 95 ≤ ([0x60#8].getD 0 0).toNat ∧ 105 ≤ ([0x69#8].getD 0 0).toNat ∧
    115 ≤ ([0x73#8].getD 0 0).toNat ∧ (List.getD [0x73#8] 1 0).toNat < 110 ∧
    (0#12).toNat * 10 ≤ user.hub.plim.toNat * 11 := by decide +kernel
theorem witness_HubEventResult_refresh :
    let t := nextOf (exec (.refreshEvaluation [84, 85, 95, 109]) user)
    (upto 0 4).map (fun k => (mapGet t.hub.refresh k).toNat) = [1, 2, 4, 4] ∧ t.hub.powered = true := by decide +kernel
theorem witness_BootAndAttestationResult : (0 : BitVec 2) ≠ 3 ∧ (user.box 0 1).getLsbD 0 = false ∧
    ((setBox user 0 1 1).box 0 1).getLsbD 0 = true ∧ firm.level = .firmware ∧ user.level ≠ .firmware ∧
    (List.replicate 64 (0 : Byte)).length = 64 := by decide +kernel
/-- A packet of kind 0 with the number 1 on connection 9. -/
def packet1 : Packet := ⟨0, 9, 1, 0, 0x1000, [0xAB]⟩
/-- Port 0 is on, and connection 9 is open with `got` packets received. -/
def portState (got : BitVec 64) : State := { setPort (setPort user 0 0 3) 0 1 1 with
  hub.conns := [⟨9, 0, 0, 1, got, [(⟨4, 9, 1, 0, 0, []⟩, 0)], [], [], [], false, false, 0⟩] }
theorem witness_TransportResult : packet1.kind ≤ 8 ∧ packet1.data.length ≤ 4096 ∧ (portState 0).portOn 0 = true ∧
    user.portOn 0 = false ∧ parsePacket [] = none ∧ parsePacket (datagram packet1) = some packet1 ∧
    (findConn (portState 0) 9).isSome = true := by decide +kernel
theorem witness_TransportResult_form : PacketForm (.write 0 (datagram packet1)) 0 0 (datagram packet1) :=
  .write 0 (datagram packet1)
theorem witness_TransportResult_write :
    let s := setPort (setPort (setPort (portState 0) 0 8 0x1000) 0 9 0x2000) 0 10 3
    (hostWrite s 0 (hostWho 0) 0x1000 [0xAB]).isSome = true ∧ isControl 0x1000 = false ∧
      inWindow s 0 false 0x1FE0 64 = false := by decide +kernel
theorem witness_TransportResult_links :
    let s := portState 0
    (s.hub.conns.length = 1) ∧ (findConn s 9).map (fun c => (c.port, c.failed, c.pending.length)) = some (0, false, 1) ∧
      (findConn s 8).isNone = true := by decide +kernel
theorem witness_TransportResult_links_all :
    let c : Conn := ⟨8, 0, 0, 0, 0, [], [], [], [], false, false, 1⟩
    let s : State := { portState 0 with hub.conns := (portState 0).hub.conns ++ [c], hub.peers := mapSet [] 0 (9 * 2 ^ 32 + 12) }
    let t := nextOf (exec (.linkLoss 0) s)
    s.hub.conns.map (failsOver s) = [true, false] ∧ t.hub.conns.map (·.port) = [1, 0] ∧
      t.hub.conns.map (·.waiting) = [false, true] := by decide +kernel
theorem witness_TransportResult_write_exec :
    let s := setPort (setPort (setPort (portState 0) 0 8 0x1000) 0 9 0x2000) 0 10 3
    s.portOn 0 = true ∧ parsePacket (datagram packet1) = some packet1 ∧ packet1.kind = 0 ∧
      (findConn s 9).map (fun c => c.got) = some 0 ∧ packet1.seq = 0 + 1 ∧ inWindow s 0 true 0x1000 1 = true ∧
      plainBytes s 0x1000 1 = true ∧ (nextOf (exec (.write 0 (datagram packet1)) s)).pubByte 0x1000 = 0xAB := by decide +kernel
theorem witness_TransportResult_failover :
    let s := portState 0
    failsOver { s with hub.peers := mapSet [] 0 (9 * 2 ^ 32 + 12) } ⟨9, 0, 0, 1, 0, [], [], [], [], false, false, 0⟩ = true ∧
      failsOver s ⟨9, 0, 0, 1, 0, [], [], [], [], false, false, 0⟩ = false := by decide +kernel
theorem witness_TransportResult_stays :
    let c : Conn := ⟨9, 0, 0, 1, 0, [], [], [], [], false, true, 0⟩
    let s : State := { portState 0 with hub.conns := [c], hub.peers := mapSet [] 0 (9 * 2 ^ 32 + 8) }
    (peerOf s 9).isSome = true ∧ failsOver s c = false ∧ (cameOn s 1 c = c) ∧ (cameOn s 0 c).waiting = false := by decide +kernel
theorem witness_TransportResult_doorbell :
    let s := setPort (setPort (setPort launchState 0 8 0x1000) 0 9 0x2000) 0 10 3
    (hostLaunch s 0 0x1000).1 = 0 := by decide +kernel
theorem witness_TransportResult_doorbell_busy :
    let s := doorbellStore launchState 0 0x1000
    bitOf (mapGet launchState.hub.doorbell 0).toNat 2 = false ∧ bitOf (mapGet s.hub.doorbell 0).toNat 2 = true ∧
      s.hub.bellReq = [(0, 0x1000)] := by decide +kernel

/-! ### Small steps: one instruction, expected results from the spec's own tables and examples -/

/-- What sD holds after one instruction on two operands in s6 and s7. -/
def result (i : Instr) (x y : Word) : Word := (nextOf (exec i ((user.wr 6 x).wr 7 y))).rd 5

/-- 03_scalar.md R67: the shifts of its closing paragraph. -/
theorem test_shl_by_64 : result (.shl 5 6 7) 1 64 = 0 := by decide +kernel
theorem test_shl_by_256 : result (.shl 5 6 7) 3 256 = 3 := by decide +kernel
theorem test_shra_by_200 : result (.shra 5 6 7) (-5) 200 = -1 := by decide +kernel
/-- 03_scalar.md R68: `cmpltiu` and `cmpeqi` with −1. -/
theorem test_cmpltiu_all_ones : result (.cmpltiu 5 6 (-1)) (BitVec.allOnes 64) 0 = 0 := by decide +kernel
theorem test_cmpeqi_all_ones : result (.cmpeqi 5 6 (-1)) (BitVec.allOnes 64) 0 = 1 := by decide +kernel
/-- 03_scalar.md R72: the two examples of `ihs`. -/
theorem test_ihs_low : result (.ihs 5 0 0xFFFE) 0 0 = -2 := by decide +kernel
theorem test_ihs_high : result (.ihs 5 1 0x8000) 0 0 = BitVec.ofInt 64 (-2 ^ 31) := by decide +kernel
/-- 03_scalar.md R74: the table of borderline cases. -/
theorem test_divs_negative_divisor : result (.divs 5 6 7) 7 (-2) = -4 := by decide +kernel
theorem test_mods_negative_divisor : result (.mods 5 6 7) 7 (-2) = -1 := by decide +kernel
theorem test_divs_by_zero : result (.divs 5 6 7) 5 0 = 0 := by decide +kernel
theorem test_mods_by_zero : result (.mods 5 6 7) 5 0 = 5 := by decide +kernel
theorem test_divs_overflow : result (.divs 5 6 7) 0x8000000000000000 (-1) = 0x8000000000000000 := by decide +kernel
theorem test_modu_by_zero : result (.modu 5 6 7) 7 0 = 7 := by decide +kernel
theorem test_mulh_uu : result (.mulhUu 5 6 7) (-1) (-1) = 0xFFFFFFFFFFFFFFFE := by decide +kernel
theorem test_mulh_su : result (.mulhSu 5 6 7) (-1) (-1) = 0xFFFFFFFFFFFFFFFF := by decide +kernel
/-- 03_scalar.md R75, R76: a count of zero, and the example of a work-identifier field. -/
theorem test_clz_zero : result (.clz 5 6) 0 0 = 64 := by decide +kernel
theorem test_bfxu_example : result (.bfxu 5 6 7) 0x12345678 0x140C = 0x12345 := by decide +kernel
theorem test_bfx_sign : result (.bfx 5 6 7) 0x80000000 0x2000 = 0xFFFFFFFF80000000 := by decide +kernel
theorem test_brev : result (.brev 5 6) 1 0 = 0x8000000000000000 := by decide +kernel
/-- 03_scalar.md R62: a write to s0 is discarded. -/
theorem test_s0 : (nextOf (exec (.addi 0 6 1) user)).rd 0 = 0 := by decide +kernel
/-- 04_control.md R89: `jalr s30, s30, 0` calls and leaves the return address. -/
theorem test_jalr : (nextOf (exec (.jalr 30 30 0) (user.wr 30 0x4000))).pc = 0x4000 ∧
    (nextOf (exec (.jalr 30 30 0) (user.wr 30 0x4000))).rd 30 = 0x3004 := by decide +kernel
/-- 04_control.md R90: a misaligned target traps with cause 6 and the target in eaddr. -/
theorem test_jalr_misaligned : (nextOf (exec (.jalr 30 6 2) user)).ctl.ecause = 6 ∧
    (nextOf (exec (.jalr 30 6 2) user)).ctl.eaddr = 2 := by decide +kernel
/-- 04_control.md R97: the back edge of a counted loop. -/
theorem test_back_edge :
    (nextOf (exec .nop { user with loops := [⟨.counted, 0x2000, 0x3000, 2, 0, false⟩] })).pc = 0x2000 := by decide +kernel
/-- 06_memory.md R153: sign and zero extension, and a store of the low bytes. -/
theorem test_lb : (nextOf (exec (.lb 5 6 0) (poke (user.wr 6 0x1000) 0x1000 1 0x80))).rd 5 = -128 := by decide +kernel
theorem test_lbu : (nextOf (exec (.lbu 5 6 0) (poke (user.wr 6 0x1000) 0x1000 1 0x80))).rd 5 = 128 := by decide +kernel
theorem test_sh : (nextOf (exec (.sh 7 6 0) ((user.wr 6 0x1000).wr 7 0x12345))).num 0x1000 4 = 0x2345 := by decide +kernel
/-- 06_memory.md R157: `atcas` stores when the old value equals sD. -/
theorem test_atcas : (nextOf (exec (.atcas 5 6 7 2 1) (((user.wr 6 0x1000).wr 7 9).wr 5 0))).num 0x1000 8 = 9 := by
  decide +kernel
theorem test_atcas_fails :
    (nextOf (exec (.atcas 5 6 7 2 1) (((user.wr 6 0x1000).wr 7 9).wr 5 4))).num 0x1000 8 = 0 := by decide +kernel
/-- 03_scalar.md R80: a program may not read a kernel CSR. -/
theorem test_crd_privilege : (nextOf (exec (.crd 5 0x404) user)).ctl.ecause = 1 := by decide +kernel
/-- 07_lanes.md R195: a vector sum of 8-bit elements wraps. -/
theorem test_vadd : (nextOf (exec (.vaddScalar 4 3 7 0) (vec (user.wr 7 0x7F)))).elem 4 3 16 % 256 = 0x7F := by decide +kernel
/-- 08_masks.md R211: a compare clears the bits of elements that fail and keeps those at and above vl. -/
theorem test_vseq_mask :
    let t := nextOf (exec (.vseqScalar 1 0 11 0) (vec (user.wr 11 1)))
    t.maskBit 1 0 = false ∧ t.maskBit 1 4 = false := by decide +kernel
/-- 08_masks.md R215: no bit set. -/
theorem test_vfirst_none : (nextOf (exec (.vfirst 1 5) (vec user))).rd 5 = BitVec.allOnes 64 := by decide +kernel
theorem test_mcnt_all : (nextOf (exec (.mcnt 0 5) (vec user))).rd 5 = 4 := by decide +kernel
/-- 05_numbers.md R120: codes of 1.0 and of the largest finite number. -/
theorem test_round_one : cvtFp fp32 .rne false (valFp fp32 0x3F800000) = ⟨0x3F800000, 0, 0⟩ := by decide +kernel
theorem test_round_bf16_tie : (cvtFp bf16 .rne false (valFp fp32 0x3F808000)).val = 0x3F80 := by decide +kernel
/-- 11_sync.md R300: an unreached counter. -/
theorem test_tlpoll : (nextOf (exec (.tlpoll 5 3 9) (user.wr 9 1))).rd 5 = 0 := by decide +kernel
/-- 13_work.md R342: the example `widf s9, 1, s0` of a shape with fields of 4 and 8 bits. -/
theorem test_widf : (nextOf (exec (.widf 5 1 0) { user with ctl.wid := 0x123, ctl.wfields := 0x0002000000000804 })).rd 5 =
    0x12 := by decide +kernel
/-- 14_sparse.md R373, R374: a push writes the entry and the tail. -/
theorem test_wlpush : (nextOf (exec (.wlpush 9 12 13) ((listState 0 0 0).wr 13 7))).num 0x2000 4 = 7 ∧
    (nextOf (exec (.wlpush 9 12 13) ((listState 0 0 0).wr 13 7))).num 0x1020 8 = 1 := by decide +kernel
/-- 17_system.md R447: `trap 3` has cause 13 with sub 3 and returns behind itself. -/
theorem test_trap : (nextOf (exec (.trap 3) user)).ctl.ecause = 0x30D ∧ (nextOf (exec (.trap 3) user)).ctl.epc = 0x3004 := by
  decide +kernel
/-- 17_system.md R448: `tret` goes back to the level and the place that were saved. -/
theorem test_tret :
    let t := nextOf (exec .tret { kern with ctl.epc := 0x5000, ctl.estatus := 4 })
    t.pc = 0x5000 ∧ t.level = .program ∧ t.ctl.estatus.getLsbD 2 = false := by decide +kernel
/-- 18_platform.md R463: the first load of a semaphore takes it. -/
theorem test_semaphore : mapGet (nextOf (exec (.semaphoreAcquire 5 9) user)).hub.semas 9 = 0x10005 := by decide +kernel
/-- 16_kv.md R416: a Barchan operation on a sequence whose cache is not valid gives −3. -/
theorem test_kvalloc_invalid :
    (nextOf (exec .barchanOperation (nextOf (exec (.kvalloc 9 20 10) kvState)))).kv.barResults = [(1, -3)] := by
  decide +kernel

end Sys2Proof.Tests
end

/-!
PROOF. The result of a CSR instruction: what it reads, writes and returns when it is legal, and the trap it takes when it is not
(03_scalar.md R77 to R85; 17_system.md R442, R443).
-/

namespace Sys2Proof.Machine

/-! ### Levels -/

theorem Level.one_le_code {l : Level} : 1 ≤ l.code ↔ l ≠ .program := by
  cases l <;> decide

theorem Level.two_le_code {l : Level} : 2 ≤ l.code ↔ l = .firmware := by
  cases l <;> decide

/-! ### Where a trap goes (17_system.md R442, R443) -/

theorem takeTrap_of_kernelTakes {s : State} (h : s.kernelTakes) (t : Trap) : takeTrap s t = kernelEntry s t := by
  obtain hp | ⟨hk, hn⟩ := h
  · exact takeTrap_program hp t
  · refine if_neg ?_
    rintro (hf | ⟨-, he⟩)
    · exact nomatch hk.symm.trans hf
    · exact nomatch hn.symm.trans he

theorem takeTrap_of_not_kernelTakes {s : State} (h : ¬ s.kernelTakes) (t : Trap) :
    takeTrap s t = firmwareEntry s t := by
  refine if_pos ?_
  cases hl : s.level with
  | program => exact absurd (.inl hl) h
  | kernel => exact .inr ⟨rfl, eq_true_of_ne_false fun hn => h (.inr ⟨hl, hn⟩)⟩
  | firmware => exact .inl rfl

/-- The instruction takes the illegal-instruction trap in state s and has no other effect (02_encoding.md R45,
03_scalar.md R80). -/
def IllegalAt (s : State) (i : Instr) : Prop :=
  (s.kernelTakes → exec i s = .next (kernelEntry s { code := 1 })) ∧
    (¬ s.kernelTakes → exec i s = .next (firmwareEntry s { code := 1 }))

theorem illegalAt_of_exec {s : State} {i : Instr} (h : exec i s = .next (takeTrap s { code := 1 })) : IllegalAt s i :=
  ⟨fun hk => by rw [h, takeTrap_of_kernelTakes hk], fun hk => by rw [h, takeTrap_of_not_kernelTakes hk]⟩

/-! ### The count of instructions steers nothing

A commit changes the same fields in the same way whatever `instret` holds, so a write of `instret` can be moved past it. -/

/-- The state with another count of committed instructions (03_scalar.md R85). -/
def State.withInstret (s : State) (v : Word) : State := { s with instret := v }

theorem csrWrite_instret (s : State) (v : Word) : csrWrite s 0x051 v = s.withInstret v := rfl

theorem withInstret_withInstret (s : State) (v w : Word) : (s.withInstret v).withInstret w = s.withInstret w := rfl

theorem withInstret_ite (c : Prop) [Decidable c] (s t : State) (v : Word) :
    (if c then s else t).withInstret v = if c then s.withInstret v else t.withInstret v :=
  apply_ite (State.withInstret · v) c s t

theorem withInstret_level (s : State) (v : Word) : (s.withInstret v).level = s.level := rfl
theorem withInstret_loops (s : State) (v : Word) : (s.withInstret v).loops = s.loops := rfl

theorem wr_withInstret (s : State) (d : BitVec 5) (v w : Word) :
    (s.withInstret v).wr d w = (s.wr d w).withInstret v := by
  unfold State.wr State.setReg
  simp only [withInstret_ite, withInstret_level]
  cases s.level with
  | program => simp only [withInstret_ite]; rfl
  | kernel => rfl
  | firmware => rfl

theorem frameAdvance_withInstret (s : State) (v : Word) :
    frameAdvance (s.withInstret v) = (frameAdvance s).withInstret v := by
  unfold frameAdvance
  simp only [withInstret_ite]
  rfl

theorem backEdge_withInstret (s : State) (e : LoopEntry) (rest : List LoopEntry) (v : Word) :
    backEdge (s.withInstret v) e rest = (backEdge s e rest).withInstret v := by
  unfold backEdge
  cases e.kind with
  | counted => simp only [withInstret_ite]; rfl
  | vector => simp only [withInstret_ite]; rfl
  | sweep => rfl

theorem advance_withInstret (s : State) (v : Word) : advance (s.withInstret v) = (advance s).withInstret v := by
  unfold advance
  simp only [withInstret_ite, frameAdvance_withInstret, withInstret_loops]
  cases s.loops with
  | nil => rfl
  | cons e rest => simp only [withInstret_ite, backEdge_withInstret]; rfl

theorem retire_withInstret (s : State) (v w : Word) :
    (retire (s.withInstret v)).withInstret w = (retire s).withInstret w := by
  have h : retire (s.withInstret v) = (retire s).withInstret (v + 1) := advance_withInstret (counted s) (v + 1)
  rw [h, withInstret_withInstret]

/-! ### Which CSR instructions are legal (03_scalar.md R77, R79, R80) -/

theorem csrReadable_iff {s : State} {c : Nat} :
    csrReadable s c = true ↔ csrListed c = true ∧ csrLevel c ≤ s.level.code := by
  simp [csrReadable]

theorem csrReadable_eq_false {s : State} {c : Nat} (h : csrListed c = false ∨ s.level.code < c / 1024 % 4) :
    csrReadable s c = false := by
  refine eq_false_of_ne_true fun hr => ?_
  obtain ⟨hlisted, hlevel⟩ := csrReadable_iff.mp hr
  obtain hn | hlow := h
  · exact nomatch hn.symm.trans hlisted
  · exact absurd hlevel (Nat.not_le.mpr hlow)

theorem csrWritable_iff {s : State} {c : Nat} :
    csrWritable s c = true ↔ csrReadable s c = true ∧ ∃ l, csrWriteLevel c = some l ∧ l ≤ s.level.code := by
  unfold csrWritable
  cases csrWriteLevel c with
  | none => simp
  | some l => simp

/-- A register that the level may not read it may not write either (R80). -/
theorem csrWritable_eq_false_of_not_readable {s : State} {c : Nat} (h : csrReadable s c = false) :
    csrWritable s c = false :=
  eq_false_of_ne_true fun hw => nomatch h.symm.trans (csrWritable_iff.mp hw).1

/-- A register that is read-only at the level: by bit 9 of its number, or as `cycle` below firmware and `instret` at program
level are (R77, R79). -/
theorem csrWritable_eq_false_of_readOnly {s : State} {c : Nat}
    (h : c / 512 % 2 = 1 ∨ (c = 0x050 ∧ s.level ≠ .firmware) ∨ (c = 0x051 ∧ s.level = .program)) :
    csrWritable s c = false := by
  refine eq_false_of_ne_true fun hw => ?_
  obtain ⟨-, l, hl, hle⟩ := csrWritable_iff.mp hw
  obtain hro | ⟨rfl, hlevel⟩ | ⟨rfl, hlevel⟩ := h
  · have hnone : csrWriteLevel c = none := by simp [csrWriteLevel, bitOf, hro]
    exact nomatch hnone.symm.trans hl
  · cases hl
    exact hlevel (Level.two_le_code.mp hle)
  · cases hl
    exact Level.one_le_code.mp hle hlevel

theorem csrWritable_instret {s : State} (h : s.level ≠ .program) : csrWritable s 0x051 = true :=
  csrWritable_iff.mpr ⟨csrReadable_iff.mpr ⟨rfl, Nat.zero_le _⟩, 1, rfl, Level.one_le_code.mpr h⟩

/-! ### What a CSR instruction does (03_scalar.md R82, R85) -/

theorem exec_crd (s : State) (d : BitVec 5) (c : BitVec 12) : exec (.crd d c) s = execCrd d c s := rfl

theorem exec_crd_of_readable {s : State} {c : BitVec 12} (h : csrReadable s c.toNat = true) (d : BitVec 5) :
    exec (.crd d c) s = .next (retire (s.wr d (csrRead s c.toNat))) := by
  rw [exec_crd, execCrd, h]
  rfl

theorem illegalAt_crd {s : State} {c : BitVec 12} (h : csrReadable s c.toNat = false) (d : BitVec 5) :
    IllegalAt s (.crd d c) := by
  refine illegalAt_of_exec ?_
  rw [exec_crd, execCrd, h]
  rfl

/-- The six writing forms differ only in the value they write (R82). -/
theorem exec_csrWriter {s : State} {i : Instr} {d : BitVec 5} {c : BitVec 12} {v : Word} (h : CsrWriter s i d c v) :
    exec i s = csrUpdate d c (fun _ => v) s := by
  cases h with
  | cwr a => rfl
  | cset a => rfl
  | cclr a => rfl
  | cwri k => rw [BitVec.ofNat_toNat]; rfl
  | cseti k => rw [BitVec.ofNat_toNat]; rfl
  | cclri k => rw [BitVec.ofNat_toNat]; rfl

theorem csrUpdate_of_writable {s : State} {c : BitVec 12} (h : csrWritable s c.toNat = true) (d : BitVec 5)
    (f : Word → Word) : csrUpdate d c f s = .next (csrCommit s d c.toNat (f (csrRead s c.toNat))) := by
  rw [csrUpdate, h]
  rfl

theorem csrUpdate_of_not_writable {s : State} {c : BitVec 12} (h : csrWritable s c.toNat = false) (d : BitVec 5)
    (f : Word → Word) : csrUpdate d c f s = .next (takeTrap s { code := 1 }) := by
  rw [csrUpdate, h]
  rfl

theorem csrCommit_of_ne_instret {c : Nat} (h : c ≠ 0x051) (s : State) (d : BitVec 5) (v : Word) :
    csrCommit s d c v = retire ((csrWrite s c v).wr d (csrRead s c)) :=
  if_neg h

/-- A write of `instret` is the commit of the old value with the count set behind it (R85). -/
theorem csrCommit_instret (s : State) (d : BitVec 5) (v : Word) :
    csrCommit s d 0x051 v = (retire (s.wr d (csrRead s 0x051))).withInstret v :=
  calc csrCommit s d 0x051 v
    _ = (retire ((s.withInstret v).wr d (csrRead s 0x051))).withInstret v := by rw [← csrWrite_instret s v]; rfl
    _ = (retire ((s.wr d (csrRead s 0x051)).withInstret v)).withInstret v := by rw [wr_withInstret]
    _ = (retire (s.wr d (csrRead s 0x051))).withInstret v := retire_withInstret _ v v

theorem illegalAt_csrWriter {s : State} {i : Instr} {d : BitVec 5} {c : BitVec 12} {v : Word} (h : CsrWriter s i d c v)
    (hw : csrWritable s c.toNat = false) : IllegalAt s i :=
  illegalAt_of_exec ((exec_csrWriter h).trans (csrUpdate_of_not_writable hw d _))

/-! ### The obligation -/

/-- Settles O15: every writing form is one update with R82's value, whose legality is `csrWritable`, and the write of `instret`
moves past the commit because a commit reads no count. -/
theorem csrInstructionResult : Obligations.CsrInstructionResult := by
  refine ⟨fun s d c hlisted hlevel => ?_, fun s i d c v hi hw hc => ?_, fun s i d v hi hl => ?_,
    fun s c => ⟨fun h => ?_, fun h => ?_⟩⟩
  · exact exec_crd_of_readable (csrReadable_iff.mpr ⟨hlisted, hlevel⟩) d
  · have hne : c.toNat ≠ 0x051 := fun e => hc (BitVec.eq_of_toNat_eq e)
    rw [exec_csrWriter hi, csrUpdate_of_writable hw, csrCommit_of_ne_instret hne]
  · rw [exec_csrWriter hi, csrUpdate_of_writable (csrWritable_instret hl)]
    exact congrArg _ (csrCommit_instret s d v)
  · have hr := csrReadable_eq_false h
    exact ⟨illegalAt_crd hr, fun i d v hi => illegalAt_csrWriter hi (csrWritable_eq_false_of_not_readable hr)⟩
  · refine fun i d v hi => illegalAt_csrWriter hi (csrWritable_eq_false_of_readOnly ?_)
    refine h.imp_right (Or.imp ?_ ?_)
    · rintro ⟨rfl, hl⟩
      exact ⟨rfl, hl⟩
    · rintro ⟨rfl, hl⟩
      exact ⟨rfl, hl⟩

end Sys2Proof.Machine

/-!
PROOF. Redirecting instructions at the end of the top hardware loop (04_control.md R98): the search of a `sweep` comes before its
place (15_sweep.md R390, 17_system.md R439).
-/

namespace Sys2Proof.Machine

/-! ### The search of a `sweep` faults first -/

/-- An address that is not canonical has no translation at any level (06_memory.md R143, R149). -/
theorem translate_of_not_canonical {s : State} {va : Word} (h : canonical va = false) (k : Access) :
    translate s k va = .error ⟨.page, va⟩ := by
  have hmapped : mapped s.level va = false := by simp [mapped, h]
  simp [translate, hmapped, translateAt, h, failAt]

theorem fetchSearched_of_translate_error {s : State} {va : Word} {f : MemFault} (h : translate s .fetch va = .error f) :
    fetchSearched s va = .error (.trap { code := 2, eaddr := va }) := by
  rw [fetchSearched, h]

/-- A `sweep` whose first searched word has no translation takes the fetch page fault, wherever the `sweep` stands: none of its
conditions of legality is looked at (15_sweep.md R390, 17_system.md R439). -/
theorem exec_sweep_of_translate_error {s : State} {f : MemFault} (h : translate s .fetch (s.pc + 4) = .error f)
    (e : BitVec 6) (c : BitVec 5) (n : BitVec 2) :
    exec (.sweep e c n) s = .next (takeTrap s { code := 2, eaddr := s.pc + 4 }) := by
  have hsearch (w : Nat) : findWord s (s.pc + 4) w 1024 0 = .error (.trap { code := 2, eaddr := s.pc + 4 }) := by
    rw [findWord, fetchSearched_of_translate_error h]
    rfl
  change execSweep e c n s = _
  rw [execSweep, hsearch]
  rfl

/-! ### The obligation -/

theorem kernelEntry_ecause (s : State) (t : Trap) : (kernelEntry s t).ctl.ecause = t.cause := rfl

/-- A program whose next word ends a hardware loop and is the last one below the first address that is not canonical, 2^54. -/
def loopEndBelowHole : State :=
  { State.reset with
    mode := .running
    level := .program
    pc := 0x003FFFFFFFFFFFFC
    loops := [⟨.counted, 0x003FFFFFFFFFFFF0, 0x003FFFFFFFFFFFFC, 2, 0, false⟩]
    sched.act := some ⟨⟨0x003FFFFFFFFFFFF0, 0, 0, 0⟩, 0, 0, 0x80000, none, none, false, 0, 0, 0, 0⟩ }

/-- A `sweep` at that loop end takes the fetch page fault of the word at 2^54. -/
theorem exec_sweep_loopEndBelowHole (e : BitVec 6) (c : BitVec 5) (n : BitVec 2) :
    exec (.sweep e c n) loopEndBelowHole = .next (kernelEntry loopEndBelowHole { code := 2, eaddr := 0x0040000000000000 }) := by
  have hnext : translate loopEndBelowHole .fetch (loopEndBelowHole.pc + 4) = .error ⟨.page, 0x0040000000000000⟩ :=
    translate_of_not_canonical (by decide) .fetch
  rw [exec_sweep_of_translate_error hnext, takeTrap_program rfl]
  rfl

/-- Refutes O19: its second clause makes every `sweep` at the end of the top hardware loop illegal, without the proviso, which it
has for branches and jumps, that no fetch page fault comes first (17_system.md R439). `sweep` searches the words behind it
(15_sweep.md R390); in `loopEndBelowHole` the first of them is not canonical, and the cause is 2, not 1. -/
theorem not_redirectChecks : ¬ Obligations.RedirectChecks := by
  rintro ⟨-, loopEndIllegal, -⟩
  obtain ⟨-, -, -, -, -, -, -, -, -, -, -, -, -, -, -, sweepIllegal, -⟩ := loopEndIllegal loopEndBelowHole rfl rfl (by decide)
  have hnext := (exec_sweep_loopEndBelowHole 0 0 0).symm.trans (sweepIllegal 0 0 0)
  have hcause := congrArg (·.ctl.ecause) (Host.Outcome.next.inj hnext)
  simp only [kernelEntry_ecause] at hcause
  exact absurd hcause (by decide)

end Sys2Proof.Machine

/-!
PROOF. Compares, mask operations and mask searches: which bits of a mask they write and what a search of a mask answers
(08_masks.md R206, R207, R210 to R215; 17_system.md R454).
-/

namespace Sys2Proof.Machine

/-! ### Replacing a range of sparse storage -/

theorem mapGet_append_of_not_left {w : Nat} {m : SMap w} {b : Nat} (h : ∀ c ∈ m, c.1 ≠ b) (n : SMap w) :
    mapGet (m ++ n) b = mapGet n b := by
  rw [mapGet_append, if_neg]
  simpa using fun v hv => h (b, v) hv

theorem mapGet_append_of_not_right {w : Nat} {n : SMap w} {b : Nat} (h : ∀ c ∈ n, c.1 ≠ b) (m : SMap w) :
    mapGet (m ++ n) b = mapGet m b := by
  induction m with
  | nil => simpa [mapGet] using mapGet_append_of_not_left h []
  | cons c t ih => simp [mapGet, ih]

theorem mapBuild_ge {w : Nat} (f : Nat → BitVec w) (lo n : Nat) : ∀ c ∈ mapBuild f lo n, lo ≤ c.1 := by
  induction n generalizing lo with
  | zero => simp [mapBuild]
  | succ n ih =>
    have above : ∀ c ∈ mapBuild f (lo + 1) n, lo ≤ c.1 := fun c hc => Nat.le_of_succ_le (ih (lo + 1) c hc)
    unfold mapBuild
    split
    · exact above
    · simpa using fun a v => above (a, v)

/-- A read after a range has been replaced. The map need not be canonical: no key of the range is left from before. -/
theorem mapGet_fill {w : Nat} (m : SMap w) (lo n : Nat) (f : Nat → BitVec w) (b : Nat) :
    mapGet (mapFill m lo n f) b = if lo ≤ b ∧ b < lo + n then f b else mapGet m b := by
  have below_lt : ∀ c ∈ m.filter (fun c => decide (c.1 < lo)), c.1 < lo := by simp
  have above_ge : ∀ c ∈ m.filter (fun c => decide (lo + n ≤ c.1)), lo + n ≤ c.1 := by simp
  have built_ge := mapBuild_ge f lo n
  have built_lt := mapBuild_lt f lo n
  unfold mapFill
  obtain hb | hb | hb : b < lo ∨ (lo ≤ b ∧ b < lo + n) ∨ lo + n ≤ b := by omega
  · rw [mapGet_append_of_not_right fun c hc => by have := above_ge c hc; omega,
      mapGet_append_of_not_right fun c hc => by have := built_ge c hc; omega,
      mapGet_filter (fun k => decide (k < lo)), if_pos (decide_eq_true hb), if_neg (by omega)]
  · rw [mapGet_append_of_not_right fun c hc => by have := above_ge c hc; omega,
      mapGet_append_of_not_left fun c hc => by have := below_lt c hc; omega, mapGet_build]
    simp only [hb, and_self, if_true]
  · rw [List.append_assoc, mapGet_append_of_not_left fun c hc => by have := below_lt c hc; omega,
      mapGet_append_of_not_left fun c hc => by have := built_lt c hc; omega,
      mapGet_filter (fun k => decide (lo + n ≤ k)), if_pos (decide_eq_true hb), if_neg (by omega)]

/-! ### The window lies in the register (07_lanes.md R180, R183, 04_control.md R111) -/

theorem vlmax_le (s : State) : s.vlmax ≤ 262144 := Nat.div_le_self _ _

/-- A window that is not empty ends at or below the vector length. -/
theorem window_le_vl {s : State} (h : s.window.n ≠ 0) : s.window.lo + s.window.n ≤ s.lanes.vl.toNat := by
  by_cases hs : s.inStrip = true
  · rw [State.window, if_pos hs] at h ⊢
    dsimp only at h ⊢
    omega
  · rw [State.window, if_neg hs]
    exact Nat.le_of_eq (Nat.zero_add _)

theorem window_n_of_vl_zero {s : State} (h : s.lanes.vl = 0) : s.window.n = 0 := by
  refine Decidable.byContradiction fun hn => ?_
  have fits := window_le_vl hn
  rw [h] at fits
  exact hn (Nat.eq_zero_of_add_eq_zero (Nat.le_zero.mp fits)).2

theorem window_le {s : State} (legal : LanesLegal s) (h : s.window.n ≠ 0) : s.window.lo + s.window.n ≤ 262144 :=
  Nat.le_trans (window_le_vl h) (Nat.le_trans legal.vl (vlmax_le s))

theorem maskBit_of_ne_zero {s : State} {m : Nat} (h : m ≠ 0) (e : Nat) :
    s.maskBit m e = (mapGet s.lanes.mask (vkey m e) == 1#1) := by
  simp [State.maskBit, h]

/-! ### Writing a mask (08_masks.md R206, R207) -/

theorem mapGet_writeMask (s : State) (d lo n : Nat) (f : Nat → Bool) (k : Nat) :
    mapGet (writeMask s d lo n f).lanes.mask k =
      if vkey d lo ≤ k ∧ k < vkey d lo + n then (if f (k - vkey d 0) then 1#1 else 0#1) else mapGet s.lanes.mask k :=
  mapGet_fill ..

theorem vkey_sub (d e : Nat) : vkey d e - vkey d 0 = e := by
  simp [vkey]

/-- Writing f to the window of a mask other than m0 is what `WritesMask` describes. -/
theorem writesMask_writeMask {s : State} (legal : LanesLegal s) {d : Nat} (hd : d ≠ 0) {f : Nat → Bool} {x : Nat → Prop}
    (hf : ∀ e, f e = true ↔ x e) : WritesMask s (writeMask s d s.window.lo s.window.n f) d x where
  body e lo hi := by
    have inside : vkey d s.window.lo ≤ vkey d e ∧ vkey d e < vkey d s.window.lo + s.window.n := by
      simp only [vkey]; omega
    rw [maskBit_of_ne_zero hd, mapGet_writeMask, if_pos inside, vkey_sub, ← hf]
    cases f e <;> decide
  others k e he out := by
    refine (mapGet_writeMask ..).trans (if_neg fun inside => ?_)
    simp only [vkey] at inside
    have fits := window_le legal (by omega)
    omega
  rest := rfl
  present := .inl rfl

/-- A mask of which no bit is in the window may stay as it is (log 37). -/
theorem writesMask_self {s : State} (h : s.window.n = 0) (d : Nat) (x : Nat → Prop) : WritesMask s s d x where
  body e lo hi := by omega
  others _ _ _ _ := rfl
  rest := rfl
  present := .inr ⟨h, rfl⟩

/-! ### What compares and mask operations do -/

theorem maskField_toNat_ne_zero {d : BitVec 3} (h : d ≠ 0) : d.toNat ≠ 0 := fun e => h (BitVec.eq_of_toNat_eq e)

theorem maskDestOk_of_ne_zero {d : BitVec 3} (h : d ≠ 0) : maskDestOk d = true := bne_iff_ne.mpr h

/-- The new bit of element e under a compare with the execution mask m and the condition c (R211). -/
def State.compareBit (s : State) (d m : BitVec 3) (c : Nat → Bool) (e : Nat) : Bool :=
  if s.maskBit m.toNat e then c e else s.maskBit d.toNat e

theorem compareBit_iff {s : State} {d m : BitVec 3} {f : Nat → Bool} {c : Nat → Prop} (hf : ∀ e, f e = true ↔ c e) (e : Nat) :
    s.compareBit d m f e = true ↔ if s.maskBit m.toNat e then c e else s.maskBit d.toNat e = true := by
  unfold State.compareBit
  split
  · exact hf e
  · rfl

theorem compare_of_legal {s : State} {d : BitVec 3} {ok : Bool} (hd : d ≠ 0) (hok : ok = true) (m : BitVec 3)
    (c : Nat → Bool) : compare d m ok c s =
      .next (retire (writeMask s d.toNat s.window.lo s.window.n (s.compareBit d m c))) := by
  unfold compare
  rw [maskDestOk_of_ne_zero hd, hok]
  rfl

theorem maskLogic_of_legal {s : State} {d : BitVec 3} (hd : d ≠ 0) (x : Nat → Bool) :
    maskLogic d x s = .next (retire (writeMask s d.toNat s.window.lo s.window.n x)) := by
  unfold maskLogic
  rw [maskDestOk_of_ne_zero hd]
  rfl

theorem vOk_iff {s : State} {r : BitVec 6} : s.vOk r = true ↔ r.toNat < s.nr := decide_eq_true_iff

theorem vOk_and_iff {s : State} {a b : BitVec 6} :
    (s.vOk a && s.vOk b) = true ↔ a.toNat < s.nr ∧ b.toNat < s.nr := by
  rw [Bool.and_eq_true, vOk_iff, vOk_iff]

/-- Every compare is `compare` with the condition and the source check of its row (R210, R212). -/
theorem exec_compareInto {s : State} {i : Instr} {d m : BitVec 3} {ok : Prop} {c : Nat → Prop}
    (h : CompareInto s i d m ok c) :
    ∃ (g : Bool) (f : Nat → Bool), (g = true ↔ ok) ∧ (∀ e, f e = true ↔ c e) ∧ exec i s = compare d m g f s := by
  cases h with
  | vseq | vsne | vslt | vsle | vsltu | vsleu | vsgt | vsgtu =>
    exact ⟨_, _, vOk_and_iff, fun _ => decide_eq_true_iff, rfl⟩
  | vseqScalar | vsneScalar | vsltScalar | vsleScalar | vsltuScalar | vsleuScalar | vsgtScalar | vsgtuScalar =>
    exact ⟨_, _, vOk_iff, fun _ => decide_eq_true_iff, rfl⟩

/-- The new bit of element e under `mslide` by n (R214). -/
theorem slideBit_iff {s : State} {a : BitVec 3} {n : Int} {e : Nat} :
    (decide (0 ≤ (e : Int) - n ∧ (e : Int) - n < s.lanes.vl.toNat) && s.mb a ((e : Int) - n).toNat) = true ↔
      ∃ k : Nat, (k : Int) = (e : Int) - n ∧ k < s.lanes.vl.toNat ∧ s.maskBit a.toNat k = true := by
  rw [Bool.and_eq_true, decide_eq_true_iff]
  constructor
  · rintro ⟨⟨nonneg, lt⟩, bit⟩
    exact ⟨_, Int.toNat_of_nonneg nonneg, by omega, bit⟩
  · rintro ⟨k, hk, lt, bit⟩
    rw [← hk]
    exact ⟨by omega, bit⟩

/-- Every mask operation is `maskLogic` with the bit of its row, but for `mslide` with an empty vector, which changes nothing
(R213, R214). -/
theorem exec_maskInto {s : State} {i : Instr} {d : BitVec 3} {x : Nat → Prop} (h : MaskInto s i d x) (hd : d ≠ 0) :
    (∃ f : Nat → Bool, (∀ e, f e = true ↔ x e) ∧ exec i s = maskLogic d f s) ∨
      (s.lanes.vl = 0 ∧ exec i s = .next (retire s)) := by
  cases h with
  | mand => exact .inl ⟨_, fun _ => Bool.and_eq_true_iff, rfl⟩
  | mor => exact .inl ⟨_, fun _ => Bool.or_eq_true_iff, rfl⟩
  | mxor => exact .inl ⟨_, fun _ => bne_iff_ne, rfl⟩
  | mandn _ a b => exact .inl ⟨fun e => s.mb a e && !s.mb b e, fun _ => by simp [State.mb], rfl⟩
  | mnot => exact .inl ⟨_, fun _ => iff_of_eq (Bool.not_eq_true' _), rfl⟩
  | mmv => exact .inl ⟨_, fun _ => Iff.rfl, rfl⟩
  | mslide _ a c =>
    have meaning : exec (.mslide d a c) s = execMslide d a c s := rfl
    rw [meaning, execMslide]
    by_cases hvl : s.lanes.vl = 0
    · rw [if_pos hvl, maskDestOk_of_ne_zero hd]
      exact .inr ⟨hvl, rfl⟩
    · rw [if_neg hvl]
      exact .inl ⟨_, fun _ => slideBit_iff, rfl⟩

theorem compareInto_writesMask {s : State} {i : Instr} {d m : BitVec 3} {ok : Prop} {c : Nat → Prop}
    (h : CompareInto s i d m ok c) (legal : LanesLegal s) (hd : d ≠ 0) (hok : ok) :
    ∃ u, exec i s = .next (retire u) ∧
      WritesMask s u d.toNat (fun e => if s.maskBit m.toNat e then c e else s.maskBit d.toNat e = true) := by
  obtain ⟨g, f, hg, hf, hexec⟩ := exec_compareInto h
  exact ⟨_, hexec.trans (compare_of_legal hd (hg.mpr hok) m f),
    writesMask_writeMask legal (maskField_toNat_ne_zero hd) (compareBit_iff hf)⟩

theorem maskInto_writesMask {s : State} {i : Instr} {d : BitVec 3} {x : Nat → Prop} (h : MaskInto s i d x)
    (legal : LanesLegal s) (hd : d ≠ 0) : ∃ u, exec i s = .next (retire u) ∧ WritesMask s u d.toNat x := by
  obtain ⟨f, hf, hexec⟩ | ⟨hvl, hexec⟩ := exec_maskInto h hd
  · exact ⟨_, hexec.trans (maskLogic_of_legal hd f), writesMask_writeMask legal (maskField_toNat_ne_zero hd) hf⟩
  · exact ⟨s, hexec, writesMask_self (window_n_of_vl_zero hvl) _ _⟩

/-! ### Searches of a mask (08_masks.md R215) -/

theorem upto_eq_range' (lo n : Nat) : upto lo n = List.range' lo n := by
  induction n generalizing lo with
  | zero => rfl
  | succ n ih => rw [upto, ih, List.range'_succ]

/-- Element e is below the vector length and its bit of the mask is set. -/
def State.IsChosen (s : State) (a : BitVec 3) (e : Nat) : Prop := e < s.lanes.vl.toNat ∧ s.maskBit a.toNat e = true

theorem chosen_eq (s : State) (a : BitVec 3) : s.chosen a = (List.range s.lanes.vl.toNat).filter (s.mb a) := by
  rw [State.chosen, upto_eq_range', List.range_eq_range']

theorem mem_chosen {s : State} {a : BitVec 3} {e : Nat} : e ∈ s.chosen a ↔ s.IsChosen a e := by
  rw [chosen_eq, List.mem_filter, List.mem_range]
  rfl

theorem chosen_eq_nil {s : State} {a : BitVec 3} (h : ∀ e, ¬ s.IsChosen a e) : s.chosen a = [] :=
  List.eq_nil_iff_forall_not_mem.mpr fun e he => h e (mem_chosen.mp he)

/-- The chosen numbers ascend. -/
theorem chosen_pairwise (s : State) (a : BitVec 3) : (s.chosen a).Pairwise (· < ·) := by
  rw [chosen_eq]
  exact List.pairwise_lt_range.filter _

theorem head?_of_least {l : List Nat} (sorted : l.Pairwise (· < ·)) {e : Nat} (he : e ∈ l) (least : ∀ k, k < e → k ∉ l) :
    l.head? = some e := by
  cases l with
  | nil => exact nomatch he
  | cons x t =>
    obtain rfl | ht := List.mem_cons.mp he
    · rfl
    · exact absurd List.mem_cons_self (least x (List.rel_of_pairwise_cons sorted ht))

theorem getLast?_of_greatest {l : List Nat} (sorted : l.Pairwise (· < ·)) {e : Nat} (he : e ∈ l)
    (greatest : ∀ k, e < k → k ∉ l) : l.getLast? = some e := by
  obtain ⟨t, u, rfl⟩ := List.append_of_mem he
  cases u with
  | nil => simp
  | cons y u =>
    have hy : e < y := List.rel_of_pairwise_cons (List.pairwise_append.mp sorted).2.1 List.mem_cons_self
    exact absurd (by simp) (greatest y hy)

theorem exec_vfirst (a : BitVec 3) (d : BitVec 5) (s : State) : exec (.vfirst a d) s = execVfirst a d s := rfl
theorem exec_vlast (a : BitVec 3) (d : BitVec 5) (s : State) : exec (.vlast a d) s = execVlast a d s := rfl
theorem exec_mcnt (a : BitVec 3) (d : BitVec 5) (s : State) : exec (.mcnt a d) s = execMcnt a d s := rfl

section
variable {s : State} {a : BitVec 3}

theorem exec_vfirst_of_least {e : Nat} (he : s.IsChosen a e) (least : ∀ k, k < e → ¬ s.IsChosen a k) (d : BitVec 5) :
    exec (.vfirst a d) s = .next (retire (s.wr d (BitVec.ofNat 64 e))) := by
  rw [exec_vfirst, execVfirst, head?_of_least (chosen_pairwise s a) (mem_chosen.mpr he)
    fun k hk => mt mem_chosen.mp (least k hk)]
  rfl

theorem exec_vlast_of_greatest {e : Nat} (he : s.IsChosen a e) (greatest : ∀ k, e < k → ¬ s.IsChosen a k) (d : BitVec 5) :
    exec (.vlast a d) s = .next (retire (s.wr d (BitVec.ofNat 64 e))) := by
  rw [exec_vlast, execVlast, getLast?_of_greatest (chosen_pairwise s a) (mem_chosen.mpr he)
    fun k hk => mt mem_chosen.mp (greatest k hk)]
  rfl

theorem exec_vfirst_of_none (h : ∀ e, ¬ s.IsChosen a e) (d : BitVec 5) :
    exec (.vfirst a d) s = .next (retire (s.wr d (BitVec.allOnes 64))) := by
  rw [exec_vfirst, execVfirst, chosen_eq_nil h]
  rfl

theorem exec_vlast_of_none (h : ∀ e, ¬ s.IsChosen a e) (d : BitVec 5) :
    exec (.vlast a d) s = .next (retire (s.wr d (BitVec.allOnes 64))) := by
  rw [exec_vlast, execVlast, chosen_eq_nil h]
  rfl

end

theorem exec_mcnt_eq (s : State) (a : BitVec 3) (d : BitVec 5) :
    exec (.mcnt a d) s = .next (retire (s.wr d (BitVec.ofNat 64
      ((List.range s.lanes.vl.toNat).countP (fun e => s.maskBit a.toNat e))))) := by
  rw [exec_mcnt, execMcnt, chosen_eq, ← List.countP_eq_length_filter]
  rfl

/-! ### The obligation -/

/-- Settles O27: every compare and mask operation is one write of the window, read back key by key, and a search looks at the
ascending list of the elements whose bit is set. -/
theorem maskInstructionResult : Obligations.MaskInstructionResult :=
  ⟨fun _ _ _ _ _ _ h legal hd hok => compareInto_writesMask h legal hd hok,
    fun _ _ _ _ h legal hd => maskInto_writesMask h legal hd,
    fun s a d => ⟨fun _ he least => exec_vfirst_of_least he least d, fun _ he greatest => exec_vlast_of_greatest he greatest d,
      fun h => ⟨exec_vfirst_of_none h d, exec_vlast_of_none h d⟩, exec_mcnt_eq s a d⟩⟩

end Sys2Proof.Machine
